-- ==== Sys2Proof/Word.lean ====
section
/-!
DEFINITION. The plain words of the model: fixed-width bit vectors for what the manual numbers as bits (R4), the
sparse map in which large, mostly unwritten state is held, and the names of the module's parts (R7, R154).
-/
namespace Sys2Proof

abbrev Byte := BitVec 8
abbrev W16 := BitVec 16
abbrev W32 := BitVec 32
abbrev W64 := BitVec 64
/-- One 16-byte unit of a fabric packet (R228). -/
abbrev W128 := BitVec 128
/-- One 32-byte command slot (R155) or link flit (R228). -/
abbrev W256 := BitVec 256

/-- A sparse map in canonical form: keys strictly rising, and no entry that holds the map's default. -/
abbrev SMap (α : Type) := List (Nat × α)

/-- Core ID (R7): 16 x district + core number. -/
abbrev CoreId := Fin 256
abbrev District := Fin 16
abbrev PartId := Fin 16
abbrev PortId := Fin 10

/-- The two contexts of a core (R154). -/
inductive CtxId where
  | primary
  | filler
  deriving DecidableEq, Repr

/-- Where a dispatched command comes from: one of the three streams, or the deferred queue (R154, R164). -/
inductive Src where
  | s0
  | s1
  | s2
  | dq
  deriving DecidableEq, Repr

/-- The streams of a core (R154). -/
inductive StreamId where
  | s0
  | s1
  | s2
  deriving DecidableEq, Repr

/-- The route by which an access reaches the object dictionary, with the partition it names (R361). -/
inductive Route where
  | can
  | mcl (part : PartId)
  | fabric (part : PartId)
  deriving DecidableEq, Repr

end Sys2Proof
end

