-- ==== Sys2Proof/Syntax.lean ====
section
/-!
DEFINITION. The commands of the module: one constructor of Instr per row of opcode_table.json, with the row's operands,
and the plain data those operands are made of.
-/
namespace Sys2Proof

/-- The place a dispatched command is issued from (R154, R164). -/
structure Slot where
  core : CoreId
  src : Src
  deriving DecidableEq, Repr

/-- A fabric packet (R235): the 16-byte header, its data units, and the port it arrived on (none: from inside the module). -/
structure Packet where
  hdr : W128
  data : List W128
  port : Option PortId
  deriving DecidableEq, Repr

/-- A message of the companion link (R340): the 16-byte header and its 64-byte lines. -/
structure MclMsg where
  hdr : W128
  lines : List (BitVec 512)
  deriving DecidableEq, Repr

/-- A slot of a fabric codeword (R228): a data flit of two units, lower address first, or a link control flit. Its first bit is its kind, 0
or 1. -/
inductive CwSlot where
  | data (lo hi : W128)
  | lcf (f : W256)
  deriving DecidableEq, Repr

/-- The name of an outstanding request (R239): kind of the requesting unit (0 core, 1 collective engine, 2 management
complex), its number, and the TAG. -/
structure ReqId where
  kind : Fin 4
  unit : Byte
  tag : BitVec 12
  deriving DecidableEq, Repr

/-- A collective READY at a member's mailbox (R268), as the data unit of its packet says it: the partition and the receiving member's core, the group, the sending member, the
call number, the call signature and the receive address. grant is the number of a segment that a further READY grants (R269), and 0 in
the READY that begins a call. -/
structure CollReady where
  part : PartId
  core : CoreId
  gid : W16
  peer : Nat
  call : W64
  sig : W64
  addr : W64
  grant : Nat
  deriving DecidableEq, Repr

/-- A segment-end message (R269): the partition and the receiving member's core, the group, the sending member, the call, the path of
the algorithm and the hop of it that the packets before it took, the segment of the path, the bytes they brought, and the elements of the
segment that derive from poisoned or failed data (DESIGN CHOICE, log 27: R271 asks for result units that derive from none to be clean). -/
structure CollSegEnd where
  part : PartId
  core : CoreId
  gid : W16
  peer : Nat
  call : W64
  path : Nat
  hop : Nat
  seg : Nat
  len : Nat
  psn : List Nat
  deriving DecidableEq, Repr

/-- How a clean vote ends (R287): with its result, or by a timeout while it awaits members of the vote group, by their indices. -/
inductive VoteEnd where
  | result (clean step stepNot : W64)
  | timeout (awaited : List Nat)
  deriving DecidableEq, Repr

/-- What decoding the memory that a read touches finds: symbols in error of a DRAM burst with their patterns (R216), and flipped bits of words
of a core memory unit (R207). -/
structure ReadErrors where
  symbols : List (Fin 72 × Byte) := []
  flips : List (Fin 8 × Byte × Byte) := []
  deriving DecidableEq, Repr

/-- Which bits of a statistics slot's configuration a write covers (R146). -/
inductive CfgSpan where
  | whole
  | high
  | low
  deriving DecidableEq, Repr

/-- The NMT state commands of CiA 1301 (R364). -/
inductive NmtCmd where
  | start
  | stop
  | preop
  deriving DecidableEq, Repr

/-- The outcome of a regulator's comparison with its margin (R399). -/
inductive AvsMargin where
  | more
  | less
  | met
  deriving DecidableEq, Repr

/-- The instructions of P-JTAG (R391); debug stands for Naroth's instructions, present while DEBUG_LOCK is clear. -/
inductive JtagIr where
  | bypass
  | idcode
  | samplePreload
  | extest
  | debug
  deriving DecidableEq, Repr

/-- The commands of the module, one per row of the table of operations and events. -/
inductive Instr where
  /-- NOP (R158): Dispatcher command that does nothing except apply its waits and its signal. -/
  | nop (sl : Slot) (w : W256)
  /-- TOKSET (R165): Sets token IDX to VAL[15:0]. -/
  | tokset (sl : Slot) (w : W256)
  /-- TOKADD (R165): Adds VAL[15:0] to token IDX, modulo 2^16. -/
  | tokadd (sl : Slot) (w : W256)
  /-- CSET (R168): Sets counter IDX of the stream to VAL. -/
  | cset (sl : Slot) (w : W256)
  /-- CADD (R168): Adds VAL to counter IDX of the stream, modulo 2^32. -/
  | cadd (sl : Slot) (w : W256)
  /-- LOOP (R168): If counter IDX is nonzero, decrements it and moves HEAD back by OFF slots. -/
  | loop (sl : Slot) (w : W256)
  /-- DRAIN (R166): Completes once every earlier command of its scope has completed. -/
  | drain (sl : Slot) (w : W256)
  /-- HALT (R167): Halts the context without a status and writes VAL to CTX.HALTCODE. -/
  | halt (sl : Slot) (w : W256)
  /-- PHASE (R202): Declares the phase that later commands of the stream are counted under. -/
  | phase (sl : Slot) (w : W256)
  /-- MARK (R158): Writes module time, VAL and step as 16 bytes at ADDR. -/
  | mark (sl : Slot) (w : W256)
  /-- NOTIFY (R348): Sends a 64-bit code to the companion as a completion record and completes when the record is acknowledged. -/
  | notify (sl : Slot) (w : W256)
  /-- DEFER (R169): Posts the next NCMD_M1 + 1 commands of the stream to DQ as a deferred group and records guards for them. -/
  | defer (sl : Slot) (w : W256)
  /-- STEPCOMMIT (R170): Ends the context's step: waits for DQ to empty and earlier commands to complete, then advances the step value. -/
  | stepcommit (sl : Slot) (w : W256)
  /-- TENSOR (R88): Issues a tensor operation after the descriptor checks and, for LDR = 1, after the pin map of the step is held. -/
  | tensor (sl : Slot) (w : W256)
  /-- QUANT (R79): Quantises a source in the core's own memory into one or two tile images on the tensor lane. -/
  | quant (sl : Slot) (w : W256)
  /-- RQ (R79): Re-quantises a source read from DRAM, core memory or a stash entry into tile images on the transfer lane. -/
  | rq (sl : Slot) (w : W256)
  /-- VEC (R129): Runs an element program over the rows and tiles that a vector descriptor names. -/
  | vec (sl : Slot) (w : W256)
  /-- UPDATE (R196): Runs a built-in optimiser update over a weight region and writes its working copies. -/
  | update (sl : Slot) (w : W256)
  /-- COLL (R265): Starts one call of a collective group on the district collective engine. -/
  | coll (sl : Slot) (w : W256)
  /-- XD (R163): Reads a stored format X command from its descriptor address and executes it. -/
  | xd (sl : Slot) (w : W256)
  /-- SYNCDUMP (R305): Has the management complex write a sync dump of the issuing core or partition. -/
  | syncdump (sl : Slot) (w : W256)
  /-- COPY (R171): Copies LEN bytes within the module. -/
  | copy (sl : Slot) (w : W256)
  /-- PUT (R171): Writes LEN bytes from a local source to any module. -/
  | put (sl : Slot) (w : W256)
  /-- GET (R171): Reads LEN bytes from any module into a local destination. -/
  | get (sl : Slot) (w : W256)
  /-- PUTSIG (R172): Puts data and, once every byte is acknowledged, adds 1 to object SOBJ. -/
  | putsig (sl : Slot) (w : W256)
  /-- FILL (R171): Writes a 64-bit pattern over LEN bytes of the own module. -/
  | fill (sl : Slot) (w : W256)
  /-- FENCE (R172): Holds later transfer commands of its scope until every earlier one has completed. -/
  | fence (sl : Slot) (w : W256)
  /-- PUTI (R171): Writes 16 bytes of inline data on TC-ORD. -/
  | puti (sl : Slot) (w : W256)
  /-- SIGNAL (R291): Adds 1 to a synchronisation object. -/
  | signal (sl : Slot) (w : W256)
  /-- SYNCADD (R291): Adds VAL to a synchronisation object. -/
  | syncadd (sl : Slot) (w : W256)
  /-- SYNCSET (R291): Sets a synchronisation object to VAL (set mode 0b00). -/
  | syncset (sl : Slot) (w : W256)
  /-- SYNCSET_CLAIM (R296): Sets an object and claims it, making the issuer its owner and the issuer's epoch its EPOCH. -/
  | syncsetClaim (sl : Slot) (w : W256)
  /-- SYNCSET_RELEASE (R291): Clears an object's owner record and leaves COUNT unchanged. -/
  | syncsetRelease (sl : Slot) (w : W256)
  /-- SYNCWAIT (R294): Holds the stream until an object of its own core meets the GE, EQ or TAKE condition, or its epoch changes. -/
  | syncwait (sl : Slot) (w : W256)
  /-- SYNCREAD (R291): Copies an object word to core memory. -/
  | syncread (sl : Slot) (w : W256)
  /-- STWRITE (R182): Creates a stash entry from core memory, waiting for ring space when needed. -/
  | stwrite (sl : Slot) (w : W256)
  /-- STREAD (R185): Copies a stash entry to core memory from wherever it lies. -/
  | stread (sl : Slot) (w : W256)
  /-- STPREF (R185): Starts refills of every spilled entry of a layer. -/
  | stpref (sl : Slot) (w : W256)
  /-- STPIN (R186): Adds a reference to a stash entry. -/
  | stpin (sl : Slot) (w : W256)
  /-- STUNPIN (R186): Removes a reference from a stash entry. -/
  | stunpin (sl : Slot) (w : W256)
  /-- STFREE (R186): Marks a stash entry, or a whole layer, as freed. -/
  | stfree (sl : Slot) (w : W256)
  /-- COMMAND_COMPLETE (R166): An issued command finishes: it takes its status, signals its token, and may halt the context. -/
  | commandComplete (core : CoreId) (ctx : CtxId) (id : Nat)
  /-- DQ_GROUP_OPEN (R187): The dispatcher opens the oldest deferred group when a Sync, Idle, Guard, Full or Commit condition holds. -/
  | dqGroupOpen (core : CoreId)
  /-- FILLER_ADMIT (R175): After the primary context has not been busy for FILLDELAY cycles, filler work is admitted or resumed. -/
  | fillerAdmit (core : CoreId)
  /-- FILLER_YIELD (R176): A primary command becomes ready, and each engine holding filler work yields at its boundary. -/
  | fillerYield (core : CoreId)
  /-- K_TILE (R89): The tensor engine starts a K tile: it checks headers, reads operands and accumulates, and exposes partial sums if asked. -/
  | kTile (core : CoreId) (ctx : CtxId)
  /-- LADDER_SEQUENCE (R113): The last K tile of an LDR operation finishes and the ladder logic checks the trouble summary, starting a repeat if the tile trips. -/
  | ladderSequence (core : CoreId) (ctx : CtxId)
  /-- RUNG_COMPUTATION_DONE (R116): A rung 2 or rung 3 computation from fall-back sources finishes, and its summary is checked. -/
  | rungComputationDone (core : CoreId) (ctx : CtxId)
  /-- FINISHED_TILE_QUEUE_ENTRY (R100): A finished bank enters the finished-tile queue, or is held, once the queue has room. -/
  | finishedTileQueueEntry (core : CoreId) (ctx : CtxId)
  /-- VECTOR_NOP (R138): Element instruction that does nothing. -/
  | vectorNop (core : CoreId) (ctx : CtxId) (w : W32)
  /-- MOV (R138): Copies a register bit for bit into the active lanes. -/
  | mov (core : CoreId) (ctx : CtxId) (w : W32)
  /-- ADD (R139): Element addition under IEEE 754. -/
  | add (core : CoreId) (ctx : CtxId) (w : W32)
  /-- SUB (R139): Element subtraction under IEEE 754. -/
  | sub (core : CoreId) (ctx : CtxId) (w : W32)
  /-- MUL (R139): Element multiplication under IEEE 754. -/
  | mul (core : CoreId) (ctx : CtxId) (w : W32)
  /-- FMA (R139): Fused multiply-add with one rounding. -/
  | fma (core : CoreId) (ctx : CtxId) (w : W32)
  /-- FNMA (R139): Computes c - a x b with one rounding. -/
  | fnma (core : CoreId) (ctx : CtxId) (w : W32)
  /-- DIV (R139): Element division. -/
  | div (core : CoreId) (ctx : CtxId) (w : W32)
  /-- SQRT (R139): Element square root. -/
  | sqrt (core : CoreId) (ctx : CtxId) (w : W32)
  /-- MAX (R140): IEEE 754-2019 maximum of two operands. -/
  | max (core : CoreId) (ctx : CtxId) (w : W32)
  /-- MIN (R140): IEEE 754-2019 minimum of two operands. -/
  | min (core : CoreId) (ctx : CtxId) (w : W32)
  /-- ABS (R138): Clears the sign bit. -/
  | abs (core : CoreId) (ctx : CtxId) (w : W32)
  /-- NEG (R138): Inverts the sign bit. -/
  | neg (core : CoreId) (ctx : CtxId) (w : W32)
  /-- SEL (R137): Selects a or b by the MSEL mask, or by its lane 0 for a scalar destination. -/
  | sel (core : CoreId) (ctx : CtxId) (w : W32)
  /-- RNDI (R138): Rounds to an integral value, ties to even. -/
  | rndi (core : CoreId) (ctx : CtxId) (w : W32)
  /-- XADD (R141): Extended add of a main part and a 16-bit extension. -/
  | xadd (core : CoreId) (ctx : CtxId) (w : W32)
  /-- EXP2 (R139): Computes 2^a, correctly rounded. -/
  | exp2 (core : CoreId) (ctx : CtxId) (w : W32)
  /-- LOG2 (R139): Computes log2 a, correctly rounded. -/
  | log2 (core : CoreId) (ctx : CtxId) (w : W32)
  /-- RSQRT (R139): Computes 1/sqrt a, correctly rounded. -/
  | rsqrt (core : CoreId) (ctx : CtxId) (w : W32)
  /-- SIGM (R139): Computes the logistic sigmoid. -/
  | sigm (core : CoreId) (ctx : CtxId) (w : W32)
  /-- TANH (R139): Computes the hyperbolic tangent. -/
  | tanh (core : CoreId) (ctx : CtxId) (w : W32)
  /-- CMPEQ (R139): Writes a mask of a = b. -/
  | cmpeq (core : CoreId) (ctx : CtxId) (w : W32)
  /-- CMPNE (R139): Writes a mask of a /= b. -/
  | cmpne (core : CoreId) (ctx : CtxId) (w : W32)
  /-- CMPLT (R139): Writes a mask of a < b. -/
  | cmplt (core : CoreId) (ctx : CtxId) (w : W32)
  /-- CMPLE (R139): Writes a mask of a <= b. -/
  | cmple (core : CoreId) (ctx : CtxId) (w : W32)
  /-- CMPUN (R138): Writes a mask of lanes where either operand is NaN. -/
  | cmpun (core : CoreId) (ctx : CtxId) (w : W32)
  /-- IDXC (R138): Writes each lane's logical column as FP32. -/
  | idxc (core : CoreId) (ctx : CtxId) (w : W32)
  /-- IDXR (R138): Writes the row's logical row as FP32. -/
  | idxr (core : CoreId) (ctx : CtxId) (w : W32)
  /-- LD (R149): Loads the row of an input stream, waiting for a finished tile or an exposed bank when needed. -/
  | ld (core : CoreId) (ctx : CtxId) (w : W32)
  /-- ST (R133): Stores the active lanes of a register to an output stream row. -/
  | st (core : CoreId) (ctx : CtxId) (w : W32)
  /-- RSUM (R143): Exact sum of the active lanes, rounded once. -/
  | rsum (core : CoreId) (ctx : CtxId) (w : W32)
  /-- RSSQ (R143): Exact sum of squares of the active lanes, rounded once. -/
  | rssq (core : CoreId) (ctx : CtxId) (w : W32)
  /-- RMAX (R143): Maximum over the active lanes. -/
  | rmax (core : CoreId) (ctx : CtxId) (w : W32)
  /-- RMIN (R143): Minimum over the active lanes. -/
  | rmin (core : CoreId) (ctx : CtxId) (w : W32)
  /-- RAMAX (R143): Maximum magnitude over the active lanes. -/
  | ramax (core : CoreId) (ctx : CtxId) (w : W32)
  /-- RARGMAX (R145): Logical column of the maximum over the active lanes. -/
  | rargmax (core : CoreId) (ctx : CtxId) (w : W32)
  /-- RARGMIN (R145): Logical column of the minimum over the active lanes. -/
  | rargmin (core : CoreId) (ctx : CtxId) (w : W32)
  /-- RMEAN (R143): Exact mean of the active lanes, rounded once. -/
  | rmean (core : CoreId) (ctx : CtxId) (w : W32)
  /-- RCNT (R138): Number of active lanes, as FP32. -/
  | rcnt (core : CoreId) (ctx : CtxId) (w : W32)
  /-- STADD (R147): Adds a scalar to a binary64 statistics slot. -/
  | stadd (core : CoreId) (ctx : CtxId) (w : W32)
  /-- STMAX (R147): Folds a scalar into a statistics slot by maximum or minimum. -/
  | stmax (core : CoreId) (ctx : CtxId) (w : W32)
  /-- STASH_SPILL (R184): The tail entry is chosen for spill when space is needed or free space falls below LOWATER. -/
  | stashSpill (core : CoreId)
  /-- SPILL_DONE (R183): A spill copy completes: the entry becomes SPILLED and its ring space is released. -/
  | spillDone (core : CoreId) (layer : BitVec 12) (entry : W16)
  /-- REFILL_DONE (R183): A refill copy completes and the entry becomes RESIDENT. -/
  | refillDone (core : CoreId) (layer : BitVec 12) (entry : W16)
  /-- TAIL_WRITE (R155): A write of STRM.TAIL makes new commands of the stream issuable from the following cycle. -/
  | tailWrite (core : CoreId) (st : StreamId) (part : PartId) (v : W32)
  /-- STREAM_ENABLE (R180): A write of STRM.CTL enables or disables a stream and resets HEAD, RETIRE and TAIL on re-enable. -/
  | streamEnable (core : CoreId) (st : StreamId) (part : PartId) (v : W32)
  /-- CONTEXT_ENABLE (R258): A write of CTX.CTL enables a context, ignored until the partition's plan is accepted. -/
  | contextEnable (core : CoreId) (ctx : CtxId) (part : PartId) (v : W32)
  /-- RESUME (R167): A write of 1 to CTX.RESUME clears a halt and resumes issue after the recorded slot. -/
  | resume (core : CoreId) (ctx : CtxId) (part : PartId) (v : W32)
  /-- STA_CFG_WRITE (R146): A write of STA.CFGn covering KIND resets the slot's value to its identity and clears PSN. -/
  | staCfgWrite (core : CoreId) (ctx : CtxId) (part : PartId) (slot : Fin 64) (span : CfgSpan) (v : W64)
  /-- STASH_CONFIG_WRITE (R181): A write of a stash configuration register, ignored with CFGREJ while entries exist or for a bad spill area. -/
  | stashConfigWrite (core : CoreId) (part : PartId) (off : BitVec 22) (v : W64)
  /-- REGISTER_WRITE (R6): A write to a control window register with no row of its own, taking effect under its access code. -/
  | registerWrite (core : CoreId) (part : PartId) (off : BitVec 22) (v : W32)
  /-- SADD (R293): A synchronisation add arrives at an object: epoch check, period placement, then pending waits re-evaluated. -/
  | sadd (p : Packet)
  /-- SSET (R293): A synchronisation set, claim or release arrives at an object. -/
  | sset (p : Packet)
  /-- LOSS_NOTICE (R297): A loss notice arrives: objects owned by the reset context take the new epoch and their waits are released as owner lost. -/
  | lossNotice (p : Packet)
  /-- SYNC_WATCHDOG_EXPIRY (R304): A SYNCWAIT has waited SYNC_WDOG ms: PARTITION_FAULT is raised and an optional dump is written. -/
  | syncWatchdogExpiry (core : CoreId) (st : StreamId)
  /-- WR (R239): A write packet arrives at its target, is checked and performed, and is acknowledged. -/
  | wr (p : Packet)
  /-- RDQ (R239): A read request packet arrives at its target and is answered with RDR or ERR. -/
  | rdq (p : Packet) (upset : ReadErrors)
  /-- RDR (R239): A read response arrives at the requester with data and poison. -/
  | rdr (p : Packet)
  /-- ACK (R239): A write or synchronisation acknowledgement arrives, including retry status for a collective READY. -/
  | ack (p : Packet)
  /-- ERR (R240): An error response arrives, and the command stops issuing packets. -/
  | err (p : Packet)
  /-- HEADER_WRITE (R311): A header packet writes a block header at its destination. -/
  | headerWrite (p : Packet)
  /-- HEADER_READ (R311): A header packet reads a block header and is answered with a one-unit RDR. -/
  | headerRead (p : Packet)
  /-- MRD (R237): A management read of SPACE 0x3 or 0x4 arrives on TC-MGT. -/
  | mrd (p : Packet)
  /-- MWR (R237): A management write of SPACE 0x3 or 0x4 arrives on TC-MGT. -/
  | mwr (p : Packet)
  /-- MRR (R239): A management read response arrives. -/
  | mrr (p : Packet)
  /-- MSG (R388): A message between service firmware instances arrives, such as switch reservation outcomes. -/
  | msg (p : Packet)
  /-- REDR (R281): A switch reduction result arrives at a member. -/
  | redr (p : Packet)
  /-- PACKET_FORWARD (R247): A packet for another module arrives and is forwarded toward its gateway or target after its HCHK check. -/
  | packetForward (p : Packet)
  /-- RESPONSE_TIMEOUT (R242): A request has no response within RESP_TIMEOUT: CHECK_MISMATCH is raised. -/
  | responseTimeout (req : ReqId)
  /-- CODEWORD (R230): A fabric codeword is received: its flits are taken, or it is uncorrectable and a NAK is sent. -/
  | codeword (port : PortId) (seq : W16) (errs : List (Fin 544)) (kinds : BitVec 20) (flits : List W256)
  /-- FLOW (R229): A FLOW link control flit returns credits and acknowledgements, or starts a replay on NAK. -/
  | flow (port : PortId) (f : W256)
  /-- DISC (R256): A discovery flit arrives, carrying version choice and neighbour identity; a changed neighbour takes the port down. -/
  | disc (port : PortId) (f : W256)
  /-- LANE (R229): A LANE link control flit coordinates a spare-lane swap. -/
  | lane (port : PortId) (f : W256)
  /-- DISC_SEND (R256): The DISC interval expires and a discovery flit is sent in place of a FLOW. -/
  | discSend (port : PortId)
  /-- LANE_FAILURE (R226): A lane loses lock or exceeds LANE_SER_LIMIT, and the port swaps to its spare or goes down. -/
  | laneFailure (port : PortId) (lane : Fin 16)
  /-- SPARE_LANE_SWAP_DONE (R226): The spare-lane swap completes and codewords flow again. -/
  | spareLaneSwapDone (port : PortId)
  /-- PORT_DOWN (R227): A port goes down on too many replays, a second lane failure or a changed neighbour; packets are lost and PARTITION_FAULT is raised. -/
  | portDown (port : PortId)
  /-- LINK_TRAINING_ATTEMPT (R418): A port starts a new training attempt on its timer. -/
  | linkTrainingAttempt (port : PortId)
  /-- LINK_TRAINED (R232): A port completes training and becomes active, extra or down with no common version. -/
  | linkTrained (port : PortId) (f : W256)
  /-- EQUALISATION_UPDATE (R406): A port commits an adaptive receiver equalisation update. -/
  | equalisationUpdate (port : PortId)
  /-- PLAN_LOAD (R258): A write of 1 to PLAN_LOAD starts the check of a neighbour plan. -/
  | planLoad (r : Route) (part : PartId) (v : Byte)
  /-- PLAN_CHECK_TIMEOUT (R258): 500 ms after PLAN_LOAD, the plan is accepted or refused with cause 7. -/
  | planCheckTimeout (part : PartId)
  /-- GROUP_LOAD (R264): A write of 1 to GROUP_LOAD starts checking, reserving and planning a group table. -/
  | groupLoad (r : Route) (part : PartId) (v : Byte)
  /-- RESERVATION_TIMEOUT (R280): A switch reservation not answered within 500 ms counts as refused. -/
  | reservationTimeout (part : PartId) (gid : W16) (plane : Fin 8)
  /-- READY (R268): A collective READY arrives at a mailbox, checking the call signature and granting segments. -/
  | ready (m : Packet × CollReady)
  /-- READY_RETRY (R268): 2 us after a retry response, a READY is sent again. -/
  | readyRetry (m : CollReady)
  /-- SEGMENT_END (R269): A segment-end message arrives after a segment's packets, and the segment is processed. -/
  | segmentEnd (m : Packet × CollSegEnd)
  /-- COLL_TIMEOUT (R286): A call not complete after COLL_TIMEOUT fails with status 0x09 and raises COLL_TIMEOUT and PARTITION_FAULT. -/
  | collTimeout (core : CoreId) (ctx : CtxId) (gid : W16)
  /-- LOCAL_CLOSE (R118): Every core of the partition has drained its STEPCOMMIT: pins fold, reports are written, seeds latch, checkpoints start. -/
  | localClose (part : PartId)
  /-- CLEAN_VOTE (R287): The damask wait of a step ends and the management complex issues the clean vote. -/
  | cleanVote (part : PartId)
  /-- VOTE_RESULT (R320): The vote returns or times out, and the gate commits the step or makes it void. -/
  | voteResult (part : PartId) (r : VoteEnd)
  /-- VOID (R320): A VOID message arrives and voids the step, or every later step. -/
  | void (p : Packet)
  /-- DAMASK_REEXECUTE (R316): A buddy or arbiter core starts re-executing a capture once it is idle or the capture is urgent. -/
  | damaskReexecute (cap : Nat)
  /-- DAMASK_CHECK (R318): A buddy re-execution finishes and its digest is compared with the origin's. -/
  | damaskCheck (cap : Nat) (r : Option W64)
  /-- DAMASK_ARBITRATION (R318): An arbiter re-execution finishes and decides the loser, or leaves the check unresolved. -/
  | damaskArbitration (cap : Nat) (r : Option W64)
  /-- DAMASK_TIMEOUT (R318): A capture is not decided within COLL_TIMEOUT of local close and counts as unresolved. -/
  | damaskTimeout (cap : Nat)
  /-- CKPT_REQUEST (R326): A write of 1 to CKPT_REQUEST requests a checkpoint at the next local close. -/
  | ckptRequest (r : Route) (part : PartId) (v : Byte)
  /-- CHECKPOINT_COPY_DONE (R327): A checkpoint copy completes and becomes valid once its step commits. -/
  | checkpointCopyDone (part : PartId)
  /-- RESTART (R328): A RESTART message starts a phase (STOP, RESET, RESTORE, READY) of a job restart at a member, or is a reply at the leader. -/
  | restart (p : Packet)
  /-- CKPT_STATUS (R328): A member's checkpoint status reply arrives at the leader. -/
  | ckptStatus (p : Packet)
  /-- LEASE (R333): A LEASE arrives from the leader and is acknowledged, clearing REJOINING when due. -/
  | lease (p : Packet)
  /-- LEASE_SEND (R333): Every 100 ms the leader sends LEASE and declares lost any module that missed three acknowledgements. -/
  | leaseSend
  /-- LEASE_ACK (R333): A lease acknowledgement arrives at the leader. -/
  | leaseAck (p : Packet)
  /-- REPL (R332): Replicated recovery state arrives at a replica and is acknowledged. -/
  | repl (p : Packet)
  /-- REPL_ACK (R332): A replica acknowledgement arrives at the leader. -/
  | replAck (p : Packet)
  /-- LEASE_LAPSE (R333): A follower's lease lapses, and a replica starts a new term on its delay. -/
  | leaseLapse
  /-- LEADER_ACK_EXPIRY (R333): The leader has had no replica acknowledgement for 400 ms and becomes a follower. -/
  | leaderAckExpiry
  /-- SF_WATCHDOG_EXPIRY (R335): The service firmware watchdog expires, and the trusted kernel restarts the firmware with REJOINING set. -/
  | sfWatchdogExpiry (unhealthy : Bool)
  /-- QUAR_NOMINATE (R329): A write of a core ID nominates that core for quarantine. -/
  | quarNominate (r : Route) (v : Byte)
  /-- FAULT_CLEAR (R324): A write of 1 clears the fault log. -/
  | faultClear (r : Route) (v : Byte)
  /-- INIT_START (R220): A write of 1 starts a bulk fill of every stack, ignored while a context is enabled. -/
  | initStart (r : Route) (v : Byte)
  /-- BULK_FILL_DONE (R220): A stack finishes its bulk fill and sets its INIT_DONE bit. -/
  | bulkFillDone (stack : District)
  /-- LOG_CLEAR (R222): A write of 1 empties the DRAM error logs and clears their totals. -/
  | logClear (r : Route) (v : Byte)
  /-- REPAIR_NOMINATE (R223): A write nominates the DRAM row holding an address for spare-row repair. -/
  | repairNominate (r : Route) (v : W64)
  /-- DRAM_SCRUB (R221): The scrubber reads the next burst, correcting CEs and poisoning UEs. -/
  | dramScrub (stack : District) (upset : List (Fin 72 × Byte))
  /-- SRAM_SCRUB (R207): The core memory scrubber reads a unit and writes back corrected or poisoned data. -/
  | sramScrub (core : CoreId) (unit : W16) (flips : List (Fin 8 × Byte × Byte))
  /-- BANK_REFRESH (R215): A bank's refresh interval expires and the bank is refreshed ahead of every request class. -/
  | bankRefresh (stack : District) (chan : Fin 32) (bank : Fin 32)
  /-- REFRESH_SAMPLE (R215): The 100 us temperature sample raises the refresh state, or lowers it after 10 ms below the return threshold. -/
  | refreshSample (stack : District) (temp : Int) (below10ms : Bool)
  /-- DRAM_TIMING_TRIM (R406): A channel re-centres its timing on its 100 ms timer or after a 5 deg C change. -/
  | dramTimingTrim (stack : District) (chan : Fin 32)
  /-- SNPI (R344): A companion invalidation arrives for a held line: a notice for a command slot, or a CONS change. -/
  | snpi (m : MclMsg)
  /-- DATA (R344): An MCL data response arrives, and a command block is accepted when SEQ and SEQ2 match. -/
  | data (m : MclMsg)
  /-- CMP (R341): An MCL response without data arrives, acknowledging a write. -/
  | cmp (m : MclMsg)
  /-- MCL_MRD (R342): A companion read of module memory or the dictionary mirror arrives. -/
  | mclMrd (m : MclMsg)
  /-- MCL_MWR (R342): A companion write of module memory or the dictionary mirror arrives. -/
  | mclMwr (m : MclMsg)
  /-- MCL_MSG (R341): An MCL link management or training message arrives. -/
  | mclMsg (m : MclMsg)
  /-- MCL_FLIT (R338): An MCL flit arrives and is taken, or fails its CRC and causes a NAK and a replay. -/
  | mclFlit (hdr : W64) (slots : List W128) (crc : W64)
  /-- MCL_RETRAIN (R354): The companion link retrains, dropping held lines and abandoning data-moving blocks. -/
  | mclRetrain
  /-- BLOCK_NOP (R346): Command block kind that does nothing. -/
  | blockNop (win : Fin 64) (seq : W32)
  /-- WRITE (R346): Command block that copies companion data into module memory. -/
  | write (win : Fin 64) (seq : W32)
  /-- READ (R346): Command block that copies module memory to companion memory. -/
  | read (win : Fin 64) (seq : W32)
  /-- APPEND (R346): Command block that appends commands to a core's stream and writes its TAIL. -/
  | append (win : Fin 64) (seq : W32)
  /-- BLOCK_SIGNAL (R346): Command block that adds a value to a synchronisation object. -/
  | blockSignal (win : Fin 64) (seq : W32)
  /-- DICT (R351): Command block that reads or writes a dictionary entry. -/
  | dict (win : Fin 64) (seq : W32)
  /-- BLOCK_COMPLETE (R348): A block completes: its record, DONE(r) and any MSI are written. -/
  | blockComplete (win : Fin 64) (seq : W32)
  /-- IRQ_HOLDOFF_END (R349): The MSI hold-off ends, and one MSI covers the records that called for it meanwhile. -/
  | irqHoldoffEnd (win : Fin 64)
  /-- ATTESTATION_REQUEST (R393): An MCL message asks the trusted kernel for a signed attestation report. -/
  | attestationRequest (m : MclMsg)
  /-- ATTESTATION_REPORT (R393): The trusted kernel writes the report and sends a status message. -/
  | attestationReport
  /-- USDO_DOWNLOAD (R366): A CANopen FD USDO write of a dictionary entry arrives. -/
  | usdoDownload (idx : W16) (sub : Byte) (len : Nat) (v : W64)
  /-- USDO_UPLOAD (R366): A CANopen FD USDO read of a dictionary entry arrives. -/
  | usdoUpload (idx : W16) (sub : Byte)
  /-- FUSE_STAGE (R357): An rw-fuse write over P-CAN adds bits to the staged fuse value. -/
  | fuseStage (sub : Byte) (len : Nat) (v : W64)
  /-- NMT_RESET_NODE (R364): NMT reset node restarts the CANopen FD stack. -/
  | nmtResetNode
  /-- NMT_RESET_COMMUNICATION (R364): NMT reset communication restarts the CANopen FD stack. -/
  | nmtResetCommunication
  /-- NMT_STATE_COMMAND (R364): An NMT command moves the node between pre-operational, operational and stopped. -/
  | nmtStateCommand (c : NmtCmd)
  /-- HEARTBEAT (R364): The heartbeat time expires and a heartbeat is produced. -/
  | heartbeat
  /-- CONFIG_BUFFER_WRITE (R389): SMBus 0x50 appends bytes to the configuration buffer. -/
  | configBufferWrite (pecOk : Bool) (bytes : List Byte)
  /-- CONFIG_INSTALL (R390): SMBus 0x51 checks and installs the configuration document, then empties the buffer. -/
  | configInstall (pecOk : Bool)
  /-- CONFIG_RESULT_READ (R389): SMBus 0x52 returns the result of the last install. -/
  | configResultRead (pecOk : Bool)
  /-- BOOT_STATUS_READ (R389): SMBus 0x53 returns BOOT_STATUS. -/
  | bootStatusRead (pecOk : Bool)
  /-- CONFIG_BUFFER_EMPTY (R389): SMBus 0x54 empties the configuration buffer. -/
  | configBufferEmpty (pecOk : Bool)
  /-- WARM_RESET_COMMAND (R408): SMBus 0x60 requests a warm reset. -/
  | warmResetCommand (pecOk : Bool)
  /-- COLD_RESET_COMMAND (R408): SMBus 0x61 requests a cold reset. -/
  | coldResetCommand (pecOk : Bool)
  /-- READINESS_READ (R410): SMBus 0x62 returns the readiness byte. -/
  | readinessRead (pecOk : Bool)
  /-- RESET_CAUSE_READ (R411): SMBus 0x63 returns RESET_CAUSE. -/
  | resetCauseRead (pecOk : Bool)
  /-- EN_ASSERT (R412): EN is asserted and the module's converters start. -/
  | enAssert
  /-- EN_DEASSERT (R409): EN is deasserted, and the module powers down, losing all state not in fuses or flash. -/
  | enDeassert
  /-- POWER_GOOD (R412): The converters settle and PG is asserted. -/
  | powerGood
  /-- RESET_ASSERT (R409): RESET is asserted and the module is held in reset. -/
  | resetAssert
  /-- RESET_RELEASE (R412): RESET is released and the power-up sequence runs. -/
  | resetRelease (slotId : BitVec 6)
  /-- TRUSTED_KERNEL_START (R382): A trusted kernel image verifies and starts, or the module halts if neither bank verifies. -/
  | trustedKernelStart
  /-- SERVICE_FIRMWARE_START (R382): A service firmware image verifies and starts, setting STAGE 2 and starting the watchdog. -/
  | serviceFirmwareStart
  /-- DRAM_TRAINING_DONE (R415): Stack training completes, or fails after three attempts. -/
  | dramTrainingDone (failed : W16)
  /-- SELF_TEST_DONE (R416): Core self-tests finish, and failing cores are nominated for quarantine. -/
  | selfTestDone (failed : List (Fin 272))
  /-- INPUT_LOW (R394): The input falls below 40.0 V and ALERT is asserted. -/
  | inputLow (mv : W16)
  /-- INPUT_HIGH (R394): The input rises above 59.5 V and ALERT is asserted. -/
  | inputHigh (mv : W16)
  /-- UNDERVOLTAGE_LOCKOUT (R394): The input stays below 38.0 V for 100 us, the converters stop and PG is deasserted. -/
  | undervoltageLockout (mv : W16)
  /-- OVERVOLTAGE_LOCKOUT (R394): The input stays above 61.0 V for 10 us, the converters stop and PG is deasserted. -/
  | overvoltageLockout (mv : W16)
  /-- REFERENCE_LOSS (R407): The reference clock is lost for more than 10 us: clocks hold their frequency and ALERT is asserted. -/
  | referenceLoss
  /-- REFERENCE_RESTORE (R407): The reference clock returns within 1 ms and the event ends. -/
  | referenceRestore
  /-- REFERENCE_LOSS_TIMEOUT (R407): The reference stays lost for 1 ms and the loss is treated as a thermal trip. -/
  | referenceLossTimeout
  /-- INLET_HIGH (R402): The coolant inlet exceeds 40.0 deg C and ALERT is asserted. -/
  | inletHigh (temp : Int)
  /-- POWER_EVALUATION (R401): The power controller compares 100 us of input power with the cap and advances or withdraws a throttling action. -/
  | powerEvaluation (avgW : Nat) (all95 : Bool)
  /-- THERMAL_EVALUATION (R403): A district's thermal controller evaluates its temperatures every 100 us, throttling, releasing or tripping. -/
  | thermalEvaluation (d : District) (logic : Int) (dram : Int) (logicRel : Bool) (dramRel : Bool)
  /-- AVS_ADJUST (R399): Every 1 ms, a district's regulator moves VDD one step toward its margin, or lowers its operating point. -/
  | avsAdjust (d : District) (m : AvsMargin)
  /-- DROOP_STRETCH (R400): The supply droops more than 40 mV and ACLK cycles stretch. -/
  | droopStretch (d : District)
  /-- DROOP_RECOVERY (R400): The supply has stayed within 20 mV for 64 cycles, or 2 us has passed, and the stretch ends. -/
  | droopRecovery (d : District)
  /-- OP_TRANSITION_DONE (R397): A district completes an operating point transition and starts another if a newer target waits. -/
  | opTransitionDone (d : District)
  /-- MCL_LANE_FAILURE (R339): Under MCL 2.0 a first lane fails and the link continues at 8 lanes, 64 GB/s raw, with MCL_WIDTH changed. -/
  | mclLaneFailure
  /-- INPUT_IN_RANGE (R411): The 52 V input returns inside 40.0 V to 59.5 V, clearing LOWV or HIGHV and releasing ALERT if no other cause holds. -/
  | inputInRange (mv : W16)
  /-- INLET_NORMAL (R411): The coolant inlet falls back to 40.0 deg C or below, clearing INLET and releasing ALERT if no other cause holds. -/
  | inletNormal (temp : Int)
  /-- JTAG_INSTRUCTION (R391): An IEEE 1149.1 instruction is loaded on P-JTAG and takes effect as BYPASS, IDCODE, SAMPLE/PRELOAD or EXTEST, with EXTEST acting only while RESET is asserted. -/
  | jtagInstruction (ir : JtagIr)
  deriving DecidableEq, Repr

end Sys2Proof
end

