-- ==== Sys2Proof/Decode.lean ====
section
/-!
DEFINITION. The table of operations and events gives none of its rows any bits, so no word spells a command.
-/
namespace Sys2Proof

/-- The command a word spells by the bits of the table: none, for no row has bits. -/
def decodeTableWord (_nbits _w : Nat) : Option Instr := none

end Sys2Proof
end

