-- ==== Sys2Proof/Machine/State.lean ====
section
/-!
DEFINITION. The state of the module as plain data: every register, queue, buffer, mode and pin the manual names, the queue of
waiting commands, and State.reset. Entries of the object dictionary, counters and reports included, have one home each, the
map `dict`, whose default values are the table of Machine/Dict.lean; large arrays are sparse maps over their reset values.
-/
namespace Sys2Proof.Machine

/-! ## Stored data -/

/-- State of one 64-byte unit of DRAM or core memory (R207, R216, R219). `raw` is a DRAM burst nothing has written since
power-up (R220). -/
inductive UnitSt where
  | clean
  | poisoned
  | raw
  deriving DecidableEq, Repr

/-- DRAM and core memory. Addresses are SPACE x 2^40 + OFFSET with SPACE 0 or 1 (R16). `fill` holds, per stack, the pattern of
its last bulk fill (R220); units are indexed by address / 64 and block headers by address / 4096 (R309). -/
structure Mem where
  cells : List Host.Cell
  units : SMap UnitSt
  headers : SMap W64
  fill : SMap (Option W64)
  deriving DecidableEq, Repr

def Mem.reset : Mem := ⟨[], [], [], []⟩

/-- The IEEE exception flags an engine reports (R35). -/
structure Flags where
  inv : Bool := false
  dz : Bool := false
  ovf : Bool := false
  unf : Bool := false
  inx : Bool := false
  deriving DecidableEq, Repr

/-! ## Core: dispatcher and streams (R154 to R180) -/

/-- The phases of R202. -/
inductive Phase where
  | fwd
  | bwdIn
  | bwdW
  | coll
  | upd
  deriving DecidableEq, Repr

/-- Why a command is not ready (R120, R164, R169, R172, R176, R189, R300, R327). -/
inductive Hold where
  | waits
  | room
  | guard
  | dqFull
  | guardSpace
  | pinMap
  | rebase
  | copying
  | fence
  | yield
  deriving DecidableEq, Repr

/-- A command that has issued and holds its stream until its condition holds (R164, R166, R170, R294). -/
inductive HeadWait where
  | sync (id : Nat) (obj : Nat) (cond : BitVec 2) (val : BitVec 48) (epoch : W16) (start : W64) (expired : Bool) (wdog : W32)
  | drain (id : Nat) (scope : Bool)
  | commit (id : Nat) (wg : Bool) (step : W64)
  deriving DecidableEq, Repr

/-- One command stream (R155, R168, R180). `xd` is what an XD that has reached the head has read (R163); `loops` are the LOOPs that have
branched back and not yet fallen through, each with its slot and the slot it returns to. -/
structure Stream where
  en : Bool
  size : BitVec 4
  base : W32
  head : Nat
  retire : Nat
  tail : Nat
  loops : List (Nat × Nat)
  cnt : SMap W32
  phase : Phase
  wait : Option HeadWait
  xd : Option W256
  deriving DecidableEq, Repr

def Stream.reset (p : Phase) : Stream := ⟨false, 0, 0, 0, 0, 0, [], [], p, none, none⟩

/-- The engine a command executes at (Table 7-2). -/
inductive Engine where
  | dispatcher
  | tensor
  | quant
  | vector
  | transfer
  | rq
  | coll
  | mgmt
  | stash
  deriving DecidableEq, Repr

/-- What the response to a fabric request is for (R239). -/
inductive Sink where
  | ack
  | mem (addr : Nat) (units : Nat)
  | fetch (addr : W64) (units : Nat)
  | header (block : Nat)
  | reserve (part : PartId) (gid : W16) (plane : Nat)
  | collReady (dev : W16) (m : CollReady)
  | ckpt (part : PartId)
  | restore (part : PartId) (key : Nat) (units : Nat)
  | mgmt
  deriving DecidableEq, Repr

/-- Work a command has still to do when answers to its requests arrive (R172, R239). The signal of a PUTSIG has its
data unit from the issue (R292), and on TC-ORD keeps its command's place in the order of R238 (`ord`). A command `queued` at the transfer
engine has not started (R173): the command it executes, and its descriptor's offset. -/
inductive Work where
  | none
  | queued (w : W256) (doff : Nat)
  | signal (obj : W64) (data : W128) (ord : Bool)
  | rq (desc : BitVec 512)
  | syncread (off : Nat)
  | stwrite (layer : BitVec 12) (entry : W16)
  deriving DecidableEq, Repr

/-- A command that has issued and not completed (R166). `status` is set when its work is finished; `errs` collects the ERR
statuses its requests received (R240). -/
structure Job where
  id : Nat
  src : Src
  slot : Nat
  op : Byte
  se : Bool
  st : BitVec 5
  engine : Engine
  phase : Phase
  step : W64
  status : Option Byte
  outst : Nat
  errs : List (BitVec 4)
  timedOut : Bool
  stopped : Bool
  poison : Bool
  checkFail : Bool
  work : Work
  fetched : SMap Byte
  fpoison : SMap Bool
  refs : List (BitVec 12 × W16)
  queue : List (Packet × Sink)
  deriving DecidableEq, Repr

/-! ## Tiles (R44 to R48, R66 to R73), tensor engine (R83 to R107) and ladder (R108 to R128) -/

/-- The trouble record (Table 3-5, bytes 0 to 15). -/
structure Trouble where
  amax : W32 := 0
  gzovf : Nat := 0
  tiny : Nat := 0
  clip : Nat := 0
  nonfin : Nat := 0
  zero : Nat := 0
  gzcount : Nat := 0
  deriving DecidableEq, Repr

/-- A group's metadata word. -/
structure Meta where
  vs8 : Nat
  zp : Nat
  oc : Nat
  deriving DecidableEq, Repr

/-- A group of a short-format image: metadata, codes, records. -/
structure ImgGroup where
  md : Meta
  codes : List Nat
  recs : List (Nat × Nat)
  deriving DecidableEq, Repr

/-- What converting a main-path operand tile raised, and the TENSOR that its AMAX folds under; none for a muslin operand (R81, R96, R148). -/
structure Conv where
  fl : Flags
  tensor : Option W32
  bad : Bool
  deriving DecidableEq, Repr

/-- An operand K tile as it enters the array: what R89 compares, its trouble record, and its 128 lines along K, as groups (short
formats), FP8 rows or BF16 rows, and what converting it raised where the main path converted it. -/
structure Operand where
  fmt : Nat
  gsz : Nat
  texp : Byte
  rotb : Nat
  key : W32
  kcoord : W32
  alongRows : Bool
  tr : Trouble
  groups : List (List ImgGroup)
  rows : List (W32 × List Nat)
  conv : Option Conv
  deriving DecidableEq, Repr

/-- One statistics slot (R146, R147). -/
structure StaSlot where
  tag : W32
  amaxen : Bool
  kind : BitVec 2
  psn : Bool
  val : W64
  snap : W64
  snapPsn : Bool
  deriving DecidableEq, Repr

/-- What the K tiles that an operation has consumed left in its context's registers and statistics slots, with each slot as it stood before
and the value it was left with: it is taken back when the operation stops (R89, log entry 86). -/
structure TenUse where
  fl : Flags := {}
  qfl : Flags := {}
  ktiles : W64 := 0
  gzterms : W64 := 0
  tiles : W64 := 0
  slots : List (Nat × StaSlot × W64) := []
  deriving DecidableEq, Repr

/-- The trouble summary of R103 with the units of R112. -/
structure Summary where
  gzovf : Nat := 0
  tiny : Nat := 0
  clip : Nat := 0
  nonfin : Nat := 0
  outnf : Nat := 0
  u : Nat := 0
  deriving DecidableEq, Repr

/-- Where a tensor operation stands: accumulating K tiles, waiting for its ladder check, running a rung from fall-back sources, with all K
tiles of such a rung run, or finished and waiting for the queue (R99 to R103, R113). -/
inductive TenStage where
  | running
  | ladder
  | rung
  | computed
  | finished
  deriving DecidableEq, Repr

/-- A tensor operation the engine holds (R85, R99, R103, R111). `stopped` says that R115 poisoned it, `tiles` are the operand pairs that a
sampled operation has taken, by rung (R315). -/
structure TenOp where
  id : Nat
  desc : BitVec 1536
  ptok : Option (BitVec 5)
  t : Nat
  acc : List W32
  init : List W32
  started : Bool
  poisoned : Bool
  rung : Nat
  startRung : Nat
  summary : Summary
  stage : TenStage
  step : W64
  sampled : Bool
  stopped : Bool
  use : TenUse
  tiles : List (Nat × Operand × Operand)
  deriving DecidableEq, Repr

/-- A bank as exposed after a K tile, until it is read (R101, R150). -/
structure Exposed where
  op : Nat
  acc : List W32
  mM1 : BitVec 7
  nM1 : BitVec 7
  poisoned : Bool
  deriving DecidableEq, Repr

/-- A bank kept under HOLD = 1 (R99, R104). -/
structure HeldBank where
  mode : BitVec 4
  acc : List W32
  poisoned : Bool
  deriving DecidableEq, Repr

/-- A tile in the finished-tile queue (R100, R114). -/
structure FTile where
  ctx : CtxId
  acc : List W32
  tag : W32
  mM1 : BitVec 7
  nM1 : BitVec 7
  layer : BitVec 12
  rung : BitVec 2
  poisoned : Bool
  deriving DecidableEq, Repr

/-- TEN registers of one context (R106). -/
structure TenRegs where
  hdrerr : Bool := false
  descerr : Bool := false
  flags : Flags := {}
  rsvcnt : W32 := 0
  descerrcnt : W32 := 0
  hdrerrcnt : W32 := 0
  ktiles : W64 := 0
  gzterms : W64 := 0
  qstall : W64 := 0
  pstall : W64 := 0
  deriving DecidableEq, Repr

/-- QNT registers of one context (R81). -/
structure QntRegs where
  descerr : Bool := false
  flags : Flags := {}
  rsvcnt : W32 := 0
  descerrcnt : W32 := 0
  tiles : W64 := 0
  deriving DecidableEq, Repr

/-- LDR registers of one context (R124). -/
structure LdrRegs where
  checks : W64 := 0
  up2 : W64 := 0
  up3 : W64 := 0
  pinstart : W64 := 0
  rcycles : W64 := 0
  last : W32 := 0
  pwait : W64 := 0
  deriving DecidableEq, Repr

/-! ## Vector engine (R129 to R153) -/

/-- VEC registers of one context (R152). -/
structure VecRegs where
  empty : Bool := false
  descerr : Bool := false
  flags : Flags := {}
  rsvcnt : W32 := 0
  descerrcnt : W32 := 0
  emptycnt : W32 := 0
  rows : W64 := 0
  accreads : W64 := 0
  deriving DecidableEq, Repr

/-- Program registers with their poison marks (R135, R151). v is keyed 128 x register + lane, a is keyed 4 x row + slot. -/
structure Prog where
  v : SMap W32
  s : SMap W32
  a : SMap W32
  c : SMap W32
  m0 : BitVec 128
  m1 : BitVec 128
  m2 : BitVec 128
  m3 : BitVec 128
  pv : BitVec 16
  ps : BitVec 8
  pa : SMap Bool
  pm : BitVec 4
  deriving DecidableEq, Repr

def Prog.reset : Prog :=
  ⟨[], [], [], [], 0, BitVec.allOnes 128, BitVec.allOnes 128, BitVec.allOnes 128, 0, 0, [], 0⟩

/-- The row of an input stream that the program can load: 128 widened values, the exceptions of widening each, and whether its tile is
poisoned (R138, R151). -/
structure InRow where
  vals : SMap W32
  flags : List Flags
  poisoned : Bool
  deriving DecidableEq, Repr

/-- What the STs of the current row have left in one output stream (R133, R151). -/
structure OutRow where
  vals : SMap W32
  poisoned : Bool
  deriving DecidableEq, Repr

/-- The place of the vector engine in a program: first row, first column of the tile, row and extents of the tile, the streams the
descriptor enables (IN0, IN1, OUT0, OUT1 in bits 0 to 3), what an ST needs of the output streams, and the rows being read and stored
(R129, R133). -/
structure VecPos where
  row0 : W32
  col0 : W32
  row : Nat
  cols : Nat
  step : W64
  sr : W64
  en : BitVec 4
  rnd0 : BitVec 3
  rnd1 : BitVec 3
  ovf0 : Bool
  ovf1 : Bool
  fmt0 : BitVec 4
  fmt1 : BitVec 4
  tensor0 : W32
  tensor1 : W32
  in0 : InRow
  in1 : InRow
  out0 : OutRow
  out1 : OutRow
  deriving DecidableEq, Repr

def VecPos.reset : VecPos :=
  ⟨0, 0, 0, 0, 0, 0, 0, 0, 0, false, false, 0, 0, 0, 0, ⟨[], [], false⟩, ⟨[], [], false⟩, ⟨[], false⟩, ⟨[], false⟩⟩

/-- A command the vector engine holds: a VEC with its descriptor and the next tile to run (R129), or an UPDATE with its descriptor. -/
structure VecJob where
  id : Nat
  desc : BitVec 1024
  upd : Option (BitVec 1536)
  tile : Nat
  started : Bool
  step : W64
  poison : Bool
  checkFail : Bool
  deriving DecidableEq, Repr

def StaSlot.reset : StaSlot := ⟨0, false, 0, false, 0, 0, false⟩

/-- One UPDATE's report for its layer (R200). -/
structure UpdRep where
  step : W64
  core : Nat
  layer : BitVec 12
  ssu : W64
  ssw : W64
  nz : W32
  nf : W32
  psn : Bool
  deriving DecidableEq, Repr

/-- One context of a core (R154, R167, R180, R295). `vprog` is the element program loaded, with its address (R153). -/
structure Ctx where
  en : Bool
  errcont : Bool
  halted : Bool
  suspended : Bool
  err : W32
  errslot : W32
  errSet : Bool
  resumeAt : Option (StreamId × Nat)
  step : W64
  part : Option PartId
  filldelay : W32
  rsvcnt : W32
  issued : W64
  haltcode : W32
  epoch : W16
  toks : SMap W16
  jobs : List Job
  nextId : Nat
  fences : List (Nat × Option StreamId)
  tenq : List TenOp
  held : Option HeldBank
  exposed : List Exposed
  tenCount : W32
  vecq : List VecJob
  vprog : Option (W64 × List W32)
  prog : Prog
  pos : VecPos
  qnt : QntRegs
  ten : TenRegs
  ldr : LdrRegs
  vec : VecRegs
  sta : SMap StaSlot
  deriving DecidableEq, Repr

def Ctx.reset : Ctx where
  en := false
  errcont := false
  halted := false
  suspended := false
  err := 0
  errslot := 0
  errSet := false
  resumeAt := none
  step := 0
  part := none
  filldelay := 16
  rsvcnt := 0
  issued := 0
  haltcode := 0
  epoch := 0
  toks := []
  jobs := []
  nextId := 0
  fences := []
  tenq := []
  held := none
  exposed := []
  tenCount := 0
  vecq := []
  vprog := none
  prog := Prog.reset
  pos := VecPos.reset
  qnt := {}
  ten := {}
  ldr := {}
  vec := {}
  sta := []

/-! ## Deferred queue (R169, R187 to R190) -/

/-- A command posted to DQ, with the descriptor offset its counters gave at posting (R168), its id, and whether it holds a stash
reference (R186). -/
structure DCmd where
  w : W256
  id : Nat
  desc : Nat
  held : Bool
  deriving DecidableEq, Repr

/-- A guarded range of core memory, held until its command completes (R189). -/
structure Guard where
  id : Nat
  lo : Nat
  hi : Nat
  deriving DecidableEq, Repr

structure Dq where
  groups : List (List DCmd)
  isOpen : Bool
  lastCond : BitVec 3
  pos : Nat
  idlethr : W32
  posts : W64
  draws : W64
  syncdraws : W64
  idledraws : W64
  forceddraws : W64
  guardwait : W64
  guards : List Guard
  deriving DecidableEq, Repr

def Dq.reset : Dq := ⟨[], false, 0, 0, 256, 0, 0, 0, 0, 0, 0, []⟩

/-! ## Stash ring (R181 to R186) -/

inductive StashSt where
  | writing
  | resident
  | spilling
  | spilled
  | filling
  deriving DecidableEq, Repr

/-- One stash entry: its handle, its length, its place in the ring and its directory slot (R182, R183, R186). `seq` orders the
entries in the ring, oldest first. -/
structure StEntry where
  layer : BitVec 12
  entry : W16
  len : Nat
  st : StashSt
  off : Nat
  slot : Nat
  seq : Nat
  refs : Nat
  freed : Bool
  deriving DecidableEq, Repr

/-- What waits at the stash, oldest first: an STWRITE or a refill for ring space, a read for a refill in progress, and an STPREF for the
refills it started (R184, R185). -/
inductive StWait where
  | write (id : Nat) (layer : BitVec 12) (entry : W16) (src : Nat) (len : Nat)
  | fill (layer : BitVec 12) (entry : W16)
  | read (id : Nat) (layer : BitVec 12) (entry : W16) (dst : Nat)
  | rq (id : Nat) (layer : BitVec 12) (entry : W16) (desc : BitVec 512)
  | pref (id : Nat) (ents : List (BitVec 12 × W16))
  deriving DecidableEq, Repr

structure Stash where
  ctl : W32
  base : W32
  size : W32
  spillbase : W64
  head : Nat
  tail : Nat
  cfgrej : Bool
  spillfull : Bool
  handleerr : Bool
  entries : List StEntry
  waits : List StWait
  nextSeq : Nat
  spills : W64
  refills : W64
  stallcyc : W64
  pfdrop : W32
  deriving DecidableEq, Repr

def Stash.reset : Stash := ⟨0x08000099, 0x300000, 0x100000, 0, 0, 0, false, false, false, [], [], 0, 0, 0, 0, 0⟩

/-! ## A core -/

structure Core where
  prim : Ctx
  fill : Ctx
  s0 : Stream
  s1 : Stream
  s2 : Stream
  dq : Dq
  stash : Stash
  ftq : List FTile
  fsize : Nat
  timers : SMap W64
  lastTimers : SMap W64
  cycAcc : Nat
  idleCyc : Nat
  quietCyc : Nat
  admitted : Bool
  takePtr : Nat
  deriving DecidableEq, Repr

def Core.reset : Core where
  prim := Ctx.reset
  fill := Ctx.reset
  s0 := Stream.reset .fwd
  s1 := Stream.reset .bwdIn
  s2 := Stream.reset .fwd
  dq := Dq.reset
  stash := Stash.reset
  ftq := []
  fsize := 0
  timers := []
  lastTimers := []
  cycAcc := 0
  idleCyc := 0
  quietCyc := 0
  admitted := false
  takePtr := 0

/-! ## Synchronisation objects (R289, R290, R298) -/

/-- An owner record: device, core, context (R290). -/
structure Owner where
  devid : W16
  core : Byte
  ctx : Bool
  deriving DecidableEq, Repr

/-- One synchronisation object with its hidden state; `ownerN` is the stored complement of the owner record word (R290, R298). -/
structure Obj where
  count : BitVec 48
  epoch : W16
  ahead : BitVec 48
  ahset : Bool
  owner : BitVec 26
  ownerN : BitVec 26
  drops : W16
  deriving DecidableEq, Repr

def Obj.reset : Obj := ⟨0, 0, 0, false, 0, BitVec.allOnes 26, 0⟩

/-! ## Partition state: ladder, watch, gate, checkpoints, collectives -/

/-- A pin record (R119). -/
structure Pin where
  prung : Nat
  left : Nat
  period : Nat
  quiet : Nat
  deriving DecidableEq, Repr

/-- The tallies of one layer in one step (R118, R121). -/
structure Tally where
  checked : Nat := 0
  up2 : Nat := 0
  up3 : Nat := 0
  checked1 : Nat := 0
  tripGz : Nat := 0
  tripTiny : Nat := 0
  deriving DecidableEq, Repr

/-- Watch state of a layer (R200). -/
structure Watch where
  lowrun : Nat := 0
  silrun : Nat := 0
  alarm : Bool := false
  deriving DecidableEq, Repr

/-- A latched seed value and the step from which it governs (R372). -/
structure Latched where
  sr : W64
  rot : W64
  since : W64
  deriving DecidableEq, Repr

/-- A planned collective group (R262, R272, R283). Algorithms: 1 ring, 2 bidirectional ring, 3 switch reduce, 4 hierarchical
with a ring stage, 5 with a switch stage. `sw`: 0 not requested, 1 granted, 2 refused. The directory value and the members are held with
their complements (R263). -/
structure Group where
  gid : W16
  force : BitVec 3
  members : List W32
  algPlain : Nat
  algCarry : Nat
  algMove : Nat
  sw : Nat
  pendingRes : List (Nat × Nat)
  handles : List (Nat × Nat × W16)
  list : W64
  dirNot : W128
  memNot : List W32
  deriving DecidableEq, Repr

/-- Lateness figures of one awaited peer of a group (R285). -/
structure Late where
  gid : W16
  member : Nat
  ns : W64
  lastCount : Nat
  deriving DecidableEq, Repr

/-- A segment to be sent to a peer (R269): the path it follows and the hop it takes, the segment of the path, and its bytes as they
travel, with the poison of their 64-byte units, and the elements that derive from poisoned or failed data. Segments of a call that only
moves data are read when they leave. -/
structure CollSeg where
  dest : Nat
  path : Nat
  hop : Nat
  seg : Nat
  data : List Byte
  psn : List Bool
  elems : List Nat
  deriving DecidableEq, Repr

/-- A switch reduction segment in progress (R275, R281): its number, bytes still to come, and whether a REDR has come. -/
structure RedSeg where
  seg : Nat
  left : Nat
  first : Bool
  deriving DecidableEq, Repr

/-- A collective call at one member (R268 to R271). `ready` holds the READY of each peer: member, receive address, segments granted;
`heard` the peers heard of, and `lastLate` the one heard last of the late ones; `sent` and `recv` count segments per peer; `inq` holds
segments that have arrived, with their place among their sender's, and `outq` those that wait to leave; `nIn` and `nOut` count the segments done per stage of the algorithm;
`mid` and `res` are sums of a rack and results, by element, with their poison. -/
structure Call where
  core : CoreId
  ctx : CtxId
  job : Nat
  gid : W16
  me : Nat
  call : W64
  desc : BitVec 512
  step : W64
  start : W64
  begun : Nat
  ready : List (Nat × W64 × Nat)
  heard : List Nat
  lastLate : Option Nat
  sent : SMap Nat
  recv : SMap Nat
  inq : List (Nat × CollSegEnd)
  outq : List CollSeg
  nIn : SMap Nat
  nOut : SMap Nat
  red : List RedSeg
  redNext : Nat
  mid : SMap W64
  midPsn : SMap Bool
  res : SMap W64
  resPsn : SMap Bool
  checkFail : Bool
  raised : Bool
  deriving DecidableEq, Repr

/-- Where a partition's commit gate stands (R319, R320): the oldest undecided step, whether it and the step after it have reached local
close, the code of the first fault that made each of them dirty, and the step from which the partition's steps are void. -/
structure Gate where
  step : W64
  closed0 : Bool
  closed1 : Bool
  dirty0 : Option Byte
  dirty1 : Option Byte
  voidFrom : Option W64
  deriving DecidableEq, Repr

/-- The module state a checkpoint carries, per slot (R128, R200, R326, R372). -/
structure SavedState where
  slot : Nat
  step : W64
  pins : SMap Pin
  watch : SMap Watch
  entries : SMap W64
  latched : List Latched
  deriving DecidableEq, Repr

/-- A range of a checkpoint: its memory key, its length, and its place among the checkpoint's bytes (R326). -/
structure CkptRange where
  key : Nat
  len : Nat
  off : Nat
  deriving DecidableEq, Repr

/-- A checkpoint being copied back (R328): its step, its ranges, its length, the key under which byte 0 is kept, what has arrived, and
whether it comes from the companion. -/
structure Restore where
  step : W64
  ranges : List CkptRange
  len : Nat
  base : Nat
  kept : Mem
  companion : Bool
  deriving DecidableEq, Repr

/-- Checkpoints of a partition (R326 to R328): the one being copied, as step and slot, with the ranges its table names; one whose copy is
complete and whose step is undecided; the valid step of each slot; requests still to send and requests in flight of the copy or the
restore; whether one has failed; and a restore. -/
structure Ckpt where
  copying : Option (W64 × Nat)
  ranges : List (Nat × Nat)
  copied : Option (W64 × Nat)
  slot0 : Option W64
  slot1 : Option W64
  requested : Bool
  saved : List SavedState
  queue : List (Packet × Sink)
  outst : Nat
  failed : Bool
  restore : Option Restore
  deriving DecidableEq, Repr

/-- What a partition holds: pins and phase tallies (R116, R120), statistics watch, update reports and seeds (R118), the neighbour plan and
the groups (R258, R264), reservation outcomes that came before their group table (R280), collective calls with their mailbox and READY
retries (R268), the groups in which a call has timed out and the receive areas of its calls (R286), lateness (R285), the commit gate (R319), checkpoints (R326), and the modules of the job
that a reset ended (R328). -/
structure Part where
  pins : SMap Pin
  pinStep : W64
  tallies : SMap Tally
  watch : SMap Watch
  reports : List UpdRep
  seedWritten : Bool
  latched : List Latched
  plan : List Byte
  planReq : Bool
  groupReq : Bool
  groups : List Group
  outcomes : List (W16 × Nat × Nat × Option W16)
  callNo : SMap W64
  failed : List (CoreId × W16)
  lost : List (Nat × Nat)
  calls : List Call
  mailbox : List CollReady
  retries : List (W16 × CollReady)
  late : List Late
  gate : Gate
  ckpt : Ckpt
  job : List W16
  deriving DecidableEq, Repr

def Part.reset : Part where
  pins := []
  pinStep := 0
  tallies := []
  watch := []
  reports := []
  seedWritten := false
  latched := []
  plan := []
  planReq := false
  groupReq := false
  groups := []
  outcomes := []
  callNo := []
  failed := []
  lost := []
  calls := []
  mailbox := []
  retries := []
  late := []
  gate := ⟨0, false, false, none, none, none⟩
  ckpt := ⟨none, [], none, none, none, false, [], [], 0, false, none⟩
  job := []

/-! ## Fabric ports (R225 to R261) -/

/-- An outstanding fabric request: the command that made it, and what its response is for (R239). -/
structure Req where
  core : CoreId
  ctx : CtxId
  job : Nat
  addr : W64
  sink : Sink
  deriving DecidableEq, Repr

/-- One fabric port: link layer and training state (R226 to R232, R244), the packets waiting for credits, the replay buffer of the last
1,024 codewords, the units received of a packet not yet whole, the units on their way into codewords with the fraction of a codeword that
has passed, the credits to return by VC, and the corrected symbols of the last second with their lanes. `used` says that the spare lane is in use, `leftTraining` that STATE
has left 1 since the reset (R410). Counters and states that are dictionary entries are in `dict`. -/
structure Port where
  used : Bool
  swapping : Bool
  vsel : BitVec 4
  reach : W64
  rxSeq : W16
  nak : Bool
  discard : Bool
  txSeq : W16
  acked : W16
  msReplays : Nat
  credits : SMap Nat
  rx : List W128
  leftTraining : Bool
  trainNs : Nat
  txq : List Packet
  replay : List (W16 × List CwSlot)
  line : List W128
  lineAcc : Nat
  ret : SMap Nat
  ser : List (W64 × Fin 16)
  deriving DecidableEq, Repr

def Port.reset : Port := ⟨false, false, 0, 0, 0, false, false, 0, 0, 0, [], [], false, 0, [], [], [], 0, [], []⟩

/-! ## DRAM stacks (R215 to R223) -/

/-- An entry of a stack's error log (R222). -/
structure LogEntry where
  time : W64
  count : W16
  sympos : Byte
  emask : Byte
  ue : Bool
  src : BitVec 2
  unit : Nat
  deriving DecidableEq, Repr

/-- A row nominated for repair: channel, bank, row (R223). -/
structure RowAddr where
  chan : Nat
  bank : Nat
  row : Nat
  deriving DecidableEq, Repr

structure Stack where
  log : SMap (Option LogEntry)
  scrubPos : Nat
  passes : Nat
  filling : Bool
  repairs : List RowAddr
  spares : SMap Nat
  passCe : List (RowAddr × Nat × Bool)
  ueTimes : List W64
  trimTemp : Int
  refreshed : SMap W64
  trims : SMap Nat
  told : Bool
  deriving DecidableEq, Repr

def Stack.reset : Stack := ⟨[], 0, 0, false, [], [], [], [], 0, [], [], false⟩

/-! ## Companion link (R337 to R355) -/

/-- A command block accepted from a ring (R345 to R347): requests outstanding, bytes moved, bytes asked for, and the first status its
requests gave it; `status` is set when its work is finished, and `done` when it has completed. -/
structure Block where
  seq : W32
  w : BitVec 1024
  started : Bool
  outst : Nat
  moved : Nat
  next : Nat
  fail : Option Byte
  status : Option Byte
  value : W64
  done : Bool
  deriving DecidableEq, Repr

/-- A command ring (R344, R347, R348). `expect` is the number k of the next block, and `lines` the data of the lines held, by their
place in the window. -/
structure Ring where
  expect : Nat
  blocks : List Block
  doneSeq : W32
  lines : SMap (Option (BitVec 512))
  deriving DecidableEq, Repr

def Ring.reset : Ring := ⟨1, [], 0, []⟩

/-- A completion ring and a telemetry ring of one partition (R348, R352): records and units written, and the companion's consumer
indices as last read. -/
structure CompRing where
  prod : Nat
  cons : W32
  tprod : W32
  tcons : W32
  deriving DecidableEq, Repr

def CompRing.reset : CompRing := ⟨0, 0, 0, 0⟩

/-- A request to the companion without its TAG (R340, R341). -/
structure MclReq where
  opc : Nat
  part : PartId
  addr : W64
  lines : List (BitVec 512)
  lenM1 : Nat
  psn : Byte
  deriving DecidableEq, Repr

/-- An outstanding MCL request (R341): what its response is for. A line held or CONS is `stale` when an SNPI for it has come since (R344);
`post` is a write that nothing but a NOTIFY waits for, kept until it is acknowledged; `drop` is one whose response means nothing. -/
inductive MclSink where
  | line (win : Fin 64) (line : Nat) (stale : Bool)
  | block (win : Fin 64) (seq : W32) (off : Nat) (units : Nat)
  | blockWrite (win : Fin 64) (seq : W32) (bytes : Nat)
  | post (note : Option (CoreId × CtxId × Nat)) (q : MclReq)
  | cons (part : PartId) (tlm : Bool) (stale : Bool)
  | ckpt (part : PartId) (off : Nat)
  | drop
  deriving DecidableEq, Repr

/-- What waits to be sent to the companion (R348, R354): a completion record, with the interrupt it calls for and the NOTIFY that waits
on it; a telemetry message; a partition's DONE words as they stood; or a request that has no TAG yet or is sent again. -/
inductive MclWait where
  | record (part : PartId) (w : BitVec 512) (irq : Bool) (note : Option (CoreId × CtxId × Nat))
  | telem (part : PartId) (units : List (BitVec 512))
  | done (part : PartId) (words : BitVec 512)
  | req (q : MclReq) (sink : MclSink)
  deriving DecidableEq, Repr

/-- A flit that has been sent: its header and the slots it carries (R338). -/
structure MclFlit where
  hdr : W64
  slots : List W128
  deriving DecidableEq, Repr

/-- The companion link. `toSend` are messages that wait for a credit of their class, `line` slots that wait for a flit, `credits` the
credits returned and `spent` those used by class, `owed` those to return, `nak` and `ackDue` what the next flit has to say, `replay` the
flits the companion has not acknowledged (R338, R341). -/
structure Mcl where
  rings : SMap Ring
  comp : SMap CompRing
  reqs : SMap (Option MclSink)
  nextTag : Nat
  holdoff : SMap Nat
  rxSeq : Nat
  txSeq : Nat
  nak : Bool
  msReplays : Nat
  queue : List MclWait
  credits : SMap Nat
  spent : SMap Nat
  owed : SMap Nat
  ackDue : Bool
  toSend : List MclMsg
  line : List W128
  replay : List MclFlit
  rx : List W128
  deriving DecidableEq, Repr

def Mcl.reset : Mcl := ⟨[], [], [], 0, [], 0, 0, false, 0, [], [], [], [], false, [], [], [], []⟩

/-! ## Integrity: damask, faults, recovery -/

inductive CapSt where
  | waiting
  | running
  | disputed
  | arbitrating
  deriving DecidableEq, Repr

/-- Limits of a rung's check (R112). -/
structure Limits where
  gzovf : Nat
  tiny : Nat
  clip : Nat
  nonfin : Nat
  outnf : Nat
  deriving DecidableEq, Repr

/-- A damask capture (R315 to R318): the descriptor, the initial bank, what R115 case 5 needs (whether the ladder acts, the rung at which the
operation started and the limits of rungs 1 and 2), the operand tiles of every rung computed, and the digest of the origin. -/
structure Capture where
  id : Nat
  core : CoreId
  ctx : CtxId
  part : PartId
  step : W64
  desc : BitVec 1536
  init : List W32
  ldr : Bool
  startRung : Nat
  lim1 : Limits
  lim2 : Limits
  tiles : List (Nat × Operand × Operand)
  digest : W64
  buddyDigest : W64
  urgent : Bool
  st : CapSt
  deriving DecidableEq, Repr

/-- A restart in progress at the leader (R328, R332): its step and phase, whether the phase's messages have been sent, who has replied,
the CKPT_STATUS of its members, and the members. -/
structure Restart where
  part : PartId
  step : W64
  phase : BitVec 2
  sent : Bool
  replies : List W16
  status : List (W16 × W64 × W64)
  devs : List W16
  deriving DecidableEq, Repr

/-- Recovery role state (R332 to R335). `unhealthy` names the modules of the pod that the leader has declared lost, by DEVID[8:0];
`awaiting` those whose LEASE_ACK is still to come and `missed` the acknowledgements each has missed in a row. `replica` holds a
leader's state and its complement. `leased` says that a LEASE has come since the last reset, `stopped` that the module has marked
itself unhealthy. `pendingReplies` are replies not yet sent, and `readied` the restart completions already posted. `declare` and `ended` wait for the
replicas: modules whose loss is to be declared, and jobs that cannot restart. -/
structure Lead where
  unhealthy : List Nat
  missed : SMap Nat
  awaiting : List W16
  replicaAcks : List W16
  replSeq : W64
  replica : List W128
  replicaN : List W128
  restarts : List Restart
  stopped : Bool
  leased : Bool
  pendingReplies : List (PartId × BitVec 2 × W64)
  readied : List (PartId × W64)
  declare : List W16
  ended : List PartId
  deriving DecidableEq, Repr

def Lead.reset : Lead := ⟨[], [], [], [], 0, [], [], [], false, false, [], [], [], []⟩

/-! ## Security and firmware (R375 to R393) -/

/-- The fuse map (R375); SERIAL and DEVICE_SECRET are Config constants. -/
structure Fuses where
  lock : Bool
  debugLock : Bool
  arb : W32
  hashRsa : BitVec 384
  hashSlh : BitVec 384
  partLimit : BitVec 4
  deriving DecidableEq, Repr

/-- A firmware image bank: what its header says, and the first check of Table 16-3 below 8 that it fails (0: none; 9 a flash read
error); `magic` tells whether the header has MAGIC (R379 to R381). -/
structure Image where
  magic : Bool
  version : W32
  svn : Byte
  adv : Bool
  fail : Nat
  hash : BitVec 384
  deriving DecidableEq, Repr

structure Sec where
  fuses : Fuses
  shadow : Fuses
  shadowN : Fuses
  staged : Fuses
  tkA : Image
  tkB : Image
  sfA : Image
  sfB : Image
  tkRun : Option Image
  sfRun : Option Image
  cfgBuf : List Byte
  cfgOvf : Bool
  cfgResult : W16
  lastDoc : Option (List Byte)
  attest : List (PartId × BitVec 256 × W64)
  jtag : JtagIr
  extest : Bool
  deriving DecidableEq, Repr

/-! ## Board, reset and power (R394 to R419) -/

/-- Throttling actions of Table 17-4; `op` remembers the thermal operating point it replaced. -/
inductive Throttle where
  | filler
  | op (prev : BitVec 3)
  | gate
  | dram
  deriving DecidableEq, Repr

/-- Clock, supply and thermal state of one district (R397 to R404): the operating point of its last completed transition and the one it
moves to; the thermal operating point; the thermal actions in the order taken, each with whether the DRAM reading caused it; the
offset of VDD from nominal, in mV; and whether filler work is kept away from its heat (R405). -/
structure Dist where
  op : BitVec 3
  target : BitVec 3
  moving : Bool
  thermOp : BitVec 3
  acts : List (Bool × Throttle)
  stretch : Bool
  vddOff : Int
  hot : Bool
  deriving DecidableEq, Repr

def Dist.reset : Dist := ⟨0, 0, false, 7, [], false, 0, false⟩

/-- Pins, boot stage and power controller (R394 to R417): `fresh` says that RESET has not been released since power came up, `cause`
is RESET_CAUSE, `energy` the part of ENERGY below 1 mJ, in nJ, `warmDue` a warm reset that the trusted kernel owes (R325). -/
structure Board where
  en : Bool
  pg : Bool
  resetPin : Bool
  lockout : Bool
  fresh : Bool
  cause : W16
  booting : Bool
  halt : Bool
  coresDone : Bool
  slotId : BitVec 6
  dramTrained : Bool
  tkUp : Bool
  sfUp : Bool
  refLost : Bool
  modOp : BitVec 3
  powerActs : List Throttle
  tkWarm : Bool
  energy : Nat
  warmDue : Bool
  deriving DecidableEq, Repr

/-! ## What the module drives -/

/-- What the module puts on its ports, in order: the model's record of its outputs (log entry 10). -/
inductive Out where
  | packet (port : PortId) (p : Packet)
  | lcf (port : PortId) (f : W256)
  | train (port : PortId)
  | codeword (port : PortId) (seq : W16) (slots : List CwSlot)
  | flit (hdr : W64) (slots : List W128) (crc : W64)
  | training (mask : BitVec 3) (choice : BitVec 2)
  | mcl (m : MclMsg)
  | smbus (bytes : List Byte)
  | usdo (idx : W16) (sub : Byte) (abort : W32) (data : List Byte)
  | heartbeat (node : Byte) (state : Byte)
  | bootup (node : Byte)
  | emcy (node : Byte) (code : W16) (reg : Byte) (detail : BitVec 64)
  | coll (dev : W16) (tag : BitVec 12) (m : CollReady)
  | seg (dev : W16) (tag : BitVec 12) (m : CollSegEnd)
  | vote (part : PartId) (c : W64) (s : W64) (ns : W64)
  | alert
  | jtag (ir : JtagIr)
  deriving DecidableEq, Repr

/-- NMT states (R364). -/
inductive Nmt where
  | preop
  | operational
  | stopped
  deriving DecidableEq, Repr

/-- The whole module. -/
structure State where
  pending : List Instr
  mem : Mem
  cores : SMap Core
  objs : SMap Obj
  parts : SMap Part
  dict : SMap W64
  dictForce : SMap W64
  dictN : SMap W64
  ports : SMap Port
  reqs : SMap (Option Req)
  nextTag : Nat
  spray : Nat
  stackSts : SMap Stack
  mcl : Mcl
  caps : List Capture
  nextCap : Nat
  faults : List (BitVec 256)
  lead : Lead
  sec : Sec
  board : Board
  dists : SMap Dist
  withdrawn : List CoreId
  spares : SMap (BitVec 6)
  quar : List (Fin 272)
  selfFail : List (Fin 272)
  nmt : Nmt
  out : List Out
  free : Nat
  deriving DecidableEq, Repr

/-- A bank with no image in it. -/
def Image.none : Image := ⟨false, 0, 0, false, 1, 0⟩

/-- A bank that holds a verifying image of version 1.0 (log entry 8). -/
def Image.first : Image := ⟨true, 0x00010000, 0, false, 0, 0⟩

/-- Fuses as they leave the factory: both root hashes fused, locked (R375); the hashes are not given (log entry 8). -/
def Fuses.factory : Fuses := ⟨true, true, 0, 1, 1, 0⟩

def Fuses.zero : Fuses := ⟨false, false, 0, 0, 0, 0⟩

def Fuses.compl (f : Fuses) : Fuses :=
  ⟨!f.lock, !f.debugLock, ~~~f.arb, ~~~f.hashRsa, ~~~f.hashSlh, ~~~f.partLimit⟩

def Sec.reset : Sec where
  fuses := Fuses.factory
  shadow := Fuses.factory
  shadowN := Fuses.factory.compl
  staged := Fuses.zero
  tkA := Image.first
  tkB := Image.none
  sfA := Image.first
  sfB := Image.none
  tkRun := none
  sfRun := none
  cfgBuf := []
  cfgOvf := false
  cfgResult := 0
  lastDoc := none
  attest := []
  jtag := .bypass
  extest := false

/-- Powered, in the cold reset that RESET has just released (R412, Table 18-4 step 3). -/
def Board.reset : Board where
  en := true
  pg := true
  resetPin := false
  lockout := false
  fresh := false
  cause := 1
  booting := true
  halt := false
  coresDone := false
  slotId := 0
  dramTrained := false
  tkUp := false
  sfUp := false
  refLost := false
  modOp := 7
  powerActs := []
  tkWarm := false
  energy := 0
  warmDue := false

/-- The module right after a cold reset (R413): RESET has just been released and nothing of the boot chain has run. -/
def State.reset : State where
  pending := []
  mem := Mem.reset
  cores := []
  objs := []
  parts := []
  dict := []
  dictForce := []
  dictN := []
  ports := []
  reqs := []
  nextTag := 0
  spray := 0
  stackSts := []
  mcl := Mcl.reset
  caps := []
  nextCap := 0
  faults := []
  lead := Lead.reset
  sec := Sec.reset
  board := Board.reset
  dists := []
  withdrawn := []
  spares := []
  quar := []
  selfFail := []
  nmt := .preop
  out := []
  free := 0

/-- The reasons a step can stop with a fault. No command of this module stops the model with a fault: what the manual calls
a fault is an effect on the state (R322). -/
inductive Fault where
  /-- Raised by no command; it stands for an access outside the address space, which R17 answers and which therefore never
  stops the model. Safe. -/
  | noSuchAddress
  deriving DecidableEq, Repr

/-- The reasons a step can end without a meaning. -/
inductive Refusal where
  /-- Raised by a refused arm of exec only: the command has no meaning in the model yet. Safe. -/
  | notModelled (mnemonic : String)
  /-- Raised by JTAG_INSTRUCTION for a debug instruction while DEBUG_LOCK is clear: Naroth's debug instructions "are not
  described for the user" (R391). Safe. -/
  | debugInstruction
  deriving DecidableEq, Repr

end Sys2Proof.Machine
end

