-- ==== Sys2Proof/Machine/Bits.lean ====
section
/-!
DEFINITION. Bit fields, little-endian byte strings (R4) and the sparse map operations that every other file uses.
-/
namespace Sys2Proof.Machine

/-- The field of `len` bits whose lowest bit is `lo` (R4). -/
abbrev fld {n : Nat} (w : BitVec n) (lo len : Nat) : BitVec len := w.extractLsb' lo len

/-- The same field as a number. -/
abbrev fldN {n : Nat} (w : BitVec n) (lo len : Nat) : Nat := (w.extractLsb' lo len).toNat

/-- One bit. -/
abbrev bitAt {n : Nat} (w : BitVec n) (i : Nat) : Bool := w.getLsbD i

/-- Two's complement reading of a field. -/
def sgn {n : Nat} (w : BitVec n) : Int := w.toInt

def b2n (b : Bool) : Nat := if b then 1 else 0

/-- The value `v` placed at bit `lo`, as a number; fields of a word are added up from these. -/
def at' (lo : Nat) (v : Nat) : Nat := v * 2 ^ lo

/-- `n` bytes of `v`, least significant first (R4). -/
def leBytes : Nat → Nat → List Byte
  | 0, _ => []
  | n + 1, v => BitVec.ofNat 8 v :: leBytes n (v / 256)

/-- The number that little-endian bytes spell (R4). -/
def ofLe : List Byte → Nat
  | [] => 0
  | b :: t => b.toNat + 256 * ofLe t

/-- Elements of `n` bytes each, in address order. -/
def chunksOf {α : Type} (n : Nat) : Nat → List α → List (List α)
  | 0, _ => []
  | fuel + 1, l => if l.isEmpty then [] else l.take n :: chunksOf n fuel (l.drop n)

/-- The first `k` elements of `n` bytes as numbers. -/
def elemsLe (n k : Nat) (l : List Byte) : List Nat := (chunksOf n k l).map ofLe

/-! ## Sparse maps -/

/-- Value at a key: the first entry's, or the default of that key. -/
def SMap.get {α : Type} (d : Nat → α) : SMap α → Nat → α
  | [], q => d q
  | (k, v) :: t, q => if k = q then v else SMap.get d t q

/-- Entries below `a`, then the new ones, then entries from `b` on. -/
def SMap.splice {α : Type} (m : SMap α) (a b : Nat) (new : SMap α) : SMap α :=
  m.filter (fun e => decide (e.1 < a)) ++ new ++ m.filter (fun e => decide (b ≤ e.1))

/-- Set one key; a value equal to the default removes the entry. -/
def SMap.set {α : Type} [DecidableEq α] (d : Nat → α) (m : SMap α) (q : Nat) (v : α) : SMap α :=
  SMap.splice m q (q + 1) (if v = d q then [] else [(q, v)])

/-- Entries for consecutive keys from `a`, leaving out values equal to the default. -/
def SMap.entries {α : Type} [DecidableEq α] (d : Nat → α) : Nat → List α → SMap α
  | _, [] => []
  | a, v :: t => if v = d a then SMap.entries d (a + 1) t else (a, v) :: SMap.entries d (a + 1) t

/-- Set consecutive keys from `a`. -/
def SMap.setRange {α : Type} [DecidableEq α] (d : Nat → α) (m : SMap α) (a : Nat) (vs : List α) : SMap α :=
  SMap.splice m a (a + vs.length) (SMap.entries d a vs)

/-- Canonical form: keys strictly rising, no entry equal to its default. -/
def SMap.wf {α : Type} [DecidableEq α] (d : Nat → α) (m : SMap α) : Bool :=
  decide (m.Pairwise (fun x y => x.1 < y.1)) && m.all (fun e => decide (e.2 ≠ d e.1))

/-- Walk `n` consecutive keys from `a` beside the entries of that range. -/
def SMap.walk {α : Type} (d : Nat → α) : Nat → Nat → SMap α → List α
  | _, 0, _ => []
  | a, n + 1, [] => d a :: SMap.walk d (a + 1) n []
  | a, n + 1, (k, v) :: t =>
    if k = a then v :: SMap.walk d (a + 1) n t else d a :: SMap.walk d (a + 1) n ((k, v) :: t)

/-- Values at `n` consecutive keys from `a`. -/
def SMap.range {α : Type} (d : Nat → α) (m : SMap α) (a n : Nat) : List α :=
  SMap.walk d a n (m.filter (fun e => decide (a ≤ e.1 ∧ e.1 < a + n)))

/-! ## Accessors of the state -/

def State.core (s : State) (c : CoreId) : Core := SMap.get (fun _ => Core.reset) s.cores c.val
def State.setCore (s : State) (c : CoreId) (k : Core) : State :=
  { s with cores := SMap.set (fun _ => Core.reset) s.cores c.val k }
def State.modCore (s : State) (c : CoreId) (f : Core → Core) : State := s.setCore c (f (s.core c))

def Core.ctx (k : Core) : CtxId → Ctx
  | .primary => k.prim
  | .filler => k.fill
def Core.setCtx (k : Core) (x : CtxId) (v : Ctx) : Core :=
  match x with
  | .primary => { k with prim := v }
  | .filler => { k with fill := v }

def Core.stream (k : Core) : StreamId → Stream
  | .s0 => k.s0
  | .s1 => k.s1
  | .s2 => k.s2
def Core.setStream (k : Core) (x : StreamId) (v : Stream) : Core :=
  match x with
  | .s0 => { k with s0 := v }
  | .s1 => { k with s1 := v }
  | .s2 => { k with s2 := v }

/-- The context that owns a stream (R154). -/
def streamCtx : StreamId → CtxId
  | .s0 => .primary
  | .s1 => .primary
  | .s2 => .filler

def srcCtx : Src → CtxId
  | .s2 => .filler
  | _ => .primary

def srcStream : Src → Option StreamId
  | .s0 => some .s0
  | .s1 => some .s1
  | .s2 => some .s2
  | .dq => none

/-- Source code of CTX.ERR (Table 7-13) and of the dumps (R306). -/
def srcCode : Src → Nat
  | .s0 => 0
  | .s1 => 1
  | .s2 => 2
  | .dq => 3

def streamCode : StreamId → Nat
  | .s0 => 0
  | .s1 => 1
  | .s2 => 2

def ctxBit : CtxId → Bool
  | .primary => false
  | .filler => true

def ctxOfBit (b : Bool) : CtxId := if b then .filler else .primary

def State.ctx (s : State) (c : CoreId) (x : CtxId) : Ctx := (s.core c).ctx x
def State.setCtx (s : State) (c : CoreId) (x : CtxId) (v : Ctx) : State := s.modCore c (fun k => k.setCtx x v)
def State.modCtx (s : State) (c : CoreId) (x : CtxId) (f : Ctx → Ctx) : State := s.setCtx c x (f (s.ctx c x))

def State.stream (s : State) (c : CoreId) (x : StreamId) : Stream := (s.core c).stream x
def State.modStream (s : State) (c : CoreId) (x : StreamId) (f : Stream → Stream) : State :=
  s.modCore c (fun k => k.setStream x (f (k.stream x)))

/-- Synchronisation object k of a core, under key 4,096 x core + k (R289). -/
def State.obj (s : State) (c : CoreId) (k : Nat) : Obj := SMap.get (fun _ => Obj.reset) s.objs (c.val * 4096 + k)
def State.setObj (s : State) (c : CoreId) (k : Nat) (o : Obj) : State :=
  { s with objs := SMap.set (fun _ => Obj.reset) s.objs (c.val * 4096 + k) o }

def State.part (s : State) (p : PartId) : Part := SMap.get (fun _ => Part.reset) s.parts p.val
def State.setPart (s : State) (p : PartId) (v : Part) : State :=
  { s with parts := SMap.set (fun _ => Part.reset) s.parts p.val v }
def State.modPart (s : State) (p : PartId) (f : Part → Part) : State := s.setPart p (f (s.part p))

def State.portSt (s : State) (n : PortId) : Port := SMap.get (fun _ => Port.reset) s.ports n.val
def State.setPort (s : State) (n : PortId) (v : Port) : State :=
  { s with ports := SMap.set (fun _ => Port.reset) s.ports n.val v }
def State.modPort (s : State) (n : PortId) (f : Port → Port) : State := s.setPort n (f (s.portSt n))

def State.stack (s : State) (n : District) : Stack := SMap.get (fun _ => Stack.reset) s.stackSts n.val
def State.setStack (s : State) (n : District) (v : Stack) : State :=
  { s with stackSts := SMap.set (fun _ => Stack.reset) s.stackSts n.val v }
def State.modStack (s : State) (n : District) (f : Stack → Stack) : State := s.setStack n (f (s.stack n))

def State.dist (s : State) (n : District) : Dist := SMap.get (fun _ => Dist.reset) s.dists n.val
def State.setDist (s : State) (n : District) (v : Dist) : State :=
  { s with dists := SMap.set (fun _ => Dist.reset) s.dists n.val v }
def State.modDist (s : State) (n : District) (f : Dist → Dist) : State := s.setDist n (f (s.dist n))

/-- Put something on the module's outputs. -/
def State.emit (s : State) (o : Out) : State := { s with out := s.out ++ [o] }
def State.emits (s : State) (os : List Out) : State := { s with out := s.out ++ os }

/-- District of a core (R7). -/
def districtOf (c : CoreId) : Nat := c.val / 16

def allCores : List CoreId := List.finRange 256
def allParts : List PartId := List.finRange 16
def allPorts : List PortId := List.finRange 10
def allStacks : List District := List.finRange 16

def coreOf (n : Nat) : CoreId := ⟨n % 256, Nat.mod_lt _ (by decide)⟩
def partOf (n : Nat) : PartId := ⟨n % 16, Nat.mod_lt _ (by decide)⟩

/-- Fold a state update over a list. -/
def foldS {α : Type} (s : State) (l : List α) (f : State → α → State) : State := l.foldl f s

/-- How many of a list. -/
def cnt {α : Type} (f : α → Bool) (l : List α) : Nat := (l.filter f).length

end Sys2Proof.Machine
end

