-- ==== Sys2Proof/Machine/Crc.lean ====
section
/-!
DEFINITION. Check codes: CRC-32C of block checks (R309, Table 0-2), CRC-8 of packet headers (R236), CRC-64 of companion link
flits (R338), the Reed–Solomon burst code of DRAM (R216), and SHA-256 (R268, R283).
-/
namespace Sys2Proof.Machine

/-! ## CRCs -/

/-- One bit of a reflected CRC of `n` bits with the reflected polynomial. -/
def crcRefBit {n : Nat} (poly c : BitVec n) : BitVec n := if c.getLsbD 0 then (c >>> 1) ^^^ poly else c >>> 1

def iter {α : Type} (f : α → α) : Nat → α → α
  | 0, x => x
  | n + 1, x => iter f n (f x)

/-- CRC-32C before its final XOR (Table 0-2): 0x82F63B78 is 0x1EDC6F41 reflected. -/
def crc32cStep (c : W32) (b : Byte) : W32 := iter (crcRefBit 0x82F63B78#32) 8 (c ^^^ b.zeroExtend 32)

def crc32c (l : List Byte) : W32 := (l.foldl crc32cStep 0xFFFFFFFF) ^^^ 0xFFFFFFFF

/-- One bit of an unreflected CRC, most significant bit first. -/
def crcMsbBit {n : Nat} (poly c : BitVec n) : BitVec n := if c.getLsbD (n - 1) then (c <<< 1) ^^^ poly else c <<< 1

/-- CRC-8 of header bytes 0 to 14 (R236). -/
def crc8 (l : List Byte) : Byte := l.foldl (fun c b => iter (crcMsbBit 0x07#8) 8 (c ^^^ b)) 0

/-- CRC of a companion link flit (R338). -/
def crc64 (l : List Byte) : W64 :=
  l.foldl (fun c b => iter (crcMsbBit 0x42F0E1EBA9EA3693#64) 8 (c ^^^ ((b.zeroExtend 64 : W64) <<< (56 : Nat)))) 0

/-- HCHK that a header should carry (R236). -/
def hchk (h : W128) : Byte := crc8 (leBytes 15 h.toNat)

def hchkOk (h : W128) : Bool := fld h 120 8 == hchk h

/-- The header with a fresh HCHK. -/
def sealHdr (h : W128) : W128 := (fld h 0 120).zeroExtend 128 ||| ((hchk h).zeroExtend 128 <<< 120)

/-! ## GF(2^8) and the burst code (R216) -/

/-- Multiplication by α: the polynomial is x^8 + x^4 + x^3 + x^2 + 1. -/
def gfDouble (a : Byte) : Byte := if a.getLsbD 7 then (a <<< 1) ^^^ 0x1D else a <<< 1

def gfMulGo : Nat → Byte → Byte → Byte → Byte
  | 0, _, _, acc => acc
  | n + 1, a, b, acc => gfMulGo n (gfDouble a) (b >>> 1) (if b.getLsbD 0 then acc ^^^ a else acc)

def gfMul (a b : Byte) : Byte := gfMulGo 8 a b 0

/-- α^i. -/
def gfPow (i : Nat) : Byte := iter gfDouble i 1

/-- Syndrome i of an error pattern on the 72-symbol codeword: symbol k is the coefficient of x^(71 − k). -/
def rsSyndrome (i : Nat) (e : List (Fin 72 × Byte)) : Byte :=
  e.foldl (fun acc p => acc ^^^ gfMul p.2 (gfPow (i * (71 - p.1.val) % 255))) 0

def rsSyndromes (e : List (Fin 72 × Byte)) : List Byte := (List.range 8).map (fun i => rsSyndrome i e)

/-- Poison inverts the eight check bytes (R216). -/
def rsPoison : List (Fin 72 × Byte) := (List.finRange 8).map (fun i => (⟨64 + i.val, by omega⟩, 0xFF))

/-- Outcomes of decoding a burst (R216). -/
inductive RsOut where
  | clean
  | poisoned
  | ce (pos : Fin 72) (mask : Byte) (poisoned : Bool)
  | ue
  deriving DecidableEq, Repr

/-- The single-symbol error with these syndromes, if there is one: mask is syndrome 0, and its position follows from the ratio of
the first two. -/
def rsSingle (s : List Byte) : Option (Fin 72 × Byte) :=
  (List.finRange 72).findSome? (fun k =>
    let m := s.headD 0
    if m ≠ 0 ∧ rsSyndromes [(k, m)] = s then some (k, m) else none)

def xorL (a b : List Byte) : List Byte := List.zipWith (· ^^^ ·) a b

/-- Decode a burst whose stored codeword differs from the clean codeword of its data by `e`. -/
def rsDecode (e : List (Fin 72 × Byte)) : RsOut :=
  let s := rsSyndromes e
  let zero := List.replicate 8 (0 : Byte)
  let p := xorL s (rsSyndromes rsPoison)
  if s = zero then .clean
  else if p = zero then .poisoned
  else match rsSingle s with
    | some (k, m) => .ce k m false
    | none =>
      match rsSingle p with
      | some (k, m) => .ce k m true
      | none => .ue

/-- The bytes of a burst as read with the error pattern on them. -/
def rsUpset (e : List (Fin 72 × Byte)) (l : List Byte) : List Byte :=
  e.foldl (fun acc p => if p.1.val < 64 then acc.set p.1.val ((acc.getD p.1.val 0) ^^^ p.2) else acc) l

/-! ## SHA-256 (FIPS 180-4) -/

def shaK : List W32 :=
  [0x428a2f98, 0x71374491, 0xb5c0fbcf, 0xe9b5dba5, 0x3956c25b, 0x59f111f1, 0x923f82a4, 0xab1c5ed5] ++
  [0xd807aa98, 0x12835b01, 0x243185be, 0x550c7dc3, 0x72be5d74, 0x80deb1fe, 0x9bdc06a7, 0xc19bf174] ++
  [0xe49b69c1, 0xefbe4786, 0x0fc19dc6, 0x240ca1cc, 0x2de92c6f, 0x4a7484aa, 0x5cb0a9dc, 0x76f988da] ++
  [0x983e5152, 0xa831c66d, 0xb00327c8, 0xbf597fc7, 0xc6e00bf3, 0xd5a79147, 0x06ca6351, 0x14292967] ++
  [0x27b70a85, 0x2e1b2138, 0x4d2c6dfc, 0x53380d13, 0x650a7354, 0x766a0abb, 0x81c2c92e, 0x92722c85] ++
  [0xa2bfe8a1, 0xa81a664b, 0xc24b8b70, 0xc76c51a3, 0xd192e819, 0xd6990624, 0xf40e3585, 0x106aa070] ++
  [0x19a4c116, 0x1e376c08, 0x2748774c, 0x34b0bcb5, 0x391c0cb3, 0x4ed8aa4a, 0x5b9cca4f, 0x682e6ff3] ++
  [0x748f82ee, 0x78a5636f, 0x84c87814, 0x8cc70208, 0x90befffa, 0xa4506ceb, 0xbef9a3f7, 0xc67178f2]

def shaH0 : List W32 :=
  [0x6a09e667, 0xbb67ae85, 0x3c6ef372, 0xa54ff53a, 0x510e527f, 0x9b05688c, 0x1f83d9ab, 0x5be0cd19]

def rotr (x : W32) (n : Nat) : W32 := x.rotateRight n

def beBytes (n v : Nat) : List Byte := (leBytes n v).reverse

/-- Message schedule: the newest word is first. -/
def shaSchedule : Nat → List W32 → List W32
  | 0, w => w
  | n + 1, w =>
    let a := w.getD 14 0
    let b := w.getD 1 0
    let s0 := rotr a 7 ^^^ rotr a 18 ^^^ (a >>> 3)
    let s1 := rotr b 17 ^^^ rotr b 19 ^^^ (b >>> 10)
    shaSchedule n ((w.getD 15 0 + s0 + w.getD 6 0 + s1) :: w)

def shaRound (h : List W32) (kw : W32) : List W32 :=
  match h with
  | [a, b, c, d, e, f, g, x] =>
    let t1 := x + (rotr e 6 ^^^ rotr e 11 ^^^ rotr e 25) + ((e &&& f) ^^^ (~~~e &&& g)) + kw
    let t2 := (rotr a 2 ^^^ rotr a 13 ^^^ rotr a 22) + ((a &&& b) ^^^ (a &&& c) ^^^ (b &&& c))
    [t1 + t2, a, b, c, d + t1, e, f, g]
  | _ => h

def shaBlock (h : List W32) (blk : List Byte) : List W32 :=
  let w0 := (chunksOf 4 16 blk).map (fun c => BitVec.ofNat 32 (ofLe c.reverse))
  let w := (shaSchedule 48 w0.reverse).reverse
  let h' := (List.zipWith (· + ·) shaK w).foldl shaRound h
  List.zipWith (· + ·) h h'

def sha256 (m : List Byte) : List Byte :=
  let n := m.length
  let pad := (64 - (n + 9) % 64) % 64
  let p := m ++ [0x80] ++ List.replicate pad 0 ++ beBytes 8 (8 * n)
  let h := (chunksOf 64 (p.length / 64) p).foldl shaBlock shaH0
  h.flatMap (fun x => beBytes 4 x.toNat)

/-- The first eight bytes of a digest as a 64-bit value, read little-endian (R268, R283). -/
def sha64 (m : List Byte) : W64 := BitVec.ofNat 64 (ofLe ((sha256 m).take 8))

end Sys2Proof.Machine
end

