-- ==== Sys2Proof/Config.lean ====
section
/-!
DEFINITION. What an implementation fixes and the free values the manual leaves open. No free value has a body: nothing
can be proved of it, and a claim holds whatever it is.
-/
namespace Sys2Proof.Config

/-- FREE VALUE (log entry 2): the byte a DRAM address holds after power-up, before anything writes it (R220, R415:
"DRAM powers up holding arbitrary contents"). The argument is the DRAM offset. -/
opaque dramPowerUp : Nat → Byte

/-- FREE VALUE (log entry 2): how the burst check code decodes an unwritten DRAM burst, by burst index (R216, R220: "whatever
R216 decodes, usually a UE"). 0 clean, 1 poisoned, 2 clean after correction, 3 poisoned after correction, others a UE. -/
opaque dramPowerUpOutcome : Nat → Nat

/-- FREE VALUE (log entry 2): symbol position and error pattern that correcting an unwritten burst finds, by burst index. -/
opaque dramPowerUpSymbol : Nat → Nat × Byte

/-- PER MODULE (log entry 3): the SERIAL fuse (R371, R375). -/
opaque serial : W64

/-- PER STEPPING (log entry 3): BOOTROM_VERSION (R371). -/
opaque bootRomVersion : W32

/-- PER IMAGE (log entry 3): the characters of SW_VERSION for a service firmware version (R365), by position. -/
opaque swVersion : W32 → Nat → Byte

/-- FREE VALUE (log entry 4): sensor readings of R395 that no command has reported yet, by entry key. -/
opaque sensor : Nat → W64

/-- PER MODULE (log entry 3): the DEVICE_SECRET fuses, readable only by the boot ROM (R375). -/
opaque deviceSecret : BitVec 256

/-- FREE VALUE (log entry 5): the bytes of the module's public keys and of what its private keys and Naroth's identity roots sign (R392,
R393), by the secret under which the keys are wrapped, the item and the byte offset. -/
opaque signature : BitVec 256 → Nat → Nat → Byte

/-- FREE VALUE (log entry 7): the staged fuse bits that do not read back as set when the boot ROM programs them, by counter (R376):
ANTI_ROLLBACK [31:0], ROOT_HASH_RSA [415:32], ROOT_HASH_SLH [799:416], PART_LIMIT [803:800], and DEBUG_LOCK with FUSE_LOCK [804]. -/
opaque fuseFails : Nat → BitVec 805

/-- PER STEPPING (log entry 3): the hashes of Naroth's manufacturing keys that the boot ROM holds (R378), for RSA and for SLH-DSA. -/
opaque mfgHashRsa : BitVec 384
opaque mfgHashSlh : BitVec 384

/-- IMPLEMENTATION (log entry 6): the DRAM offset of the damask reserve, a 1 GiB region that the trusted kernel assigns to no
partition (R315); the stack and the region of the stack. -/
opaque damaskReserve : District × Fin 64

/-- FREE VALUE (log entry 22): kind and number of the unit of another module that made a request, by SRCID and TAG. A response
names them (R239), and a request packet carries no field that tells them (R235). -/
opaque requestUnit : W16 → BitVec 12 → Fin 4 × Byte

/-- FREE VALUE (log entry 7): module-internal contents that the manual leaves to the module, such as those of a LANE flit (R229),
by item and counter. -/
opaque internalWord : Nat → Nat → W256

/-- FREE VALUE (log entry 7): the logical lane that a LANE flit of the other end names (R229: its contents "are not specified for the
user"). -/
opaque laneOf : W256 → Fin 16

/-- FREE VALUE (log entry 7): the messages of a class that the companion grants when the link becomes active (R338, R341: credits are
returned by class; neither their unit nor the first grant is stated). -/
opaque mclCredits : Nat → Nat

/-- FREE VALUE (log entry 7): the version mask and the choice that a training message of the companion carries, and the choice as a
MCL_VERSION code, 0 for none yet (R339: the versions exchanged are stated, not the message's form). -/
opaque mclTraining : List (BitVec 512) → BitVec 3 × BitVec 2

/-- FREE VALUE (log entry 13): the bytes of a tile image's gauze area behind its last record (R69, R71: only records are described),
by position in the area. -/
opaque gauzePad : Nat → Byte

/-- FREE VALUE (log entry 14): the upper 16 bits of register A after an XADD (R141: the extension is "in the low 16 bits of register
A"), by the register's old value and the new extension. -/
opaque xaddUpper : W32 → Nat → BitVec 16

/-- FREE VALUE (log entry 27): the data unit of a READY or a segment-end message, by what it says (R268, R269: what they carry is stated,
not their layout). -/
opaque mailUnit : List Nat → W128

/-- FREE VALUE (log entry 92): PLAN_DIGEST of another member module, by module, partition and counter (R284: the service firmware checks
that all are equal; how it learns the others' is not stated). -/
opaque peerDigest : W16 → PartId → Nat → W64

/-- FREE VALUE (log entry 67): the modules of the job in a partition of the pod that does not include this module, in a term; none where
there is no such job (R332: how a leader knows them is not stated). -/
opaque jobMembers : PartId → Nat → List W16

/-- FREE VALUE (log entry 67): a lost member of a job holds a copy of its checkpoint elsewhere (R328). -/
opaque copyElsewhere : W16 → PartId → Bool

/-- FREE VALUE (log entry 7): 32 bytes of a checkpoint's header or module state, by what they hold and their place (R326: the contents are
stated, not the layout). -/
opaque ckptWord : List (BitVec 64) → Nat → W256

/-- FREE VALUE (log entry 7): 64-byte units that the module state takes in a checkpoint (R326: what it holds is stated, not its
layout). -/
opaque ckptUnits : Nat

end Sys2Proof.Config
end

