-- ==== Sys2Proof/Machine/Dict.lean ====
section
/-!
DEFINITION. The table of the object dictionary: every entry with its type, access class, scope, default and range, from Tables
5-6, 8-10, 9-6, 10-10, 11-5, 12-7, 13-7, 14-7, 15-5 and 15-8 to 15-12; and the map that holds the values (R356 to R361).
-/
namespace Sys2Proof.Machine

/-- Entry types (Table 15-1). -/
inductive ETy where
  | u8
  | u16
  | u32
  | u64
  | i8
  | i16
  | f32
  | f64
  | str
  deriving DecidableEq, Repr

/-- Bytes of a value of the type; a str is carried by its bytes 0 to 7 except over P-CAN (R356). -/
def ETy.bytes : ETy → Nat
  | .u8 => 1
  | .u16 => 2
  | .u32 => 4
  | .u64 => 8
  | .i8 => 1
  | .i16 => 2
  | .f32 => 4
  | .f64 => 8
  | .str => 8

/-- Access classes (Table 15-2). -/
inductive EAcc where
  | const
  | ro
  | rw
  | wo
  | fuse
  | crit
  deriving DecidableEq, Repr

/-- Scopes (R361): module, partition, partition-indexed. -/
inductive EScope where
  | m
  | p
  | pp
  deriving DecidableEq, Repr

/-- A row of the table: `n` indices from `lo`, `k` subindices from `sub`; `rng` is the range of accepted values where a rule or
a unit states one (R359). -/
structure Ent where
  lo : Nat
  n : Nat
  sub : Nat
  k : Nat
  ty : ETy
  acc : EAcc
  scope : EScope
  dflt : W64
  rng : Option (Nat × Nat)
  deriving DecidableEq, Repr

/-- DRAM offset of the damask reserve (R315). -/
def damaskBase : W64 :=
  BitVec.ofNat 64 (Config.damaskReserve.1.val * 2 ^ 36 + Config.damaskReserve.2.val * 2 ^ 30)

/-- Entries of indices 0x10xx. -/
def dict10xx : List Ent := [
  ⟨0x1000, 1, 0x00, 1, .u32, .const, .m, 0, none⟩,
  ⟨0x1001, 1, 0x00, 1, .u8, .ro, .m, 0, none⟩,
  ⟨0x1008, 1, 0x00, 1, .str, .const, .m, 0x2053415645424956, none⟩,
  ⟨0x1009, 1, 0x00, 1, .str, .const, .m, 0x3142, none⟩,
  ⟨0x100A, 1, 0x00, 1, .str, .ro, .m, 0, none⟩,
  ⟨0x1014, 1, 0x00, 1, .u32, .ro, .m, 0, none⟩,
  ⟨0x1015, 1, 0x00, 1, .u16, .rw, .m, 0, none⟩,
  ⟨0x1017, 1, 0x00, 1, .u16, .rw, .m, 1000, none⟩,
  ⟨0x1018, 1, 0x01, 1, .u32, .const, .m, 0x51a7b3, none⟩,
  ⟨0x1018, 1, 0x02, 1, .u32, .const, .m, 0x40701, none⟩,
  ⟨0x1018, 1, 0x03, 1, .u32, .const, .m, 0x300b1, none⟩,
  ⟨0x1018, 1, 0x04, 1, .u32, .const, .m, ((Config.serial.extractLsb' 0 32).zeroExtend 64), none⟩]

/-- Entries of indices 0x20xx. -/
def dict20xx : List Ent := [
  ⟨0x2000, 1, 0x01, 1, .str, .const, .m, 0x302d54342d564256, none⟩,
  ⟨0x2000, 1, 0x02, 1, .u8, .const, .m, 177, none⟩,
  ⟨0x2000, 1, 0x03, 1, .u8, .const, .m, 3, none⟩,
  ⟨0x2000, 1, 0x04, 1, .u8, .const, .m, 7, none⟩,
  ⟨0x2000, 1, 0x05, 1, .u8, .const, .m, 7, none⟩,
  ⟨0x2000, 1, 0x06, 1, .u64, .const, .m, Config.serial, none⟩,
  ⟨0x2000, 1, 0x07, 1, .u32, .const, .m, (Config.bootRomVersion.zeroExtend 64), none⟩,
  ⟨0x2000, 1, 0x08, 1, .u32, .ro, .m, 0, none⟩,
  ⟨0x2000, 1, 0x09, 1, .u32, .ro, .m, 0, none⟩,
  ⟨0x2000, 1, 0x0A, 1, .u16, .const, .m, 1, none⟩,
  ⟨0x2000, 1, 0x0B, 1, .u16, .const, .m, 272, none⟩,
  ⟨0x2000, 1, 0x0C, 1, .u64, .ro, .m, 0, none⟩,
  ⟨0x2000, 1, 0x0D, 1, .u8, .ro, .m, 0, none⟩,
  ⟨0x2000, 1, 0x0E, 1, .u8, .ro, .m, 0, none⟩,
  ⟨0x2000, 1, 0x0F, 1, .u8, .ro, .m, 0, none⟩]

/-- Entries of indices 0x21xx. -/
def dict21xx : List Ent := [
  ⟨0x2100, 1, 0x01, 1, .u16, .rw, .m, 2400, (some (1000, 2400))⟩,
  ⟨0x2100, 1, 0x02, 1, .u8, .rw, .m, 7, (some (0, 7))⟩,
  ⟨0x2100, 1, 0x03, 1, .u16, .ro, .m, 0, none⟩,
  ⟨0x2100, 1, 0x04, 1, .u16, .ro, .m, 0, none⟩,
  ⟨0x2100, 1, 0x05, 1, .u16, .ro, .m, 0, none⟩,
  ⟨0x2100, 1, 0x06, 1, .i16, .ro, .m, 0, none⟩,
  ⟨0x2100, 1, 0x07, 1, .u8, .ro, .m, 0, none⟩,
  ⟨0x2100, 1, 0x08, 1, .u64, .ro, .m, 0, none⟩,
  ⟨0x2100, 1, 0x09, 1, .u8, .rw, .m, 1, (some (0, 1))⟩,
  ⟨0x2100, 1, 0x0A, 1, .u64, .ro, .m, 0, none⟩,
  ⟨0x2110, 1, 0x01, 16, .u16, .ro, .m, 0, none⟩,
  ⟨0x2120, 1, 0x01, 16, .u16, .ro, .m, 0, none⟩,
  ⟨0x2130, 1, 0x01, 16, .i16, .ro, .m, 0, none⟩,
  ⟨0x2140, 1, 0x01, 16, .i16, .ro, .m, 0, none⟩,
  ⟨0x2150, 1, 0x01, 10, .u32, .ro, .m, 0, none⟩]

/-- Entries of indices 0x22xx. -/
def dict22xx : List Ent := [
  ⟨0x2200, 1, 0x01, 1, .u8, .ro, .m, 1, none⟩,
  ⟨0x2201, 1, 0x01, 1, .u8, .wo, .m, 0, (some (1, 1))⟩,
  ⟨0x2201, 1, 0x02, 1, .u64, .rw, .m, 0, none⟩,
  ⟨0x2201, 1, 0x03, 1, .u16, .ro, .m, 0, none⟩,
  ⟨0x2201, 1, 0x04, 1, .u32, .ro, .m, 0, none⟩,
  ⟨0x2202, 1, 0x01, 1, .u32, .rw, .m, 86400, none⟩,
  ⟨0x2202, 1, 0x02, 1, .u8, .rw, .m, 0, (some (0, 1))⟩,
  ⟨0x2202, 1, 0x03, 1, .u32, .ro, .m, 0, none⟩,
  ⟨0x2203, 1, 0x01, 1, .u32, .ro, .m, 0, none⟩,
  ⟨0x2205, 1, 0x01, 1, .u64, .ro, .m, 0, none⟩,
  ⟨0x2205, 1, 0x02, 1, .u64, .ro, .m, 0, none⟩,
  ⟨0x2205, 1, 0x03, 1, .u32, .ro, .m, 0, none⟩,
  ⟨0x2205, 1, 0x04, 1, .u8, .wo, .m, 0, (some (1, 1))⟩,
  ⟨0x2205, 1, 0x05, 1, .u64, .ro, .m, 0, none⟩,
  ⟨0x2205, 1, 0x06, 1, .u64, .ro, .m, 0, none⟩,
  ⟨0x2206, 1, 0x01, 1, .u16, .rw, .m, 1024, none⟩,
  ⟨0x2210, 16, 0x01, 16, .u16, .crit, .pp, 0, none⟩,
  ⟨0x2210, 16, 0x11, 1, .u32, .crit, .pp, 65536, none⟩,
  ⟨0x2210, 16, 0x12, 1, .u8, .crit, .pp, 1, none⟩,
  ⟨0x2220, 1, 0x01, 1, .u16, .rw, .m, 16, none⟩,
  ⟨0x2220, 1, 0x02, 1, .u64, .wo, .m, 0, (some (0, 1099511627775))⟩,
  ⟨0x2220, 1, 0x03, 1, .u16, .ro, .m, 0, none⟩,
  ⟨0x2220, 1, 0x04, 1, .u8, .ro, .m, 16, none⟩,
  ⟨0x2220, 1, 0x05, 1, .u32, .ro, .m, 0, none⟩]

/-- Entries of indices 0x23xx. -/
def dict23xx : List Ent := [
  ⟨0x2300, 1, 0x01, 1, .u8, .const, .m, 7, none⟩,
  ⟨0x2300, 1, 0x02, 1, .u16, .crit, .m, 65535, none⟩,
  ⟨0x2300, 1, 0x03, 1, .u32, .ro, .m, 0, none⟩,
  ⟨0x2300, 1, 0x04, 1, .u32, .ro, .m, 0, none⟩,
  ⟨0x2300, 1, 0x05, 1, .u32, .ro, .m, 0, none⟩,
  ⟨0x2300, 1, 0x06, 1, .u32, .rw, .m, 10000, none⟩,
  ⟨0x2300, 1, 0x07, 1, .u32, .ro, .m, 0, none⟩,
  ⟨0x2300, 1, 0x08, 1, .u8, .crit, .m, 5, none⟩,
  ⟨0x2300, 1, 0x09, 1, .u16, .rw, .m, 1000, none⟩,
  ⟨0x2300, 1, 0x0A, 1, .u32, .rw, .m, 0xf4240, none⟩,
  ⟨0x2301, 10, 0x01, 1, .u8, .ro, .m, 0, none⟩,
  ⟨0x2301, 10, 0x02, 1, .u8, .ro, .m, 0, none⟩,
  ⟨0x2301, 10, 0x03, 1, .u16, .ro, .m, 0, none⟩,
  ⟨0x2301, 10, 0x04, 1, .u8, .ro, .m, 0, none⟩,
  ⟨0x2301, 10, 0x05, 1, .u8, .ro, .m, 255, none⟩,
  ⟨0x2301, 10, 0x06, 1, .u64, .ro, .m, 0, none⟩,
  ⟨0x2301, 10, 0x07, 1, .u64, .ro, .m, 0, none⟩,
  ⟨0x2301, 10, 0x08, 1, .u64, .ro, .m, 0, none⟩,
  ⟨0x2301, 10, 0x09, 1, .u8, .ro, .m, 255, none⟩,
  ⟨0x2310, 16, 0x01, 3, .u8, .crit, .pp, 16, none⟩,
  ⟨0x2320, 1, 0x01, 3, .u8, .crit, .m, 4, none⟩,
  ⟨0x2330, 16, 0x01, 1, .u64, .rw, .pp, 0, none⟩,
  ⟨0x2330, 16, 0x02, 1, .u8, .wo, .pp, 0, (some (1, 1))⟩,
  ⟨0x2330, 16, 0x03, 1, .u8, .ro, .pp, 0, none⟩,
  ⟨0x2330, 16, 0x04, 1, .u32, .ro, .pp, 0, none⟩,
  ⟨0x2330, 16, 0x05, 1, .u16, .ro, .pp, 0, none⟩,
  ⟨0x2330, 16, 0x06, 1, .u8, .ro, .pp, 0, none⟩,
  ⟨0x2330, 16, 0x07, 1, .u8, .ro, .pp, 0, none⟩,
  ⟨0x2330, 16, 0x08, 1, .u8, .ro, .pp, 0, none⟩]

/-- Entries of indices 0x24xx. -/
def dict24xx : List Ent := [
  ⟨0x2410, 1, 0x01, 1, .u8, .rw, .p, 1, none⟩,
  ⟨0x2410, 1, 0x02, 1, .u16, .rw, .p, 32, none⟩,
  ⟨0x2410, 1, 0x03, 1, .u16, .rw, .p, 16, none⟩,
  ⟨0x2410, 1, 0x04, 1, .u16, .rw, .p, 1024, none⟩,
  ⟨0x2410, 1, 0x05, 1, .u32, .rw, .p, 8, none⟩,
  ⟨0x2410, 1, 0x06, 1, .u16, .rw, .p, 64, none⟩,
  ⟨0x2410, 1, 0x07, 1, .u8, .ro, .p, 0, none⟩,
  ⟨0x2410, 1, 0x08, 1, .u16, .ro, .p, 0, none⟩,
  ⟨0x2410, 1, 0x09, 1, .u32, .ro, .p, 0, none⟩,
  ⟨0x2411, 1, 0x01, 1, .u16, .rw, .p, 256, none⟩,
  ⟨0x2411, 1, 0x02, 1, .u16, .rw, .p, 2048, none⟩,
  ⟨0x2411, 1, 0x03, 1, .u32, .rw, .p, 0, none⟩,
  ⟨0x2411, 1, 0x04, 1, .u32, .rw, .p, 0, none⟩,
  ⟨0x2411, 1, 0x05, 1, .u32, .rw, .p, 0, none⟩,
  ⟨0x2412, 1, 0x01, 1, .u16, .rw, .p, 2048, none⟩,
  ⟨0x2412, 1, 0x02, 1, .u32, .rw, .p, 0, none⟩,
  ⟨0x2412, 1, 0x03, 1, .u32, .rw, .p, 0, none⟩,
  ⟨0x2412, 1, 0x04, 1, .u32, .rw, .p, 0, none⟩,
  ⟨0x2413, 1, 0x01, 1, .u8, .rw, .p, 0, (some (0, 1))⟩,
  ⟨0x2413, 1, 0x02, 1, .u16, .rw, .p, 64, none⟩,
  ⟨0x2413, 1, 0x03, 1, .u8, .rw, .p, 3, none⟩,
  ⟨0x2413, 1, 0x04, 1, .u32, .rw, .p, 256, none⟩,
  ⟨0x2413, 1, 0x05, 1, .u16, .rw, .p, 64, none⟩,
  ⟨0x2413, 1, 0x06, 1, .u16, .rw, .p, 1024, none⟩,
  ⟨0x2413, 1, 0x07, 1, .u16, .rw, .p, 512, none⟩,
  ⟨0x2413, 1, 0x08, 1, .u16, .rw, .p, 8192, none⟩,
  ⟨0x2413, 1, 0x09, 1, .u16, .ro, .p, 256, none⟩,
  ⟨0x2413, 1, 0x0A, 1, .u16, .ro, .p, 2048, none⟩,
  ⟨0x2414, 1, 0x01, 1, .u64, .rw, .p, 0, none⟩,
  ⟨0x2414, 1, 0x02, 1, .u32, .rw, .p, 0, none⟩,
  ⟨0x2414, 1, 0x03, 1, .u32, .ro, .p, 0, none⟩,
  ⟨0x2440, 1, 0x01, 1, .u64, .rw, .p, 0, none⟩,
  ⟨0x2440, 1, 0x02, 1, .u64, .rw, .p, 0, none⟩,
  ⟨0x2440, 1, 0x03, 1, .u64, .ro, .p, 0, none⟩,
  ⟨0x2450, 1, 0x01, 1, .f32, .rw, .p, 0x35800000, none⟩,
  ⟨0x2450, 1, 0x02, 1, .u16, .rw, .p, 64, none⟩,
  ⟨0x2450, 1, 0x03, 1, .u64, .rw, .p, 0, none⟩,
  ⟨0x2450, 1, 0x04, 1, .u32, .rw, .p, 0, none⟩,
  ⟨0x2450, 1, 0x05, 1, .u32, .ro, .p, 0, none⟩,
  ⟨0x2450, 1, 0x06, 1, .u16, .ro, .p, 0, none⟩,
  ⟨0x2450, 1, 0x07, 1, .u32, .ro, .p, 0, none⟩]

/-- Entries of indices 0x25xx. -/
def dict25xx : List Ent := [
  ⟨0x2500, 1, 0x01, 1, .u64, .ro, .m, 0, none⟩,
  ⟨0x2500, 1, 0x02, 1, .u64, .ro, .m, 0, none⟩,
  ⟨0x2500, 1, 0x03, 1, .u64, .ro, .m, 0, none⟩,
  ⟨0x2500, 1, 0x04, 1, .u64, .ro, .m, 0, none⟩,
  ⟨0x2500, 1, 0x05, 1, .u64, .ro, .m, 0, none⟩,
  ⟨0x2500, 1, 0x06, 1, .u64, .crit, .m, damaskBase, none⟩,
  ⟨0x2500, 1, 0x07, 1, .u16, .rw, .m, 64, none⟩,
  ⟨0x2500, 1, 0x08, 1, .u16, .ro, .m, 0, none⟩,
  ⟨0x2510, 16, 0x01, 1, .u8, .rw, .pp, 8, none⟩,
  ⟨0x2510, 16, 0x02, 1, .u64, .rw, .pp, 0, none⟩,
  ⟨0x2510, 16, 0x03, 1, .u64, .ro, .pp, 0, none⟩,
  ⟨0x2510, 16, 0x04, 1, .u64, .ro, .pp, 0, none⟩,
  ⟨0x2510, 16, 0x05, 1, .u32, .ro, .pp, 0, none⟩,
  ⟨0x2510, 16, 0x06, 1, .u32, .ro, .pp, 0, none⟩,
  ⟨0x2510, 16, 0x07, 1, .u64, .crit, .pp, 0, none⟩,
  ⟨0x2510, 16, 0x08, 1, .u8, .ro, .pp, 0, none⟩,
  ⟨0x2510, 16, 0x09, 1, .u64, .ro, .pp, 0, none⟩,
  ⟨0x2510, 16, 0x0A, 1, .u64, .rw, .pp, 0, none⟩,
  ⟨0x2510, 16, 0x0B, 1, .u32, .rw, .pp, 0, none⟩,
  ⟨0x2510, 16, 0x0C, 1, .u8, .wo, .pp, 0, (some (1, 1))⟩,
  ⟨0x2510, 16, 0x0D, 1, .u64, .ro, .pp, 0xffffffffffffffff, none⟩,
  ⟨0x2510, 16, 0x0E, 1, .u64, .ro, .pp, 0xffffffffffffffff, none⟩,
  ⟨0x2510, 16, 0x0F, 1, .u8, .ro, .pp, 0, none⟩,
  ⟨0x2520, 1, 0x01, 1, .u16, .ro, .m, 256, none⟩,
  ⟨0x2520, 1, 0x02, 4, .u64, .ro, .m, 0xFFFFFFFFFFFFFFFF, none⟩,
  ⟨0x2520, 1, 0x06, 1, .u8, .wo, .m, 0, (some (0, 255))⟩,
  ⟨0x2520, 1, 0x07, 1, .u16, .ro, .m, 0, none⟩,
  ⟨0x2520, 1, 0x08, 16, .u8, .ro, .m, 0, none⟩,
  ⟨0x2530, 1, 0x01, 1, .u16, .ro, .m, 65535, none⟩,
  ⟨0x2530, 1, 0x02, 1, .u32, .ro, .m, 0, none⟩,
  ⟨0x2530, 1, 0x03, 1, .u8, .ro, .m, 0, none⟩,
  ⟨0x2530, 1, 0x04, 1, .u8, .ro, .m, 0, none⟩,
  ⟨0x2530, 1, 0x05, 1, .u32, .ro, .m, 0, none⟩,
  ⟨0x2542, 1, 0x01, 1, .u32, .ro, .m, 0, none⟩,
  ⟨0x2542, 1, 0x02, 1, .u8, .wo, .m, 0, (some (1, 1))⟩,
  ⟨0x2542, 1, 0x03, 1, .u32, .ro, .m, 0, none⟩]

/-- Entries of indices 0x26xx. -/
def dict26xx : List Ent := [
  ⟨0x2600, 1, 0x01, 1, .u8, .rw, .m, 255, (some (0, 255))⟩,
  ⟨0x2600, 1, 0x02, 1, .u8, .crit, .m, 255, none⟩,
  ⟨0x2600, 1, 0x03, 1, .u32, .ro, .m, 0, none⟩,
  ⟨0x2600, 1, 0x04, 1, .u32, .ro, .m, 0, none⟩,
  ⟨0x2600, 1, 0x05, 1, .u32, .ro, .m, 0, none⟩,
  ⟨0x2600, 1, 0x06, 1, .u16, .ro, .m, 0, none⟩,
  ⟨0x2610, 16, 0x01, 1, .u8, .ro, .pp, 0, none⟩,
  ⟨0x2610, 16, 0x02, 1, .u64, .rw, .pp, 0, none⟩,
  ⟨0x2610, 16, 0x03, 4, .u64, .crit, .pp, 0, none⟩,
  ⟨0x2610, 16, 0x07, 4, .u64, .crit, .pp, 0, none⟩,
  ⟨0x2610, 16, 0x0B, 1, .u8, .crit, .pp, 0, none⟩,
  ⟨0x2610, 16, 0x0C, 1, .u16, .ro, .pp, 0, none⟩,
  ⟨0x2620, 16, 0x01, 16, .u64, .crit, .pp, 0, none⟩,
  ⟨0x2640, 16, 0x01, 1, .u64, .rw, .pp, 0, none⟩,
  ⟨0x2640, 16, 0x02, 1, .u8, .wo, .pp, 0, (some (1, 1))⟩,
  ⟨0x2640, 16, 0x03, 1, .u8, .ro, .pp, 0, none⟩,
  ⟨0x2640, 16, 0x04, 1, .u8, .ro, .pp, 0, none⟩,
  ⟨0x2640, 16, 0x05, 1, .u64, .rw, .pp, 0, none⟩,
  ⟨0x2640, 16, 0x06, 1, .u64, .ro, .pp, 0, none⟩,
  ⟨0x2640, 16, 0x07, 1, .u32, .rw, .pp, 2000, none⟩,
  ⟨0x2640, 16, 0x08, 1, .u16, .ro, .pp, 65535, none⟩,
  ⟨0x2640, 16, 0x09, 1, .u32, .ro, .pp, 0xffffffff, none⟩,
  ⟨0x2640, 16, 0x0A, 1, .u64, .ro, .pp, 0, none⟩,
  ⟨0x2640, 16, 0x0B, 1, .u32, .ro, .pp, 0, none⟩,
  ⟨0x2640, 16, 0x0C, 1, .u32, .ro, .pp, 0, none⟩,
  ⟨0x2640, 16, 0x0D, 1, .u16, .ro, .pp, 0, none⟩,
  ⟨0x2640, 16, 0x0E, 1, .u64, .ro, .pp, 0, none⟩,
  ⟨0x2640, 16, 0x0F, 1, .u64, .ro, .pp, 0, none⟩]

/-- Entries of indices 0x27xx. -/
def dict27xx : List Ent := [
  ⟨0x2710, 1, 0x01, 8, .u64, .ro, .p, 0, none⟩,
  ⟨0x2710, 1, 0x09, 1, .u64, .ro, .p, 0, none⟩,
  ⟨0x2711, 1, 0x01, 1, .u64, .rw, .p, 0, none⟩,
  ⟨0x2711, 1, 0x02, 1, .u32, .rw, .p, 0, none⟩,
  ⟨0x2711, 1, 0x03, 1, .u8, .rw, .p, 0, (some (0, 1))⟩,
  ⟨0x2711, 1, 0x04, 1, .u32, .ro, .p, 0, none⟩]

/-- Entries of indices 0x28xx. -/
def dict28xx : List Ent := [
  ⟨0x2800, 1, 0x01, 1, .u8, .ro, .m, 0, none⟩,
  ⟨0x2800, 1, 0x02, 1, .u8, .fuse, .m, 0, none⟩,
  ⟨0x2800, 1, 0x03, 1, .u32, .fuse, .m, 0, none⟩,
  ⟨0x2800, 1, 0x04, 6, .u64, .fuse, .m, 0, none⟩,
  ⟨0x2800, 1, 0x0A, 6, .u64, .fuse, .m, 0, none⟩,
  ⟨0x2800, 1, 0x10, 1, .u8, .fuse, .m, 0, none⟩,
  ⟨0x2800, 1, 0x11, 1, .u32, .ro, .m, 0, none⟩]

/-- Entries of indices 0x29xx. -/
def dict29xx : List Ent := [
  ⟨0x2900, 16, 0x01, 1, .u16, .rw, .pp, 1, none⟩,
  ⟨0x2900, 16, 0x02, 1, .u32, .rw, .pp, 5000, none⟩,
  ⟨0x2900, 16, 0x03, 1, .u64, .rw, .pp, 0, none⟩,
  ⟨0x2900, 16, 0x04, 1, .u32, .rw, .pp, 0, none⟩,
  ⟨0x2900, 16, 0x05, 1, .u64, .ro, .pp, 0, none⟩,
  ⟨0x2900, 16, 0x06, 1, .u64, .ro, .pp, 0, none⟩,
  ⟨0x2900, 16, 0x07, 1, .u32, .ro, .pp, 0, none⟩,
  ⟨0x2900, 16, 0x08, 1, .u32, .ro, .pp, 0, none⟩,
  ⟨0x2900, 16, 0x09, 1, .u32, .ro, .pp, 0, none⟩,
  ⟨0x2900, 16, 0x0A, 1, .u32, .ro, .pp, 0, none⟩]

/-- Entries of indices 0x2Axx. -/
def dict2Axx : List Ent := [
  ⟨0x2A00, 1, 0x01, 1, .u8, .const, .m, 7, none⟩,
  ⟨0x2A00, 1, 0x02, 1, .u8, .ro, .m, 0, none⟩,
  ⟨0x2A00, 1, 0x03, 1, .u8, .ro, .m, 0, none⟩,
  ⟨0x2A00, 1, 0x04, 1, .u8, .ro, .m, 0, none⟩,
  ⟨0x2A00, 1, 0x05, 1, .u64, .ro, .m, 0, none⟩,
  ⟨0x2A00, 1, 0x06, 1, .u64, .ro, .m, 0, none⟩,
  ⟨0x2A00, 1, 0x07, 1, .u32, .ro, .m, 0, none⟩,
  ⟨0x2A00, 1, 0x08, 1, .u16, .rw, .m, 1000, none⟩,
  ⟨0x2A00, 1, 0x09, 1, .u16, .crit, .m, 0, none⟩,
  ⟨0x2A00, 1, 0x0A, 1, .u16, .rw, .m, 2, none⟩,
  ⟨0x2A00, 1, 0x0B, 1, .u32, .ro, .m, 0, none⟩,
  ⟨0x2A10, 64, 0x01, 1, .u64, .crit, .m, 0, none⟩,
  ⟨0x2A10, 64, 0x02, 1, .u32, .crit, .m, 0, none⟩,
  ⟨0x2A10, 64, 0x03, 1, .u16, .crit, .m, 0, none⟩,
  ⟨0x2A10, 64, 0x04, 1, .u64, .crit, .m, 0, none⟩,
  ⟨0x2A10, 64, 0x05, 1, .u32, .crit, .m, 0, none⟩,
  ⟨0x2A60, 16, 0x01, 1, .u64, .ro, .pp, 0, none⟩,
  ⟨0x2A60, 16, 0x02, 1, .u32, .ro, .pp, 0, none⟩,
  ⟨0x2A60, 16, 0x03, 1, .u32, .ro, .pp, 0, none⟩]

/-- The whole table. -/
def dictTable : List (List Ent) :=
  [dict10xx, dict20xx, dict21xx, dict22xx, dict23xx, dict24xx, dict25xx, dict26xx, dict27xx, dict28xx, dict29xx, dict2Axx]

def entIn (l : List Ent) (idx sub : Nat) : Option Ent :=
  l.find? (fun e => decide (e.lo ≤ idx ∧ idx < e.lo + e.n ∧ e.sub ≤ sub ∧ sub < e.sub + e.k))

/-- The row of an entry, found through the block of its index. -/
def entOf (idx sub : Nat) : Option Ent :=
  let h := idx / 256
  let blk := if h = 0x10 then dict10xx else if h = 0x2A then dict2Axx else dictTable.getD (h - 0x20 + 1) []
  entIn blk idx sub

/-- Highest subindex in use of an index with table entries (R358). -/
def entMaxSub (idx : Nat) : Option Nat :=
  let l := dictTable.flatten.filter (fun e => decide (e.lo ≤ idx ∧ idx < e.lo + e.n))
  if l.isEmpty then none else some (l.foldl (fun a e => Nat.max a (e.sub + e.k - 1)) 0)

/-- A row of an index with table entries: it gives the scope of subindex 0. -/
def indexRow (idx : Nat) : Option Ent := dictTable.flatten.find? (fun e => decide (e.lo ≤ idx ∧ idx < e.lo + e.n))

/-- Entries that report sensors and have no default (Table 15-9, log entry 4). -/
def isSensor (idx sub : Nat) : Bool :=
  (idx = 0x2100 && 3 ≤ sub && sub ≤ 6) || idx = 0x2120 || idx = 0x2130 || idx = 0x2140

/-- Value an entry holds before anything writes it. -/
def dictDflt (key : Nat) : W64 :=
  let sub := key % 256
  let idx := key / 256 % 65536
  if isSensor idx sub then BitVec.ofNat 64 ((Config.sensor (key % 2 ^ 24)).toNat % 2 ^ 16)
  else match entOf idx sub with
    | some e => e.dflt
    | none => 0

/-- Keys of an entry: of module scope or partition-indexed, and of partition scope. -/
def dk (idx sub : Nat) : Nat := idx * 256 + sub
def dkp (p : PartId) (idx sub : Nat) : Nat := ((p.val + 1) * 65536 + idx) * 256 + sub
/-- Entry of a partition-indexed block. -/
def dkx (base : Nat) (p : PartId) (sub : Nat) : Nat := dk (base + p.val) sub

/-- Current value of an entry. -/
def State.d (s : State) (key : Nat) : W64 := SMap.get dictDflt s.dict key
def State.dN (s : State) (key : Nat) : Nat := (s.d key).toNat

/-- Width in bits of the entry a key names. -/
def keyWidth (key : Nat) : Nat :=
  match entOf (key / 256 % 65536) (key % 256) with
  | some e => 8 * e.ty.bytes
  | none => 64

/-- Give an entry a value, cut to its type. -/
def State.setD (s : State) (key : Nat) (v : W64) : State :=
  { s with dict := SMap.set dictDflt s.dict key (BitVec.ofNat 64 (v.toNat % 2 ^ keyWidth key)) }
def State.setDN (s : State) (key : Nat) (v : Nat) : State := s.setD key (BitVec.ofNat 64 v)

/-- Add to a counter, wrapping at its width. -/
def State.addD (s : State) (key : Nat) (n : Nat) : State := s.setDN key (s.dN key + n)
def State.incD (s : State) (key : Nat) : State := s.addD key 1

/-- The value in force, for entries that take effect at a local close (R127, R204, R360). -/
def State.df (s : State) (key : Nat) : W64 := SMap.get dictDflt s.dictForce key
def State.dfN (s : State) (key : Nat) : Nat := (s.df key).toNat
def State.setDf (s : State) (key : Nat) (v : W64) : State :=
  { s with dictForce := SMap.set dictDflt s.dictForce key v }

/-- The stored complement of a crit entry (R325, R357). -/
def State.dNot (s : State) (key : Nat) : W64 := SMap.get (fun k => ~~~(dictDflt k)) s.dictN key

/-- Write a crit entry, both halves (R325). -/
def State.setCrit (s : State) (key : Nat) (v : W64) : State :=
  let w := BitVec.ofNat 64 (v.toNat % 2 ^ keyWidth key)
  { s with
    dict := SMap.set dictDflt s.dict key w
    dictN := SMap.set (fun k => ~~~(dictDflt k)) s.dictN key (~~~w) }

/-- The pair of a crit entry agrees. -/
def State.critOk (s : State) (key : Nat) : Bool := s.dNot key == ~~~(s.d key)

end Sys2Proof.Machine
end

