-- ==== Sys2Proof/Machine/Ops.lean ====
section
/-!
DEFINITION. Named operations on memory: bytes, unit states and block headers of DRAM and core memory, the DRAM error log, checked
reads and merges (R205 to R223, R309 to R313); fabric addresses and the partition check (R15 to R19, R178, R206).
-/
namespace Sys2Proof.Machine

/-! ## Fabric addresses (R15, R16) -/

def aDev (a : W64) : W16 := fld a 48 16
def aSpace (a : W64) : Nat := fldN a 44 4
def aRsvd (a : W64) : Nat := fldN a 40 4
def aOff (a : W64) : Nat := fldN a 0 40

/-- The module's own device ID (R234). -/
def ownDevKey : Nat := dk 0x2300 2
def State.ownDev (s : State) : W16 := (s.d ownDevKey).setWidth 16

/-- The address names this module: DEVID 0xFFFE or the own ID (R18, R234). -/
def State.isOwn (s : State) (a : W64) : Bool := aDev a == 0xFFFE || (aDev a == s.ownDev && s.ownDev != 0xFFFF)

/-- Bits of OFFSET a space uses (R16); none for a reserved space. -/
def spaceBits : Nat → Option Nat
  | 0 => some 40
  | 1 => some 30
  | 2 => some 23
  | 3 => some 27
  | 4 => some 30
  | _ => none

/-- Space, reserved bits and offset range are as R16 and R17 require, for `len` bytes. -/
def addrForm (a : W64) (len : Nat) : Bool :=
  match spaceBits (aSpace a) with
  | some b => aRsvd a == 0 && decide (aOff a + len ≤ 2 ^ b)
  | none => false

/-- Memory key of an address in SPACE 0 or 1. -/
def mkey (space off : Nat) : Nat := space * 2 ^ 40 + off
def aKey (a : W64) : Nat := mkey (aSpace a) (aOff a)
/-- Address of the own module from a key. -/
def keyAddr (k : Nat) : W64 := BitVec.ofNat 64 (0xFFFE * 2 ^ 48 + k / 2 ^ 40 * 2 ^ 44 + k % 2 ^ 40)

/-- The fabric address of a place in this module as a fault record names it: under the own ID once there is one (Table 13-3, R18). -/
def State.faultAddr (s : State) (k : Nat) : W64 :=
  if s.ownDev = 0xFFFF then keyAddr k else s.ownDev ++ (keyAddr k).extractLsb' 0 48
/-- Key of a byte of a core's memory. -/
def ckey (c : CoreId) (off : Nat) : Nat := mkey 1 (c.val * 2 ^ 22 + off)
/-- Own-module address of a byte of a core's memory. -/
def coreAddr (c : CoreId) (off : Nat) : W64 := keyAddr (ckey c off)

/-! ## Partition table (R178, R206, R374) -/

/-- The partition is configured: its PSTATE is not 0. -/
def State.configured (s : State) (p : PartId) : Bool := (s.d (dk 0x2600 6)).getLsbD p.val

/-- Region r of a stack belongs to the partition (R206). -/
def State.ownsRegion (s : State) (p : PartId) (stack r : Nat) : Bool :=
  s.configured p && (s.d (dkx 0x2620 p (stack + 1))).getLsbD r

/-- Start of a core's filler area (R178). -/
def State.areaSplit (s : State) (c : CoreId) : Nat := 0x400000 - (s.core c).fsize * 0x10000

/-- The partition a context belongs to. -/
def State.partOfCtx (s : State) (c : CoreId) (x : CtxId) : Option PartId := (s.ctx c x).part

/-- The context of a core whose area holds an offset of core memory. -/
def State.areaCtx (s : State) (c : CoreId) (off : Nat) : CtxId := if off < s.areaSplit c then .primary else .filler

/-! ## Spares and the offer (R8, R9, R330) -/

/-- SPARE_STATE of a district: bits [5:4] 0 idle, 1 in service, 2 quarantined; [3:0] the core replaced. -/
def State.spareOf (s : State) (d : Nat) : BitVec 6 := SMap.get (fun _ => 0) s.spares d
def State.setSpare (s : State) (d : Nat) (v : BitVec 6) : State := { s with spares := SMap.set (fun _ => 0) s.spares d v }

/-- Physical core n below 256 is the core that first had ID n, and 256 + D the spare of district D. -/
def physOf (n : Nat) : Fin 272 := ⟨n % 272, Nat.mod_lt _ (by decide)⟩

/-- The physical core that serves a core ID. -/
def State.physical (s : State) (c : CoreId) : Fin 272 :=
  let sp := s.spareOf (districtOf c)
  if fldN sp 4 2 = 1 ∧ fldN sp 0 4 = c.val % 16 then physOf (256 + districtOf c) else physOf c.val

/-- A core ID answers requests: it has not been withdrawn, and the core that serves it passed its self-test (R330, R416). -/
def State.offered (s : State) (c : CoreId) : Bool := !(s.withdrawn.contains c) && !(s.selfFail.contains (s.physical c))

/-- Bytes [off, off + len) of one core belong to areas of the partition. -/
def State.coreRangeOwned (s : State) (p : PartId) (c : CoreId) (off len : Nat) : Bool :=
  let sp := s.areaSplit c
  (decide (sp ≤ off) || s.partOfCtx c .primary == some p) &&
    (decide (off + len ≤ sp) || s.partOfCtx c .filler == some p)

/-- First object of the filler context's part of a core's objects (R289). -/
def State.objSplit (s : State) (c : CoreId) : Nat := 4096 - 64 * (s.core c).fsize

/-- Home context of an object (R289). -/
def State.objCtx (s : State) (c : CoreId) (k : Nat) : CtxId := if k < s.objSplit c then .primary else .filler

/-- Outcome of the checks a request meets at its target (R17, R19); `bad` is a partition table that does not match its complement (R325
kind 0x01). -/
inductive Chk where
  | ok
  | addr
  | part
  | bad
  deriving DecidableEq, Repr

/-- Cores a range of SPACE 0x1 touches. -/
def coresOf (off len : Nat) : List CoreId :=
  (List.range ((off + len - 1) / 2 ^ 22 - off / 2 ^ 22 + 1)).map (fun i => coreOf (off / 2 ^ 22 + i))

/-- The part of a core's memory a range touches. -/
def coreSpan (off len : Nat) (c : CoreId) : Nat × Nat :=
  let lo := Nat.max off (c.val * 2 ^ 22)
  let hi := Nat.min (off + len) ((c.val + 1) * 2 ^ 22)
  (lo - c.val * 2 ^ 22, hi - lo)

/-- The partition check of R19 for `len` bytes of SPACE 0x0 to 0x2. -/
def State.ownsRange (s : State) (p : PartId) (space off len : Nat) : Bool :=
  match space with
  | 0 =>
    (List.range ((off + len - 1) / 2 ^ 30 - off / 2 ^ 30 + 1)).all (fun i =>
      let g := off / 2 ^ 30 + i
      s.ownsRegion p (g / 64) (g % 64))
  | 1 => (coresOf off len).all (fun c => let r := coreSpan off len c; s.coreRangeOwned p c r.1 r.2)
  | 2 =>
    let c := coreOf (off / 2 ^ 15)
    s.partOfCtx c (s.objCtx c (off % 2 ^ 15 / 8)) == some p
  | _ => true

/-- No core the range names is withdrawn (R330). -/
def State.coresOffered (s : State) (space off len : Nat) : Bool :=
  match space with
  | 1 => (coresOf off len).all (fun c => s.offered c)
  | 2 => s.offered (coreOf (off / 2 ^ 15))
  | 4 => s.offered (coreOf (off / 2 ^ 22))
  | _ => true

/-- The words of the partition table that a range uses match their complements (R325 kind 0x01). -/
def State.tableSound (s : State) (p : PartId) (space off len : Nat) : Bool :=
  decide (space ≠ 0) || (List.range ((off + len - 1) / 2 ^ 36 - off / 2 ^ 36 + 1)).all (fun i => s.critOk (dkx 0x2620 p (off / 2 ^ 36 + i + 1)))

/-- Checks of R17 and R19 on a request for `len` bytes. -/
def State.check (s : State) (p : PartId) (a : W64) (len : Nat) : Chk :=
  if !addrForm a len || !s.coresOffered (aSpace a) (aOff a) len then .addr
  else if !s.tableSound p (aSpace a) (aOff a) len then .bad
  else if s.ownsRange p (aSpace a) (aOff a) len then .ok else .part

/-- The address form lies in SPACE 0x0 or 0x1 of this module. -/
def State.ownMem (s : State) (a : W64) (len : Nat) : Bool :=
  s.isOwn a && decide (aSpace a ≤ 1) && addrForm a len

/-! ## Bytes -/

/-- Pattern of a stack's last bulk fill (R220). -/
def Mem.fillOf (m : Mem) (stack : Nat) : Option W64 := SMap.get (fun _ => none) m.fill stack

/-- What an unlisted byte reads as: zero in core memory (R208), the bulk fill's pattern in a filled stack (R220), and a free
value in a stack nothing has filled (log entry 2). -/
def Mem.dflt (m : Mem) (k : Nat) : Byte :=
  if 2 ^ 40 ≤ k then 0
  else match m.fillOf (k / 2 ^ 36) with
    | some p => p.extractLsb' (8 * (k % 8)) 8
    | none => Config.dramPowerUp k

/-- State of a unit nothing has written: raw in a stack nothing has filled. -/
def Mem.unitDflt (m : Mem) (u : Nat) : UnitSt :=
  if 2 ^ 34 ≤ u then .clean
  else match m.fillOf (u / 2 ^ 30) with
    | some _ => .clean
    | none => .raw

def Mem.byte (m : Mem) (k : Nat) : Byte := SMap.get m.dflt m.cells k
def Mem.bytes (m : Mem) (k n : Nat) : List Byte := SMap.range m.dflt m.cells k n
def Mem.unit (m : Mem) (u : Nat) : UnitSt := SMap.get m.unitDflt m.units u
def Mem.header (m : Mem) (b : Nat) : W64 := SMap.get (fun _ => 0) m.headers b
def Mem.put (m : Mem) (k : Nat) (l : List Byte) : Mem := { m with cells := SMap.setRange m.dflt m.cells k l }
def Mem.setUnits (m : Mem) (u : Nat) (l : List UnitSt) : Mem := { m with units := SMap.setRange m.unitDflt m.units u l }
def Mem.setHeader (m : Mem) (b : Nat) (h : W64) : Mem := { m with headers := SMap.set (fun _ => 0) m.headers b h }

/-- The canonical form of memory. -/
def Mem.wf (m : Mem) : Bool :=
  SMap.wf m.dflt m.cells && SMap.wf m.unitDflt m.units && SMap.wf (fun _ => 0) m.headers && SMap.wf (fun _ => none) m.fill

/-- Bulk fill of a stack: every burst holds the pattern, clean, and every block is unchecked (R220, R309). -/
def Mem.fillStack (m : Mem) (stack : Nat) (p : W64) : Mem :=
  { cells := m.cells.filter (fun e => decide (e.1 / 2 ^ 36 ≠ stack))
    units := m.units.filter (fun e => decide (e.1 / 2 ^ 30 ≠ stack))
    headers := m.headers.filter (fun e => decide (e.1 / 2 ^ 24 ≠ stack))
    fill := SMap.set (fun _ => none) m.fill stack (some p) }

/-- Power is lost: DRAM holds arbitrary contents again (R220, R409). -/
def Mem.powerLoss (_ : Mem) : Mem := Mem.reset

/-- Core memory of a core written with zeros, clean (R208); its headers clear. -/
def Mem.zeroCore (m : Mem) (c : CoreId) : Mem :=
  let lo := ckey c 0
  { m with
    cells := m.cells.filter (fun e => decide (e.1 / 2 ^ 22 ≠ lo / 2 ^ 22))
    units := m.units.filter (fun e => decide (e.1 / 2 ^ 16 ≠ lo / 2 ^ 22))
    headers := m.headers.filter (fun e => decide (e.1 / 2 ^ 10 ≠ lo / 2 ^ 22)) }

/-! ## DRAM error log (R222) -/

def modTimeKey : Nat := dk 0x2000 0x0C
def State.now (s : State) : W64 := s.d modTimeKey

def logGet (st : Stack) (n : Nat) : Option LogEntry := SMap.get (fun _ => none) st.log n
def logPut (st : Stack) (n : Nat) (e : LogEntry) : Stack := { st with log := SMap.set (fun _ => none) st.log n (some e) }

/-- Enter a CE or UE in a stack's log; true when it could not be entered. -/
def logEnter (st : Stack) (e : LogEntry) : Stack × Bool :=
  let same := (List.range 64).find? (fun n => match logGet st n with
    | some x => x.unit == e.unit && x.ue == e.ue
    | none => false)
  match same with
  | some n =>
    match logGet st n with
    | some x => (logPut st n { e with count := if x.count = 0xFFFF then 0xFFFF else x.count + 1 }, false)
    | none => (st, false)
  | none =>
    match (List.range 64).find? (fun n => (logGet st n).isNone) with
    | some n => (logPut st n e, false)
    | none =>
      if !e.ue then (st, true)
      else
        let ces := (List.range 64).filterMap (fun n => match logGet st n with
          | some x => if x.ue then none else some (x.time.toNat, n)
          | none => none)
        match ces with
        | [] => (st, true)
        | c :: t =>
          let oldest := t.foldl (fun a b => if b.1 < a.1 then b else a) c
          (logPut st oldest.2 e, false)

def stackOf (u : Nat) : District := ⟨u / 2 ^ 30 % 16, Nat.mod_lt _ (by decide)⟩

/-! ## Rows and their repair (R205, R223, R331) -/

/-- XOR of the five-bit slices of a granule index (R205). -/
def foldG (g : Nat) : Nat :=
  (List.range 6).foldl (fun a i => a ^^^ (g / 2 ^ (5 * i) % 32)) 0

/-- Channel, bank and row of a burst (R205). -/
def rowOfUnit (u : Nat) : RowAddr :=
  let g := u % 2 ^ 30 / 8
  let h := g / 32
  ⟨foldG g, (h / 4 % 32) ^^^ (h / 128 % 32), h / 128⟩

/-- Bursts of a row, by their place in the stack. -/
def unitsOfRow (r : RowAddr) : List Nat :=
  (List.range 32).map (fun i =>
    let h := r.row * 128 + ((r.bank ^^^ (r.row % 32)) * 4) + i / 8
    (h * 32 + (r.chan ^^^ foldG (h * 32)) % 32) * 8 + i % 8)

/-- Spare rows that a channel has used. -/
def sparesUsed (st : Stack) (chan : Nat) : Nat := SMap.get (fun _ => 0) st.spares chan

/-- Mark a stack in STACK_DEGRADED (R331). The telemetry event leaves at the next tick (State.tellStacks). -/
def State.degrade (s : State) (d : District) : State :=
  let v := s.dN (dk 0x2500 8)
  if v / 2 ^ d.val % 2 = 1 then s else s.setDN (dk 0x2500 8) (v + 2 ^ d.val)

/-- A row is nominated for repair: once, while the list has room and the channel a spare row. -/
def State.nominateRow (s : State) (d : District) (r : RowAddr) : State :=
  let st := s.stack d
  if st.repairs.contains r then s
  else if 16 ≤ sparesUsed st r.chan then (s.incD (dk 0x2220 5)).degrade d
  else if 64 ≤ st.repairs.length then s.incD (dk 0x2220 5)
  else s.setStack d { st with repairs := st.repairs ++ [r] }

/-- A day, in ns. -/
def dayNs : Nat := 86400000000000

/-- UEs of the last 24 hours against STACK_UE_LIMIT (R331). -/
def State.countUe (s : State) (d : District) : State :=
  let st := s.stack d
  let ts := st.ueTimes.filter (fun t => decide (s.now.toNat < t.toNat + dayNs)) ++ [s.now]
  let s := s.setStack d { st with ueTimes := ts }
  if s.dN (dk 0x2500 7) < ts.length then s.degrade d else s

/-- CEs of a row since the scrub pass began against ROW_CE_LIMIT (R223): the row is nominated once in a pass, by the first CE at which its
count is at the limit or above. -/
def State.countCe (s : State) (u : Nat) : State :=
  let d := stackOf u
  let st := s.stack d
  let r := rowOfUnit u
  let old := ((st.passCe.find? (fun e => e.1 == r)).map (·.2)).getD (0, false)
  let n := old.1 + 1
  let hit := !old.2 && decide (s.dN (dk 0x2220 1) ≤ n)
  let s := s.setStack d { st with passCe := st.passCe.filter (fun e => e.1 != r) ++ [(r, n, old.2 || hit)] }
  if hit then s.nominateRow d r else s

/-- Log a CE or UE of a DRAM burst and count it (R222). -/
def State.logDram (s : State) (u : Nat) (ue : Bool) (src : BitVec 2) (pos mask : Byte) : State :=
  let t := BitVec.ofNat 64 (s.now.toNat / 1000 % 2 ^ 48)
  let e : LogEntry := ⟨t, 1, if ue then 0xFF else pos, if ue then 0 else mask, ue, src, u⟩
  let (st, dropped) := logEnter (s.stack (stackOf u)) e
  let s := s.setStack (stackOf u) st
  let s := s.incD (dk 0x2205 (if ue then 2 else 1))
  let s := if dropped then s.incD (dk 0x2205 3) else s
  if ue then s.countUe (stackOf u) else s.countCe u

/-! ## Reading and writing units -/

/-- Outcome of decoding a burst nothing has written (log entry 2). -/
def rawOutcome (u : Nat) : RsOut :=
  match Config.dramPowerUpOutcome u with
  | 0 => .clean
  | 1 => .poisoned
  | 2 => .ce ⟨(Config.dramPowerUpSymbol u).1 % 72, Nat.mod_lt _ (by decide)⟩ (Config.dramPowerUpSymbol u).2 false
  | 3 => .ce ⟨(Config.dramPowerUpSymbol u).1 % 72, Nat.mod_lt _ (by decide)⟩ (Config.dramPowerUpSymbol u).2 true
  | _ => .ue

/-- Set the stored state of one unit. -/
def State.setUnit (s : State) (u : Nat) (x : UnitSt) : State := { s with mem := s.mem.setUnits u [x] }

/-- What a read does to the unit besides delivering its bytes, for a decoded outcome: CEs are logged, a UE is logged and the burst
rewritten in poisoned form (R216, R217). The flag is the poison delivered. -/
def State.decodeUnit (s : State) (u : Nat) (o : RsOut) (src : BitVec 2) : State × Bool :=
  match o with
  | .clean => (s, false)
  | .poisoned => (s, true)
  | .ce k m p => (s.logDram u false src (BitVec.ofNat 8 k.val) m, p)
  | .ue => ((s.logDram u true src 0 0).setUnit u .poisoned, true)

/-- Read a unit: the poison it delivers, and the state after. -/
def State.touch (s : State) (u : Nat) (src : BitVec 2) : State × Bool :=
  match s.mem.unit u with
  | .clean => (s, false)
  | .poisoned => (s, true)
  | .raw => s.decodeUnit u (rawOutcome u) src

/-- Units that `n` bytes from `k` touch. -/
def unitsOf (k n : Nat) : List Nat := (List.range ((k + n - 1) / 64 - k / 64 + 1)).map (fun i => k / 64 + i)

def State.touchAll (s : State) (us : List Nat) (src : BitVec 2) : State × List Bool :=
  us.foldl (fun (acc : State × List Bool) u => let (s', p) := acc.1.touch u src; (s', acc.2 ++ [p])) (s, [])

/-- Touch the units of a range; ranges in which nothing is raw or poisoned take the short way. -/
def State.touchRange (s : State) (k n : Nat) (src : BitVec 2) : State × List Bool :=
  let us := SMap.range s.mem.unitDflt s.mem.units (k / 64) ((k + n - 1) / 64 - k / 64 + 1)
  if us.all (· == .clean) then (s, us.map (fun _ => false)) else s.touchAll (unitsOf k n) src

/-- Read `n` bytes: the bytes, and the poison of each unit touched (R217, R219). -/
def State.readMem (s : State) (k n : Nat) : State × List Byte × List Bool :=
  if n = 0 then (s, [], [])
  else
    let (s, ps) := s.touchRange k n 0
    (s, s.mem.bytes k n, ps)

/-- Write bytes with a poison flag per unit touched. A unit written in part is a read-modify-write: it stays poisoned, or becomes so
when it decodes as a UE (R207, R218). -/
def State.writeMem (s : State) (k : Nat) (l : List Byte) (ps : List Bool) : State :=
  if l.isEmpty then s
  else
    let n := l.length
    let headPart := k % 64 ≠ 0 ∨ n < 64
    let tailPart := (k + n) % 64 ≠ 0
    let u0 := k / 64
    let u1 := (k + n - 1) / 64
    let (s, p0) := if headPart then s.touch u0 2 else (s, false)
    let (s, p1) := if tailPart ∧ u1 ≠ u0 then s.touch u1 2 else (s, false)
    let st := (List.range (u1 - u0 + 1)).map (fun i =>
      let p := ps.getD i false || (i == 0 && p0) || (i == u1 - u0 && p1)
      if p then UnitSt.poisoned else UnitSt.clean)
    { s with mem := (s.mem.put k l).setUnits u0 st }

/-- Write clean bytes. -/
def State.writeClean (s : State) (k : Nat) (l : List Byte) : State := s.writeMem k l []

/-! ## Upsets in core memory (R207, R329) -/

/-- A core is nominated, once. -/
def State.nominate (s : State) (n : Fin 272) : State :=
  if s.quar.contains n then s
  else { s with quar := s.quar ++ [n] }.setDN (dk 0x2520 7) (s.quar.length + 1)

/-- Flip bit `n` of a word's 72-bit code word in its stored bytes; check bits are bits 64 to 71. -/
def flipBit (n : Nat) (l : List Byte) : List Byte :=
  if n < 64 then l.set (n / 8) (l.getD (n / 8) 0 ^^^ (1 <<< (n % 8))) else l

/-- A read of a unit of core memory finds flipped bits (R207, R329): each entry is a word of the unit with the one or two bits of its code
word. One bit is corrected and counted in SRAM_CE. Two are counted in SRAM_UE, poison the unit, nominate the core, and stay in the data,
which is delivered as read. -/
def State.sramFlips (s : State) (core : CoreId) (u : Nat) (flips : List (Fin 8 × Byte × Byte)) : State :=
  let bad := flips.filter (fun f => f.2.1 != f.2.2)
  let s := s.addD (dk 0x2205 5) (flips.length - bad.length)
  if bad.isEmpty then s
  else
    let s := s.addD (dk 0x2205 6) bad.length
    let mem := bad.foldl (fun m f =>
      let a := 64 * u + 8 * f.1.val
      m.put a (flipBit f.2.2.toNat (flipBit f.2.1.toNat (m.bytes a 8)))) s.mem
    ({ s with mem := mem.setUnits u [.poisoned] }).nominate (s.physical core)

/-! ## Block headers (R309 to R312) -/

def hdrValid (h : W64) : Bool := bitAt h 32

/-- A header over these bytes: kind 0 core, 1 collective engine, 2 management complex, 3 merge. -/
def mkHeader (dev : W16) (unit : Nat) (kind : Nat) (check : W32) : W64 :=
  BitVec.ofNat 64 (dev.toNat * 2 ^ 48 + unit % 256 * 2 ^ 40 + kind % 4 * 2 ^ 38 + 2 ^ 32 + check.toNat)

/-- Blocks that `n` bytes from `k` touch. -/
def blocksOf (k n : Nat) : List Nat :=
  if n = 0 then [] else (List.range ((k + n - 1) / 4096 - k / 4096 + 1)).map (fun i => k / 4096 + i)

/-- A unit that forms headers: PKIND and PUNIT (Table 13-1). -/
structure Former where
  kind : Nat
  unit : Nat
  deriving DecidableEq, Repr

def Former.mgmt : Former := ⟨2, 0⟩
def Former.core (c : CoreId) : Former := ⟨0, c.val⟩

/-- A merge of one block: the whole block is read, and its check formed over the bytes as read (R310). -/
def State.mergeBlock (s : State) (f : Former) (b : Nat) : State :=
  let (s, _) := s.touchRange (b * 4096) 4096 2
  let h := mkHeader s.ownDev f.unit 3 (crc32c (s.mem.bytes (b * 4096) 4096))
  ({ s with mem := s.mem.setHeader b h }).incD (dk 0x2500 5)

def State.merges (s : State) (f : Former) (k n : Nat) : State := (blocksOf k n).foldl (fun s b => s.mergeBlock f b) s

/-- A result written by an engine: whole blocks take fresh headers, others a merge (R310). -/
def State.freshHeaders (s : State) (f : Former) (k n : Nat) : State :=
  (blocksOf k n).foldl (fun s b =>
    if k ≤ b * 4096 ∧ (b + 1) * 4096 ≤ k + n then
      { s with mem := s.mem.setHeader b (mkHeader s.ownDev f.unit f.kind (crc32c (s.mem.bytes (b * 4096) 4096))) }
    else s.mergeBlock f b) s

/-- Bytes of a block that disjoint ranges cover. -/
def coveredBytes (rs : List (Nat × Nat)) (b : Nat) : Nat :=
  rs.foldl (fun a r => a + (Nat.min (r.1 + r.2) (b * 4096 + 4096) - Nat.max r.1 (b * 4096))) 0

/-- A result written in several ranges (R310): a block that they cover takes a fresh header, any other a merge. -/
def State.freshRanges (s : State) (f : Former) (rs : List (Nat × Nat)) : State :=
  ((rs.flatMap (fun r => blocksOf r.1 r.2)).eraseDups).foldl (fun s b =>
    if 4096 ≤ coveredBytes rs b then s.freshHeaders f (b * 4096) 4096 else s.mergeBlock f b) s

/-- A unit delivers poison when it is read, seen without reading it (R217, R220). -/
def Mem.unitPoison (m : Mem) (u : Nat) : Bool :=
  match m.unit u with
  | .clean => false
  | .poisoned => true
  | .raw => match rawOutcome u with
    | .clean => false
    | .poisoned => true
    | .ce _ _ p => p
    | .ue => true

/-- Write a result with fresh headers. -/
def State.writeFresh (s : State) (f : Former) (k : Nat) (l : List Byte) (ps : List Bool) : State :=
  (s.writeMem k l ps).freshHeaders f k l.length

/-- Write bytes and merge every block touched. -/
def State.writeMerge (s : State) (f : Former) (k : Nat) (l : List Byte) (ps : List Bool) : State :=
  (s.writeMem k l ps).merges f k l.length

/-- What a block-check finds (R313): the first poisoned unit, or a failing block, by key. -/
structure ReadChk where
  poison : Option Nat
  mismatch : Option Nat
  deriving DecidableEq, Repr

def ReadChk.none : ReadChk := ⟨Option.none, Option.none⟩
def ReadChk.bad (r : ReadChk) : Bool := r.poison.isSome || r.mismatch.isSome
def ReadChk.join (a b : ReadChk) : ReadChk := ⟨a.poison <|> b.poison, a.mismatch <|> b.mismatch⟩

/-- Check one block: poison anywhere in it, then VALID, then the CRC (R313). Counts BLOCK_CHECKS, BLOCK_FAILS and
UNCHECKED_READS. -/
def State.checkBlock (s : State) (b : Nat) : State × ReadChk :=
  let (s, ps) := s.touchRange (b * 4096) 4096 0
  match (List.range 64).find? (fun i => ps.getD i false) with
  | some i => (s, ⟨some (b * 4096 + 64 * i), none⟩)
  | none =>
    let h := s.mem.header b
    if !hdrValid h then (s.incD (dk 0x2500 3), ReadChk.none)
    else
      let s := s.incD (dk 0x2500 1)
      if crc32c (s.mem.bytes (b * 4096) 4096) = fld h 0 32 then (s, ReadChk.none)
      else (s.incD (dk 0x2500 2), ⟨none, some (b * 4096)⟩)

/-- Distinct blocks of a list of ranges, in ascending first touch. -/
def blocksOfRanges (rs : List (Nat × Nat)) : List Nat := (rs.flatMap (fun r => blocksOf r.1 r.2)).eraseDups

/-- Bytes of the blocks that a list of ranges does not itself read. -/
def fillBytes (rs : List (Nat × Nat)) : Nat :=
  let total := (blocksOfRanges rs).length * 4096
  total - rs.foldl (fun a r => a + r.2) 0

/-- A checked read of several ranges: every block touched is checked once (R313). -/
def State.checkRanges (s : State) (rs : List (Nat × Nat)) : State × ReadChk :=
  let s := s.addD (dk 0x2500 4) (fillBytes rs)
  (blocksOfRanges rs).foldl (fun (acc : State × ReadChk) b => let (s', r) := acc.1.checkBlock b; (s', acc.2.join r)) (s, ReadChk.none)

/-- The check run over bytes that stand elsewhere (data kept for a command): counters move, memory does not. -/
def State.checkKept (s : State) (m : Mem) (rs : List (Nat × Nat)) : State × ReadChk :=
  let q := ({ s with mem := m }).checkRanges rs
  ({ q.1 with mem := s.mem }, q.2)

/-- Consecutive ranges for rows of `w` bytes at a stride, merged into one where they meet. -/
def rowRanges (k stride w rows : Nat) : List (Nat × Nat) :=
  if stride = w then [(k, w * rows)] else (List.range rows).map (fun i => (k + i * stride, w))

end Sys2Proof.Machine
end

