-- ==== Sys2Proof/Machine/Operands.lean ====
section
/-!
DEFINITION. Every operand form: the fields of command formats C, D, X, I, S and T (R157 to R162), of the descriptors of QUANT, RQ, TENSOR,
VEC, UPDATE, COLL and SYNCDUMP, and the core memory ranges that commands write and guards protect (R189).
-/
namespace Sys2Proof.Machine

/-! ## Command header and formats (Tables 7-1 and 7-3 to 7-8) -/

def cOp (w : W256) : Byte := fld w 0 8
def cWt0 (w : W256) : Nat := fldN w 8 5
def cWe0 (w : W256) : Bool := bitAt w 13
def cWt1 (w : W256) : Nat := fldN w 14 5
def cWe1 (w : W256) : Bool := bitAt w 19
def cSt (w : W256) : BitVec 5 := fld w 20 5
def cSe (w : W256) : Bool := bitAt w 25
def cWv0 (w : W256) : W16 := fld w 32 16
def cWv1 (w : W256) : W16 := fld w 48 16

/-- Format C. -/
def cVal (w : W256) : W32 := fld w 64 32
def cIdx (w : W256) : Nat := fldN w 96 5
def cNcmd (w : W256) : Nat := fldN w 101 3 + 1
def cScope (w : W256) : Bool := bitAt w 104
def cWg (w : W256) : Bool := bitAt w 105
def cOff (w : W256) : Nat := fldN w 112 16
def cAddr (w : W256) : Nat := fldN w 128 22
def cVal2 (w : W256) : W32 := fld w 160 32

/-- Format D. -/
def dDesc (w : W256) : Nat := fldN w 64 22
def dXsel (w : W256) : Nat := fldN w 86 3
def dXen (w : W256) : Bool := bitAt w 89
def dStep (w : W256) : Nat := fldN w 90 12
def dPtok (w : W256) : BitVec 5 := fld w 102 5
def dPen (w : W256) : Bool := bitAt w 107
def dSth (w : W256) : Bool := bitAt w 112
def dSlayer (w : W256) : BitVec 12 := fld w 128 12
def dSentry (w : W256) : W16 := fld w 140 16

/-- Format X. -/
def xSrc (w : W256) : W64 := fld w 64 64
def xDst (w : W256) : W64 := fld w 128 64
def xLen (w : W256) : Nat := fldN w 192 32
def xBlk (w : W256) : Bool := bitAt w 224
def xLc (w : W256) : Bool := bitAt w 225
def xSobj (w : W256) : Nat := fldN w 232 23

/-- Format I. -/
def iDst (w : W256) : W64 := fld w 64 64
def iData (w : W256) : W128 := fld w 128 128

/-- Format S. -/
def sObj (w : W256) : W64 := fld w 64 64
def sVal (w : W256) : W64 := fld w 128 64
def sAddr (w : W256) : Nat := fldN w 192 22
def sCond (w : W256) : BitVec 2 := fld w 214 2

/-- Format T. -/
def tAddr (w : W256) : Nat := fldN w 64 22
def tLayer (w : W256) : BitVec 12 := fld w 96 12
def tEntry (w : W256) : W16 := fld w 112 16
def tLen (w : W256) : Nat := fldN w 128 16 + 1
def tOne (w : W256) : Bool := bitAt w 144

/-! ## Reserved bits (R5, R159) -/

/-- Bits [lo, hi] of a mask. -/
def bits (lo hi : Nat) : Nat := 2 ^ (hi + 1) - 2 ^ lo

/-- Reserved bits of the command header. -/
def rsvHead : Nat := bits 26 31

/-- Fields of format C that an opcode uses; every other bit of [255:64] is reserved for it. -/
def usedC (op : Nat) : Nat :=
  match op with
  | 0x01 => bits 64 95 + bits 96 100
  | 0x02 => bits 64 95 + bits 96 100
  | 0x03 => bits 64 95 + bits 96 100
  | 0x04 => bits 64 95 + bits 96 100
  | 0x05 => bits 96 100 + bits 112 127
  | 0x06 => bits 104 104
  | 0x07 => bits 64 95
  | 0x08 => bits 96 100
  | 0x09 => bits 64 95 + bits 128 149
  | 0x0A => bits 64 95 + bits 160 191
  | 0x0B => bits 101 103
  | 0x0C => bits 105 105
  | 0x1E => bits 104 104
  | _ => 0

/-- Reserved bits of a command, by opcode; of an unassigned one those of the header. -/
def rsvMask (op : Nat) : Nat :=
  if op ≤ 0x0C ∨ op = 0x1E then rsvHead + bits 64 255 - usedC op
  else if 0x10 ≤ op ∧ op ≤ 0x17 then rsvHead + bits 108 111 + bits 113 127 + bits 156 255
  else if 0x18 ≤ op ∧ op ≤ 0x1C then rsvHead + bits 226 231 + bits 255 255
  else if op = 0x1F then rsvHead
  else if 0x20 ≤ op ∧ op ≤ 0x22 then rsvHead + bits 216 255
  else if op = 0x23 ∨ op = 0x24 then rsvHead + bits 216 255
  else if 0x28 ≤ op ∧ op ≤ 0x2D then rsvHead + bits 86 95 + bits 108 111 + bits 145 255
  else rsvHead

/-- VAL[63:48], reserved in SYNCADD, SYNCSET and SYNCWAIT (R291). -/
def rsvVal (op : Nat) : Nat := if 0x21 ≤ op ∧ op ≤ 0x23 then bits 176 191 else 0

/-- A reserved field of the command is not zero. -/
def rsvSet (w : W256) : Bool :=
  let op := (cOp w).toNat
  w.toNat &&& (rsvMask op ||| rsvVal op) ≠ 0

/-! ## QPW and QUANT descriptor (Tables 3-1 and 3-7) -/

def qTensor (q : W128) : W32 := fld q 96 32
def qKey (q : W128) : W32 := fld q 64 32
def qTexp (q : W128) : Byte := fld q 56 8
def qGzk (q : W128) : Nat := fldN q 52 4
def qGzcap (q : W128) : Nat := fldN q 47 5
def qRotb (q : W128) : Nat := fldN q 45 2
def qRnd (q : W128) : BitVec 3 := fld q 42 3
def qOvf (q : W128) : Bool := bitAt q 41
def qGsz (q : W128) : Nat := fldN q 39 2
def qFmt (q : W128) : Nat := fldN q 35 4
def qOri (q : W128) : Nat := fldN q 33 2

def qdQpw (d : BitVec 512) : W128 := fld d 384 128
def qdDst1 (d : BitVec 512) : W64 := fld d 320 64
def qdDst0 (d : BitVec 512) : W64 := fld d 256 64
def qdScl (d : BitVec 512) : W64 := fld d 192 64
def qdSrc (d : BitVec 512) : W64 := fld d 128 64
def qdRow0 (d : BitVec 512) : W32 := fld d 96 32
def qdCol0 (d : BitVec 512) : W32 := fld d 64 32
def qdStride (d : BitVec 512) : Nat := fldN d 40 24
def qdRows (d : BitVec 512) : Nat := fldN d 33 7 + 1
def qdCols (d : BitVec 512) : Nat := fldN d 26 7 + 1
def qdFmt (d : BitVec 512) : Nat := fldN d 22 4

/-- Group size of a GSZ code. -/
def gsize (g : Nat) : Nat := 32 * 2 ^ g

/-- GZCAP as it acts: at most 16 for G = 32 and 8 for larger groups, and 0 for formats without gauze (R69). -/
def gzcapEff (fmt gsz gzcap : Nat) : Nat := if fmt ≤ 3 then Nat.min gzcap (if gsz = 0 then 16 else 8) else 0

/-- Bytes of the codes of a tile image (Table 3-4). -/
def codeBytes (fmt : Nat) : Nat := if fmt ≤ 1 then 8192 else if fmt ≤ 3 then 4096 else if fmt = 4 then 2048 else 0

/-- Size of a tile image (Table 3-4). -/
def imageSize (fmt gsz gzcap : Nat) : Nat :=
  if fmt ≤ 4 then 64 + 2 * (16384 / gsize gsz) + codeBytes fmt + 256 * gzcapEff fmt gsz gzcap
  else if fmt ≤ 6 then 16960
  else 32832

/-- Bytes of an element of SRC_FMT 0x0 to 0x6 (Table 3-6). -/
def srcBytes (fmt : Nat) : Nat := if fmt = 0 then 4 else if fmt ≤ 2 then 2 else 1

/-! ## TENSOR descriptor (Tables 4-3 and 4-4) -/

def tdC (d : BitVec 1536) : W64 := fld d 448 64
def tdTag (d : BitVec 1536) : W32 := fld d 416 32
def tdLayer (d : BitVec 1536) : BitVec 12 := fld d 404 12
def tdKt (d : BitVec 1536) : Nat := fldN d 388 16 + 1
def tdMM1 (d : BitVec 1536) : BitVec 7 := fld d 381 7
def tdNM1 (d : BitVec 1536) : BitVec 7 := fld d 374 7
def tdMode (d : BitVec 1536) : Nat := fldN d 370 4
def tdAcc (d : BitVec 1536) : Nat := fldN d 368 2
def tdHold (d : BitVec 1536) : Bool := bitAt d 367
def tdPsum (d : BitVec 1536) : Bool := bitAt d 366
def tdLdr (d : BitVec 1536) : Bool := bitAt d 365
def tdKlast (d : BitVec 1536) : Nat := fldN d 358 7 + 1

/-- An operand section: A is bits [1023:512] and B bits [1535:1024]. -/
def tdOperand (d : BitVec 1536) (b : Bool) : BitVec 512 := if b then fld d 1024 512 else fld d 512 512
def toQpw (o : BitVec 512) : W128 := fld o 384 128
def toAddr (o : BitVec 512) : W64 := fld o 320 64
def toFb (o : BitVec 512) : W64 := fld o 256 64
def toRow0 (o : BitVec 512) : W32 := fld o 224 32
def toCol0 (o : BitVec 512) : W32 := fld o 192 32
def toKstep (o : BitVec 512) : Nat := fldN o 168 24
def toStride (o : BitVec 512) : Nat := fldN o 144 24
def toFbStride (o : BitVec 512) : Nat := fldN o 120 24
def toSrcFmt (o : BitVec 512) : Nat := fldN o 116 4
def toFbFmt (o : BitVec 512) : Nat := fldN o 112 4
def toKind (o : BitVec 512) : Bool := bitAt o 111
def toTr (o : BitVec 512) : Bool := bitAt o 110

/-- K runs along image rows: for A with TR = 1, for B with TR = 0 (R84). -/
def kRows (b tr : Bool) : Bool := b != tr

/-- The operation is submitted to the ladder: LDR = 1 in modes 0x0 to 0x3. -/
def tdLadder (d : BitVec 1536) : Bool := tdLdr d && decide (tdMode d ≤ 3)

/-! ## VEC descriptor (Tables 6-1 and 6-2) -/

def vdProg (d : BitVec 1024) : W64 := fld d 448 64
def vdConst (d : BitVec 1024) : W64 := fld d 384 64
def vdRowst (d : BitVec 1024) : W64 := fld d 320 64
def vdTrec (d : BitVec 1024) : W64 := fld d 256 64
def vdTensor0 (d : BitVec 1024) : W32 := fld d 224 32
def vdTensor1 (d : BitVec 1024) : W32 := fld d 192 32
def vdRow0 (d : BitVec 1024) : W32 := fld d 160 32
def vdCol0 (d : BitVec 1024) : W32 := fld d 128 32
def vdLen (d : BitVec 1024) : Nat := fldN d 120 8 + 1
def vdNt (d : BitVec 1024) : Nat := fldN d 112 8 + 1
def vdM (d : BitVec 1024) : Nat := fldN d 105 7 + 1
def vdN (d : BitVec 1024) : Nat := fldN d 98 7 + 1
def vdRsi (d : BitVec 1024) : Bool := bitAt d 97
def vdRso (d : BitVec 1024) : Bool := bitAt d 96
/-- Stream section k: IN0, IN1, OUT0, OUT1. -/
def vdStream (d : BitVec 1024) (k : Nat) : W128 := BitVec.ofNat 128 (d.toNat / 2 ^ (512 + 128 * k))
def vsAddr (s : W128) : W64 := fld s 64 64
def vsStride (s : W128) : Nat := fldN s 40 24
def vsTstep (s : W128) : Nat := fldN s 16 24
def vsFmt (s : W128) : Nat := fldN s 12 4
def vsEn (s : W128) : Bool := bitAt s 11
def vsRnd (s : W128) : BitVec 3 := fld s 8 3
def vsOvf (s : W128) : Bool := bitAt s 7

/-! ## UPDATE descriptor (Table 8-6) -/

def udBc2 (d : BitVec 1536) : W32 := fld d 1504 32
def udGscale (d : BitVec 1536) : W32 := fld d 1472 32
def udMu (d : BitVec 1536) : W32 := fld d 1440 32
def udSlotStep (d : BitVec 1536) : Nat := fldN d 1408 32
def udStride (d : BitVec 1536) : Nat := fldN d 1384 24
def udKcStep (d : BitVec 1536) : Nat := fldN d 1360 24
def udNcStep (d : BitVec 1536) : Nat := fldN d 1336 24
def udRows (d : BitVec 1536) : Nat := fldN d 1320 16 + 1
def udCols (d : BitVec 1536) : Nat := fldN d 1304 16 + 1
def udLayer (d : BitVec 1536) : BitVec 12 := fld d 1292 12
def udSlots (d : BitVec 1536) : Nat := fldN d 1288 4 + 1
def udGfmt (d : BitVec 1536) : Nat := fldN d 1286 2
def udAlg (d : BitVec 1536) : Nat := fldN d 1283 3
def udSkipnf (d : BitVec 1536) : Bool := bitAt d 1282
def udWcen (d : BitVec 1536) : Bool := bitAt d 1281
def udRowBase (d : BitVec 1536) : W32 := fld d 1248 32
def udColBase (d : BitVec 1536) : W32 := fld d 1216 32
def udQpwK (d : BitVec 1536) : W128 := fld d 896 128
def udQpwN (d : BitVec 1536) : W128 := fld d 768 128
def udLr (d : BitVec 1536) : W32 := fld d 736 32
def udB1 (d : BitVec 1536) : W32 := fld d 704 32
def udB2 (d : BitVec 1536) : W32 := fld d 672 32
def udOmb1 (d : BitVec 1536) : W32 := fld d 640 32
def udOmb2 (d : BitVec 1536) : W32 := fld d 608 32
def udEps (d : BitVec 1536) : W32 := fld d 576 32
def udWd (d : BitVec 1536) : W32 := fld d 544 32
def udBc1 (d : BitVec 1536) : W32 := fld d 512 32
def udMain (d : BitVec 1536) : W64 := fld d 448 64
def udExt (d : BitVec 1536) : W64 := fld d 384 64
def udSt1 (d : BitVec 1536) : W64 := fld d 320 64
def udSt2 (d : BitVec 1536) : W64 := fld d 256 64
def udGrad (d : BitVec 1536) : W64 := fld d 192 64
def udKc (d : BitVec 1536) : W64 := fld d 128 64
def udNc (d : BitVec 1536) : W64 := fld d 64 64
def udShdr (d : BitVec 1536) : W64 := fld d 0 64

/-! ## COLL descriptor (Table 11-2) -/

def cdSrc (d : BitVec 512) : W64 := fld d 448 64
def cdDst (d : BitVec 512) : W64 := fld d 384 64
def cdScr (d : BitVec 512) : W64 := fld d 320 64
def cdVrec (d : BitVec 512) : W64 := fld d 256 64
def cdRoot (d : BitVec 512) : Nat := fldN d 224 32
def cdTensor (d : BitVec 512) : W32 := fld d 192 32
def cdCount (d : BitVec 512) : Nat := fldN d 152 40
def cdGid (d : BitVec 512) : W16 := fld d 136 16
def cdCtexp (d : BitVec 512) : Byte := fld d 128 8
def cdOp (d : BitVec 512) : Nat := fldN d 124 4
def cdRed (d : BitVec 512) : Nat := fldN d 122 2
def cdEfmt (d : BitVec 512) : Nat := fldN d 119 3
def cdCarry (d : BitVec 512) : Nat := fldN d 117 2
def cdCgsz (d : BitVec 512) : Nat := fldN d 115 2
def cdCrnd (d : BitVec 512) : BitVec 3 := fld d 112 3
def cdShk (d : BitVec 512) : Nat := fldN d 110 2
def cdGlc (d : BitVec 512) : Bool := bitAt d 109
/-- Bytes of an element (R266). -/
def efBytes (e : Nat) : Nat :=
  match e with
  | 0 => 4
  | 1 => 2
  | 2 => 2
  | 3 => 8
  | _ => 1
/-- ALLREDUCE, REDSCAT, REDUCE and BARRIER add. -/
def cdReducing (d : BitVec 512) : Bool := cdOp d == 0 || cdOp d == 1 || cdOp d == 4 || cdOp d == 6

/-! ## Descriptors in core memory (R160) -/

/-- Descriptor bytes of a format D opcode. -/
def descSize (op : Nat) : Nat :=
  match op with
  | 0x10 => 192
  | 0x11 => 64
  | 0x12 => 64
  | 0x13 => 128
  | 0x14 => 192
  | 0x15 => 64
  | 0x16 => 32
  | 0x17 => 64
  | _ => 0

/-- Bounds of a context's area in its core memory (R178). -/
def State.area (s : State) (c : CoreId) (x : CtxId) : Nat × Nat :=
  match x with
  | .primary => (0, s.areaSplit c)
  | .filler => (s.areaSplit c, 0x400000)

def State.inArea (s : State) (c : CoreId) (x : CtxId) (off len : Nat) : Bool :=
  decide ((s.area c x).1 ≤ off ∧ off + len ≤ (s.area c x).2)

/-- Counter n of a stream. -/
def Stream.counter (t : Stream) (n : Nat) : W32 := SMap.get (fun _ => 0) t.cnt n
def Stream.setCounter (t : Stream) (n : Nat) (v : W32) : Stream := { t with cnt := SMap.set (fun _ => 0) t.cnt n v }

/-- Offset of a format D command's descriptor under a stream's counters. -/
def descOff (t : Stream) (w : W256) : Nat :=
  if dXen w then dDesc w + 64 * dStep w * (t.counter (dXsel w)).toNat else dDesc w

/-- The descriptor offset breaks R160. -/
def State.descBad (s : State) (c : CoreId) (x : CtxId) (op off : Nat) : Bool :=
  off % 64 ≠ 0 || !s.inArea c x off (descSize op)

/-- `n` bytes of core memory as one number, low address first. -/
def State.coreWord (s : State) (c : CoreId) (off n : Nat) : Nat := ofLe (s.mem.bytes (ckey c off) n)

/-! ## Ranges written and guarded (R189) -/

/-- Offsets [lo, hi) of `n` bytes at an address, when they lie in the own core's memory. -/
def State.ownSpan (s : State) (c : CoreId) (a : W64) (n : Nat) : Option (Nat × Nat) :=
  if n = 0 then none
  else if s.isOwn a && aSpace a == 1 && aRsvd a == 0 && decide (aOff a / 2 ^ 22 = c.val) then
    some (aOff a % 2 ^ 22, aOff a % 2 ^ 22 + n)
  else none

/-- Smallest interval that encloses a list of intervals. -/
def encl (l : List (Option (Nat × Nat))) : Option (Nat × Nat) :=
  l.foldl (fun a b => match a, b with
    | some (lo, hi), some (l2, h2) => some (Nat.min lo l2, Nat.max hi h2)
    | none, b => b
    | a, none => a) none

/-- Addresses and lengths a QPW's images take at two destinations. -/
def qdWrites (d : BitVec 512) : List (W64 × Nat) :=
  let q := qdQpw d
  if qFmt q ≤ 7 ∧ qGsz q ≠ 3 then
    let n := imageSize (qFmt q) (qGsz q) (qGzcap q)
    (if qOri q % 2 = 1 then [(qdDst0 d, n)] else []) ++ (if 2 ≤ qOri q then [(qdDst1 d, n)] else [])
  else []

/-- Bytes of an output tile of a VEC stream (R133). -/
def outBytes (v : W128) : Nat :=
  if vsFmt v ≤ 2 then 127 * vsStride v + 128 * srcBytes (vsFmt v) else if vsFmt v = 5 ∨ vsFmt v = 6 then 16960 else 0

def vdWrites (d : BitVec 1024) : List (W64 × Nat) :=
  ([2, 3].filterMap (fun k =>
    let v := vdStream d k
    if vsEn v ∧ outBytes v ≠ 0 then some (vsAddr v, (vdNt d - 1) * vsTstep v + outBytes v) else none)) ++
  (if vdTrec d ≠ 0 ∧ vsEn (vdStream d 0) ∧ vsFmt (vdStream d 0) = 9 then [(vdTrec d, 16 * vdNt d)] else []) ++
  (if vdRso d then [(vdRowst d, 2048)] else [])

def udTiles (d : BitVec 1536) : Nat := ((udRows d - 1) / 128 + 1) * ((udCols d - 1) / 128 + 1)

def udWrites (d : BitVec 1536) : List (W64 × Nat) :=
  let n (stride e : Nat) : Nat := (udRows d - 1) * stride + udCols d * e
  let img (q : W128) : Nat := if qFmt q ≤ 7 ∧ qGsz q ≠ 3 then imageSize (qFmt q) (qGsz q) (qGzcap q) else 0
  [(udMain d, n (udStride d) 4), (udSt1 d, n (udStride d) 4)] ++
  (if udExt d ≠ 0 then [(udExt d, n (udStride d / 2) 2)] else []) ++
  (if udAlg d = 0 then [(udSt2 d, n (udStride d) 4)] else []) ++
  (if udWcen d then [(udNc d, (udTiles d - 1) * udNcStep d + img (udQpwN d)), (udKc d, (udTiles d - 1) * udKcStep d + img (udQpwK d))]
    else []) ++
  (if udShdr d ≠ 0 then [(udShdr d, 8)] else [])

/-- Bytes a COLL writes at DST in a group of n members (Table 11-3). -/
def cdDstLen (d : BitVec 512) (n : Nat) : Nat :=
  let b := cdCount d * efBytes (cdEfmt d)
  if cdOp d = 2 ∨ cdOp d = 5 then n * b else if cdOp d = 6 ∨ cdOp d = 7 then 0 else b

def cdWrites (d : BitVec 512) (n : Nat) : List (W64 × Nat) :=
  [(cdDst d, cdDstLen d n)] ++ (if cdReducing d then [(cdScr d, 262144)] else []) ++
    (if cdShk d = 1 then [(cdVrec d, 16 * n)] else [])

/-- Addresses and lengths a command writes. `doff` is its descriptor's offset; `n` gives the members of a group. -/
def State.writesOf (s : State) (c : CoreId) (n : W16 → Nat) (w : W256) (doff : Nat) : List (W64 × Nat) :=
  let op := (cOp w).toNat
  if op = 0x11 ∨ op = 0x12 then qdWrites (BitVec.ofNat 512 (s.coreWord c doff 64))
  else if op = 0x13 then vdWrites (BitVec.ofNat 1024 (s.coreWord c doff 128))
  else if op = 0x14 then udWrites (BitVec.ofNat 1536 (s.coreWord c doff 192))
  else if op = 0x15 then
    let d := BitVec.ofNat 512 (s.coreWord c doff 64)
    cdWrites d (n (cdGid d))
  else if op = 0x16 then
    let v := BitVec.ofNat 256 (s.coreWord c doff 32)
    if 0x18 ≤ (cOp v).toNat ∧ (cOp v).toNat ≤ 0x1C then [(xDst v, xLen v)] else []
  else if 0x18 ≤ op ∧ op ≤ 0x1C then [(xDst w, xLen w)]
  else if op = 0x1F then [(iDst w, 16)]
  else if op = 0x09 then [(coreAddr c (cAddr w), 16)]
  else if op = 0x24 then [(coreAddr c (sAddr w), 8)]
  else if op = 0x29 then
    let len := match (s.core c).stash.entries.find? (fun e => e.layer == tLayer w && e.entry == tEntry w) with
      | some e => e.len
      | none => 0
    [(coreAddr c (tAddr w), len)]
  else []

/-- The interval of own core memory that a command writes (R189). -/
def State.writeRange (s : State) (c : CoreId) (n : W16 → Nat) (w : W256) (doff : Nat) : Option (Nat × Nat) :=
  encl ((s.writesOf c n w doff).map (fun e => s.ownSpan c e.1 e.2))

/-- Two intervals overlap. -/
def overlaps (lo1 hi1 lo2 hi2 : Nat) : Bool := decide (lo1 < hi2 ∧ lo2 < hi1)

/-- Ranges guarded for an operand (Table 8-2). -/
def guardOperand (d : BitVec 1536) (b : Bool) : List (W64 × Nat) :=
  let o := tdOperand d b
  let n := if kRows b (toTr o) then 128 * tdKt d else (if b then tdNM1 d else tdMM1 d).toNat + 1
  [(toAddr o, if toKind o then n * toStride o else tdKt d * toKstep o)] ++
  (if tdLadder d then [(toFb o, n * toFbStride o)] else [])

/-- Guarded ranges of a TENSOR or RQ command of a deferred group (Table 8-2). -/
def State.guardsOf (s : State) (c : CoreId) (w : W256) (doff : Nat) : List (Nat × Nat) :=
  let op := (cOp w).toNat
  if op = 0x10 then
    let d := BitVec.ofNat 1536 (s.coreWord c doff 192)
    let rs : List (W64 × Nat) := guardOperand d false ++ guardOperand d true ++ (if tdAcc d = 2 then [(tdC d, 65536)] else [])
    (doff, doff + 192) :: rs.filterMap (fun e => s.ownSpan c e.1 e.2)
  else if op = 0x12 then
    let d := BitVec.ofNat 512 (s.coreWord c doff 64)
    let src : List (W64 × Nat) := if dSth w then []
      else if qdFmt d = 8 then [(qdSrc d, 32832)]
      else [(qdSrc d, qdRows d * qdStride d)] ++ (if qdFmt d = 5 ∨ qdFmt d = 6 then [(qdScl d, 512)] else [])
    (doff, doff + 64) :: src.filterMap (fun e => s.ownSpan c e.1 e.2)
  else []

end Sys2Proof.Machine
end

