-- ==== Sys2Proof/Machine/Power.lean ====
section
/-!
DEFINITION. Power, clocks and thermal behaviour: input events and ALERT (R394, R402, R407, R408), operating points (R396, R397), adaptive
voltage and droop (R399, R400), the power controller (R401) and the thermal controllers (R403, R404).
-/
namespace Sys2Proof.Machine

/-! ## RESET_CAUSE and ALERT (R408, R411) -/

def State.modBoard (s : State) (f : Board → Board) : State := { s with board := f s.board }

def causeBit (n : Nat) : W16 := BitVec.ofNat 16 (2 ^ n)
/-- ALERT is asserted while any bit in [12:8] of RESET_CAUSE is set. -/
def Board.alert (b : Board) : Bool := fldN b.cause 8 5 != 0

/-- Set or clear a condition of RESET_CAUSE; ALERT goes out when it becomes asserted. -/
def State.condition (s : State) (bit : Nat) (v : Bool) : State :=
  let before := s.board.alert
  let s := s.modBoard (fun b => { b with cause := if v then b.cause ||| causeBit bit else b.cause &&& ~~~causeBit bit })
  if s.board.alert && !before then s.emit .alert else s

/-- A thermal trip: removal of power is requested (R403). -/
def State.trip (s : State) : State := s.condition 12 true

/-- INPUT_LOW. -/
def execInputLow (mv : W16) (s : State) : Host.Outcome State Fault Refusal :=
  let s := s.setDN (dk 0x2100 3) mv.toNat
  .next (if mv.toNat < 40000 then s.condition 8 true else s)

/-- INPUT_HIGH. -/
def execInputHigh (mv : W16) (s : State) : Host.Outcome State Fault Refusal :=
  let s := s.setDN (dk 0x2100 3) mv.toNat
  .next (if 59500 < mv.toNat then s.condition 9 true else s)

/-- INPUT_IN_RANGE. -/
def execInputInRange (mv : W16) (s : State) : Host.Outcome State Fault Refusal :=
  let s := s.setDN (dk 0x2100 3) mv.toNat
  .next (if 40000 ≤ mv.toNat ∧ mv.toNat ≤ 59500 then (s.condition 8 false).condition 9 false else s)

/-- REFERENCE_LOSS (R407). -/
def execReferenceLoss (s : State) : Host.Outcome State Fault Refusal := .next ((s.modBoard (fun b => { b with refLost := true })).condition 11 true)

/-- REFERENCE_RESTORE. -/
def execReferenceRestore (s : State) : Host.Outcome State Fault Refusal :=
  .next ((s.modBoard (fun b => { b with refLost := false })).condition 11 false)

/-- REFERENCE_LOSS_TIMEOUT: treated as a thermal trip. -/
def execReferenceLossTimeout (s : State) : Host.Outcome State Fault Refusal := .next (if s.board.refLost then s.trip else s)

/-- A temperature in tenths of a degree, as an i16 entry. -/
def tempWord (t : Int) : W64 := (BitVec.ofInt 16 t).setWidth 64

/-- INLET_HIGH (R402). -/
def execInletHigh (temp : Int) (s : State) : Host.Outcome State Fault Refusal :=
  let s := s.setD (dk 0x2100 6) (tempWord temp)
  .next (if 400 < temp then s.condition 10 true else s)

/-- INLET_NORMAL. -/
def execInletNormal (temp : Int) (s : State) : Host.Outcome State Fault Refusal :=
  let s := s.setD (dk 0x2100 6) (tempWord temp)
  .next (if temp ≤ 400 then s.condition 10 false else s)

/-! ## Operating points (R396, R397) -/

/-- ACLK in MHz and nominal VDD in mV (Table 17-2). -/
def opMhz (op : BitVec 3) : Nat := [1200, 1400, 1600, 1800, 2000, 2200, 2350, 2500].getD op.toNat 0
def opMv (op : BitVec 3) : Nat := [600, 630, 660, 700, 740, 780, 820, 850].getD op.toNat 0

/-- The effective operating point of a district. -/
def State.effOp (s : State) (d : District) : BitVec 3 :=
  let a := s.dN (dk 0x2100 2)
  BitVec.ofNat 3 (Nat.min a (Nat.min s.board.modOp.toNat (s.dist d).thermOp.toNat))

/-- A district whose effective operating point has changed begins a transition, unless one is in progress. Districts leave OP0 once
self-tests are done and the service firmware runs (Table 18-4). -/
def State.retarget (s : State) (d : District) : State :=
  let k := s.dist d
  if k.moving ∨ s.effOp d = k.op ∨ !s.board.sfUp ∨ !s.board.coresDone then s
  else s.modDist d (fun k => { k with moving := true, target := s.effOp d })

def State.retargetAll (s : State) : State := allStacks.foldl State.retarget s

/-- VDD_MV and ACLK_MHZ of a district at its present operating point. -/
def State.showVdd (s : State) (d : District) : State :=
  let k := s.dist d
  s.setDN (dk 0x2120 (d.val + 1)) ((opMv k.op : Int) + k.vddOff).toNat

/-- OP_TRANSITION_DONE. -/
def execOpTransitionDone (d : District) (s : State) : Host.Outcome State Fault Refusal :=
  if !(s.dist d).moving then .next s
  else .next (((s.modDist d (fun k => { k with moving := false, op := k.target })).showVdd d).retarget d)

/-! ## Throttling (R404) -/

def isOpAct : Throttle → Bool
  | .op _ => true
  | _ => false

/-- Actions of one kind in force for a district: the power controller's and its own. -/
def State.thermalCount (s : State) (d : District) (t : Throttle) : Nat := cnt (fun (e : Bool × Throttle) => e.2 == t) (s.dist d).acts
def State.powerCount (s : State) (t : Throttle) : Nat := cnt (fun e => e == t) s.board.powerActs

/-- Filler is withheld in a district: no S2 command issues there (step 1). -/
def State.fillerWithheld (s : State) (d : District) : Bool := decide (0 < s.thermalCount d .filler + s.powerCount .filler)

/-- The district of a core. -/
def stackOfCore (c : CoreId) : District := ⟨c.val / 16 % 16, Nat.mod_lt _ (by decide)⟩

/-- Issue gating level g (step 3) and DRAM limit level (step 4) of a district. -/
def State.gateLevel (s : State) (d : District) : Nat := Nat.max (s.thermalCount d .gate) (s.powerCount .gate)
def State.dramLevel (s : State) (d : District) : Nat := Nat.max (s.thermalCount d .dram) (s.powerCount .dram)

/-- Filler work is admitted on a core of the district. -/
def State.fillerAdmitted (s : State) (d : District) : Bool :=
  s.cores.any (fun e => decide (e.1 / 16 = d.val) && e.2.admitted)

/-- The step of an action. -/
def stepNo : Throttle → Nat
  | .filler => 1
  | .op _ => 2
  | .gate => 3
  | .dram => 4

/-- THROTTLE_STEP: the highest step in force in any district. -/
def State.showThrottle (s : State) : State :=
  let a := s.board.powerActs.map stepNo ++ allStacks.flatMap (fun d => (s.dist d).acts.map (fun e => stepNo e.2))
  s.setDN (dk 0x2100 7) (a.foldl Nat.max 0)

/-! ## The power controller (R401) -/

/-- The next action of the module's order that applies. -/
def State.nextPower (s : State) : Option Throttle :=
  if s.powerCount .filler = 0 ∧ allStacks.any s.fillerAdmitted then some .filler
  else if s.board.modOp ≠ 0 ∧ allStacks.any (fun d => s.effOp d != 0) then some (.op s.board.modOp)
  else if s.powerCount .gate < 7 then some .gate
  else if s.powerCount .dram < 3 then some .dram
  else none

def State.powerAdvance (s : State) : State :=
  match s.nextPower with
  | none => s
  | some t => s.modBoard (fun b => { b with powerActs := b.powerActs ++ [t], modOp := if isOpAct t then b.modOp - 1 else b.modOp })

def State.powerWithdraw (s : State) : State :=
  match s.board.powerActs.getLast? with
  | none => s
  | some t => s.modBoard (fun b => { b with
      powerActs := b.powerActs.dropLast
      modOp := match t with
        | .op p => p
        | _ => b.modOp })

/-- POWER_EVALUATION (R394, R401): none while a transition that it ordered is in progress. -/
def execPowerEvaluation (avgW : Nat) (all95 : Bool) (s : State) : Host.Outcome State Fault Refusal :=
  let s := s.setDN (dk 0x2100 5) (Nat.min avgW 65535)
  let cap := Nat.min (s.dN (dk 0x2100 1)) (62 * s.dN (dk 0x2100 3) / 1000)
  if allStacks.any (fun d => (s.dist d).moving) then .next s
  else
    let s := if cap < avgW then s.powerAdvance else if all95 then s.powerWithdraw else s
    .next s.retargetAll.showThrottle

/-! ## Thermal controllers (R403, R404) -/

/-- A thermal step-2 action: one below the effective operating point. -/
def State.thermalOp (s : State) (d : District) (dram : Bool) : State :=
  let e := s.effOp d
  s.modDist d (fun k => { k with acts := k.acts ++ [(dram, .op k.thermOp)], thermOp := e - 1 })

/-- Take an action that changes no operating point. -/
def State.takeAct (s : State) (d : District) (dram : Bool) (t : Throttle) : State := s.modDist d (fun k => { k with acts := k.acts ++ [(dram, t)] })

/-- Advance a district by the next action of a cause's order that applies: logic 1, 2, 3; DRAM 1, 2, 4, 3. -/
def State.thermalAdvance (s : State) (d : District) (dram : Bool) : State :=
  if s.thermalCount d .filler = 0 ∧ s.fillerAdmitted d then s.takeAct d dram .filler
  else if s.effOp d ≠ 0 then s.thermalOp d dram
  else if dram ∧ s.thermalCount d .dram < 3 then s.takeAct d dram .dram
  else if s.thermalCount d .gate < 7 then s.takeAct d dram .gate
  else s

/-- Withdraw the most recent thermal action, if this reading caused it. -/
def State.thermalWithdraw (s : State) (d : District) (dram : Bool) : State :=
  match (s.dist d).acts.getLast? with
  | none => s
  | some (c, t) =>
    if c != dram then s
    else s.modDist d (fun k => { k with
      acts := k.acts.dropLast
      thermOp := match t with
        | .op p => p
        | _ => k.thermOp })

/-- One reading against its thresholds, in tenths of a degree. -/
def State.thermalReading (s : State) (d : District) (dram : Bool) (t act rel : Int) (below : Bool) : State :=
  if act < t then s.thermalAdvance d dram
  else if t < rel ∧ below then s.thermalWithdraw d dram
  else s

/-- REFRESH_STATE of a stack. -/
def State.refreshState (s : State) (d : District) : Nat := s.dN (dk 0x2203 1) / 4 ^ d.val % 4

/-- FILLER_THERMAL keeps filler work off the district (R405). -/
def State.tooHot (s : State) (d : District) : Bool := s.dN (dk 0x2100 9) == 1 && (s.dist d).hot

/-- No filler work is admitted on the core's district (R404 step 1, R405). -/
def State.fillerBarred (s : State) (c : CoreId) : Bool := s.fillerWithheld (stackOfCore c) || s.tooHot (stackOfCore c)

/-- Follow a district's heat: hot from 90.0 deg C or refresh state 2, until it is below 87.0 deg C in state 0 or 1. Filler work in
progress yields (R405). -/
def State.heat (s : State) (d : District) : State :=
  let t := ((s.d (dk 0x2130 (d.val + 1))).setWidth 16).toInt
  let r := s.refreshState d
  let s := s.modDist d (fun k => { k with hot := decide (900 ≤ t ∨ 2 ≤ r) || (k.hot && !decide (t < 870 ∧ r ≤ 1)) })
  if !s.tooHot d then s
  else { s with cores := s.cores.map (fun e =>
    if e.1 / 16 = d.val ∧ e.2.admitted then (e.1, { e.2 with admitted := false, fill := { e.2.fill with
      suspended := e.2.fill.suspended || e.2.fill.jobs.any (fun j => j.status.isNone) } })
    else e) }

/-- THERMAL_EVALUATION (Table 17-3). -/
def execThermalEvaluation (d : District) (logic dram : Int) (logicRel dramRel : Bool) (s : State) : Host.Outcome State Fault Refusal :=
  let s := (s.setD (dk 0x2130 (d.val + 1)) (tempWord logic)).setD (dk 0x2140 (d.val + 1)) (tempWord dram)
  let s := (if 1100 ≤ logic ∨ 1100 ≤ dram then s.trip else s).heat d
  let s := s.thermalReading d false logic 970 940 logicRel
  let s := s.thermalReading d true dram 1020 990 dramRel
  .next (s.retarget d).showThrottle

/-! ## Adaptive voltage and droop (R399, R400) -/

/-- AVS_ADJUST: one 5 mV step within -60 mV and +20 mV of nominal; no margin at the upper bound is a step-2 action. -/
def execAvsAdjust (d : District) (m : AvsMargin) (s : State) : Host.Outcome State Fault Refusal :=
  let v := (s.dist d).vddOff
  match m with
  | .met => .next s
  | .more => .next (if -60 < v then (s.modDist d (fun k => { k with vddOff := k.vddOff - 5 })).showVdd d else s)
  | .less =>
    if v < 20 then .next ((s.modDist d (fun k => { k with vddOff := k.vddOff + 5 })).showVdd d)
    else if s.effOp d = 0 then .next s
    else .next ((s.thermalOp d false).retarget d).showThrottle

/-- DROOP_STRETCH. -/
def execDroopStretch (d : District) (s : State) : Host.Outcome State Fault Refusal :=
  .next ((s.modDist d (fun k => { k with stretch := true })).incD (dk 0x2100 8))

/-- DROOP_RECOVERY. -/
def execDroopRecovery (d : District) (s : State) : Host.Outcome State Fault Refusal :=
  .next (s.modDist d (fun k => { k with stretch := false }))

end Sys2Proof.Machine
end

