-- ==== Sys2Proof/Machine/MclOps.lean ====
section
/-!
DEFINITION. What the module sends over the companion link: messages and their flits (R338, R340), windows (R343), completion records,
DONE words and interrupts (R348, R349), and telemetry (R352).
-/
namespace Sys2Proof.Machine

/-! ## Messages -/

def mOpc (h : W128) : Nat := fldN h 120 8
def mTag (h : W128) : Nat := fldN h 108 12
def mPart (h : W128) : PartId := partOf (fldN h 104 4)
def mLen (h : W128) : Nat := fldN h 101 3 + 1
def mPsn (h : W128) : Byte := fld h 88 8
def mStatus (h : W128) : Nat := fldN h 84 4
def mAddr (h : W128) : W64 := fld h 0 64

/-- A message header (Table 14-2). -/
def mkMcl (opc tag : Nat) (part : PartId) (lenM1 : Nat) (psn : Byte) (status : Nat) (addr : W64) : W128 :=
  BitVec.ofNat 128 (opc % 256 * 2 ^ 120 + tag % 4096 * 2 ^ 108 + part.val * 2 ^ 104 + lenM1 % 8 * 2 ^ 101 + psn.toNat * 2 ^ 88 +
    status % 16 * 2 ^ 84 + addr.toNat)

def mclVerKey : Nat := dk 0x2A00 2
def mclStateKey : Nat := dk 0x2A00 3
def State.mclActive (s : State) : Bool := s.dN mclStateKey == 2
def State.mclVer (s : State) : Nat := s.dN mclVerKey

/-- Largest data lines per message (Table 14-1). -/
def mclMaxLines (ver : Nat) : Nat := if ver = 1 then 1 else if ver = 2 then 4 else 8

def linesOfBytes (l : List Byte) : List (BitVec 512) :=
  (chunksOf 64 (l.length / 64 + 1) l).map (fun c => BitVec.ofNat 512 (ofLe c))
def bytesOfLines (l : List (BitVec 512)) : List Byte := l.flatMap (fun u => leBytes 64 u.toNat)

/-- Slots of a message, lowest first. -/
def slotsOf (m : MclMsg) : List W128 := m.hdr :: unitsOfBytes' (bytesOfLines m.lines)
where unitsOfBytes' (l : List Byte) : List W128 :=
  (chunksOf 16 (l.length / 16 + 1) l).map (fun c => BitVec.ofNat 128 (ofLe c))

/-- Class of an opcode: the index of its credits (Table 14-3). -/
def mclClass (opc : Nat) : Nat := if opc < 0x10 then 0 else if opc < 0x20 then 1 else if opc < 0x30 then 2 else if opc < 0x40 then 3 else 4

def mclCls (m : MclMsg) : Nat := mclClass (mOpc m.hdr)

/-- Send a message: it leaves in the flits of the next ticks, once its class has a credit (R338, R341). With the link down it is lost
(R354). -/
def State.mclSend (s : State) (m : MclMsg) : State :=
  if !s.mclActive then s
  else ({ s with mcl := { s.mcl with toSend := s.mcl.toSend ++ [m] } }).emit (.mcl m)

/-! ## Flits (R338) -/

def fSeq (h : W64) : Nat := fldN h 54 10
def fAck (h : W64) : Nat := fldN h 44 10
def fNak (h : W64) : Bool := bitAt h 43
def fCredit (h : W64) (c : Nat) : Nat := fldN h (8 * c) 8

/-- A flit header; `cr` are the credit returns of the five classes as one field. -/
def mkFlitHdr (seq ack : Nat) (nak : Bool) (cr : Nat) : W64 :=
  BitVec.ofNat 64 (seq % 1024 * 2 ^ 54 + ack % 1024 * 2 ^ 44 + b2n nak * 2 ^ 43 + cr)

/-- The 15 slots of a flit: those that it carries and idle ones. -/
def flitSlots (us : List W128) : List W128 := (us ++ List.replicate 15 0).take 15

/-- Bytes of a flit that its CRC covers. -/
def flitBytes (h : W64) (slots : List W128) : List Byte := leBytes 8 h.toNat ++ (flitSlots slots).flatMap (fun (u : W128) => leBytes 16 u.toNat)

/-- A flit as it leaves, with its CRC. -/
def MclFlit.out (f : MclFlit) : Out := .flit f.hdr (flitSlots f.slots) (crc64 (flitBytes f.hdr f.slots))

def Mcl.owes (q : Mcl) (c : Nat) : Nat := Nat.min 255 (SMap.get (fun _ => 0) q.owed c)

/-- The next flit: up to 15 slots that wait, what is to acknowledge, and the credits owed. -/
def Mcl.nextFlit (q : Mcl) : MclFlit :=
  ⟨mkFlitHdr q.txSeq q.rxSeq q.nak ((List.range 5).foldl (fun a c => a + q.owes c * 2 ^ (8 * c)) 0), q.line.take 15⟩

def Mcl.flitSent (q : Mcl) : Mcl :=
  { q with
    line := q.line.drop 15
    txSeq := (q.txSeq + 1) % 1024
    replay := q.replay ++ [q.nextFlit]
    nak := false
    ackDue := false
    owed := (List.range 5).foldl (fun m c => SMap.set (fun _ => 0) m c (SMap.get (fun _ => 0) m c - q.owes c)) q.owed }

def State.sendFlit (s : State) : State := ({ s with mcl := s.mcl.flitSent }).emit s.mcl.nextFlit.out

/-- The class has a credit: fewer messages have gone than were granted and returned. -/
def Mcl.hasCredit (q : Mcl) (c : Nat) : Bool :=
  decide (SMap.get (fun _ => 0) q.spent c < Config.mclCredits c + SMap.get (fun _ => 0) q.credits c)

/-- Messages take their credits in the order of their class, and their slots follow those that wait, back to back. -/
def mclLoad : List MclMsg → List MclMsg → Mcl → Mcl
  | [], held, q => { q with toSend := held }
  | m :: t, held, q =>
    if held.any (fun h => mclCls h == mclCls m) || !q.hasCredit (mclCls m) then mclLoad t (held ++ [m]) q
    else mclLoad t held { q with
      line := q.line ++ slotsOf m
      spent := SMap.set (fun _ => 0) q.spent (mclCls m) (SMap.get (fun _ => 0) q.spent (mclCls m) + 1) }

/-- Flits that the link sends now: those that the slots fill, or one for what else there is to say; 512 at most wait for an ACK. -/
def Mcl.flitsDue (q : Mcl) : Nat :=
  Nat.min (512 - q.replay.length) (Nat.max ((q.line.length + 14) / 15) (b2n (q.nak || q.ackDue || !q.owed.isEmpty)))

/-- A nanosecond of the link: messages enter flits, and the flits leave. -/
def State.mclTick (s : State) : State :=
  if !s.mclActive then s
  else
    let q := mclLoad s.mcl.toSend [] s.mcl
    (List.range q.flitsDue).foldl (fun s _ => s.sendFlit) { s with mcl := q }

/-- A flit that is sent again: its slots and returns as they were, what it acknowledges as it is now. -/
def Mcl.again (q : Mcl) (f : MclFlit) : Out :=
  MclFlit.out ⟨mkFlitHdr (fSeq f.hdr) q.rxSeq false (fldN f.hdr 0 40), f.slots⟩

/-- Flits not yet acknowledged (R338). -/
def Mcl.unacked (q : Mcl) (ack : Nat) : List MclFlit := q.replay.filter (fun f => decide ((fSeq f.hdr + 1024 - ack % 1024) % 1024 < 512))

/-- A TAG that no outstanding request has, from the running tag on. -/
def Mcl.freeTag (m : Mcl) : Option Nat :=
  ((List.range 4096).find? (fun i => (SMap.get (fun _ => none) m.reqs ((m.nextTag + i) % 4096)).isNone)).map (fun i => (m.nextTag + i) % 4096)

/-- Send a request under a TAG, and remember what its response is for (R341). -/
def State.mclSendReq (s : State) (t : Nat) (q : MclReq) (sink : MclSink) : State :=
  let s := { s with mcl := { s.mcl with
    nextTag := (t + 1) % 4096
    reqs := SMap.set (fun _ => none) s.mcl.reqs t (some sink) } }
  s.mclSend ⟨mkMcl q.opc t q.part q.lenM1 q.psn 0 q.addr, q.lines⟩

def MclWait.isReq : MclWait → Bool
  | .req _ _ => true
  | _ => false

def MclSink.isPost : MclSink → Bool
  | .post _ _ => true
  | _ => false

/-- Send a request, or let it wait for a TAG behind those that wait already: requests leave in order (R341). With the link down a record's
write and an MSI wait for it, and nothing else does (R354). -/
def State.mclGo (s : State) (q : MclReq) (sink : MclSink) : State :=
  if !s.mclActive then (if sink.isPost then { s with mcl := { s.mcl with queue := s.mcl.queue ++ [MclWait.req q sink] } } else s)
  else match (if s.mcl.queue.any MclWait.isReq then none else s.mcl.freeTag) with
    | some t => s.mclSendReq t q sink
    | none => { s with mcl := { s.mcl with queue := s.mcl.queue ++ [MclWait.req q sink] } }

/-- A request whose response is for `sink`. -/
def State.mclReq (s : State) (opc : Nat) (part : PartId) (addr : W64) (lines : List (BitVec 512)) (lenM1 : Nat) (psn : Byte)
    (sink : MclSink) : State := s.mclGo ⟨opc, part, addr, lines, lenM1, psn⟩ sink

/-- A write or an interrupt, kept until the companion acknowledges it; a NOTIFY may wait for that. -/
def State.mclPost (s : State) (opc : Nat) (part : PartId) (addr : W64) (lines : List (BitVec 512)) (lenM1 : Nat) (psn : Byte)
    (note : Option (CoreId × CtxId × Nat)) : State :=
  s.mclGo ⟨opc, part, addr, lines, lenM1, psn⟩ (.post note ⟨opc, part, addr, lines, lenM1, psn⟩)

/-! ## Training (R339) -/

/-- Version code of the highest version in both masks; 0 for none. -/
def mclCommon (mask : BitVec 3) : Nat := if mask.getLsbD 2 then 3 else if mask.getLsbD 1 then 2 else if mask.getLsbD 0 then 1 else 0

/-- Send the module's mask 0b111 and its choice, 0 for none yet. -/
def State.mclTrainMsg (s : State) (choice : Nat) : State := s.emit (.training 0b111 (BitVec.ofNat 2 choice))

/-- The link starts training: nothing of its state, its replay buffer and its credits is left. -/
def State.mclTrain (s : State) : State :=
  let s := ((s.setDN mclStateKey 1).setDN mclVerKey 0).setDN (dk 0x2A00 4) 0
  { s with mcl := { s.mcl with rxSeq := 0, txSeq := 0, nak := false, msReplays := 0, credits := [], spent := [], owed := [], ackDue := false, toSend := [], line := [], replay := [], rx := [] } }.mclTrainMsg 0

/-! ## Windows (R343) -/

structure Win where
  idx : Fin 64
  base : Nat
  size : Nat
  part : PartId
  kind : Nat
  nirq : Bool
  deriving DecidableEq, Repr

def winKey (w : Fin 64) (sub : Nat) : Nat := dk (0x2A10 + w.val) sub

/-- Window as its entries in force describe it; sizes in bytes. -/
def State.winRaw (s : State) (w : Fin 64) : Win :=
  let a := s.df (winKey w 3)
  ⟨w, s.dfN (winKey w 1), s.dfN (winKey w 2) * 4096, partOf (fldN a 0 4), fldN a 4 3, bitAt a 7⟩

def winLimit (ver : Nat) : Nat := if ver = 1 then 8 else if ver = 2 then 16 else 64
def ringLimit (ver : Nat) : Nat := if ver = 1 then 1 else 4

def winOverlap (a b : Win) : Bool := decide (a.base < b.base + b.size ∧ b.base < a.base + a.size)

/-- Windows that are on for the link's version: of kinds 1 to 5, below the version's limit, overlapping no other, within the
allowance of rings, and the lowest of their partition for kinds 2, 4 and 5 (R343). -/
def State.windows (s : State) : List Win :=
  let ver := s.mclVer
  let all := ((List.finRange 64).map s.winRaw).filter (fun w =>
    decide (1 ≤ w.kind ∧ w.kind ≤ 5 ∧ w.idx.val < winLimit ver ∧ 0 < w.size))
  let clear := all.filter (fun w => !(all.any (fun v => v.idx ≠ w.idx && winOverlap v w)))
  clear.filter (fun w =>
    let before := clear.filter (fun v => decide (v.idx.val < w.idx.val) && v.part == w.part && v.kind == w.kind)
    if w.kind = 1 then decide (before.length < ringLimit ver)
    else if w.kind = 3 then true else before.isEmpty)

def State.winOf (s : State) (p : PartId) (kind : Nat) : Option Win :=
  s.windows.find? (fun w => w.part == p && w.kind == kind)

/-- A range of companion memory lies in one data window of the partition (R346). -/
def State.inDataWin (s : State) (p : PartId) (a len : Nat) : Bool :=
  s.windows.any (fun w => w.part == p && w.kind == 3 && decide (w.base ≤ a ∧ a + len ≤ w.base + w.size))

/-- The place r of a command ring among its partition's (R348). -/
def State.ringPlace (s : State) (w : Win) : Nat :=
  (s.windows.filter (fun v => v.part == w.part && v.kind == 1 && decide (v.idx.val < w.idx.val))).length

def Mcl.ring (m : Mcl) (w : Fin 64) : Ring := SMap.get (fun _ => Ring.reset) m.rings w.val
def State.setRing (s : State) (w : Fin 64) (r : Ring) : State :=
  { s with mcl := { s.mcl with rings := SMap.set (fun _ => Ring.reset) s.mcl.rings w.val r } }
def Mcl.compOf (m : Mcl) (p : PartId) : CompRing := SMap.get (fun _ => CompRing.reset) m.comp p.val
def State.setComp (s : State) (p : PartId) (c : CompRing) : State :=
  { s with mcl := { s.mcl with comp := SMap.set (fun _ => CompRing.reset) s.mcl.comp p.val c } }

/-! ## Records, DONE words, interrupts, telemetry -/

/-- Send the MSI of a window, or note that its hold-off must end with one (R349). Hold-off states: 0 none, 1 holding, 2 holding with
an MSI due. -/
def State.msi (s : State) (w : Win) : State :=
  let h := SMap.get (fun _ => 0) s.mcl.holdoff w.idx.val
  let set (n : Nat) (s : State) : State :=
    { s with mcl := { s.mcl with holdoff := SMap.set (fun _ => 0) s.mcl.holdoff w.idx.val n } }
  if h = 0 then
    let data := BitVec.ofNat 512 (s.dfN (winKey w.idx 5))
    let s := s.mclPost 0x04 w.part (s.df (winKey w.idx 4)) [data] 0 0 none
    if s.dN (dk 0x2A00 0x0A) = 0 then s else set 1 s
  else set 2 s

/-- The DONE words of a partition's command rings (R348). -/
def State.doneWords (s : State) (p : PartId) : BitVec 512 :=
  let rings := s.windows.filter (fun v => v.part == p && v.kind == 1)
  BitVec.ofNat 512 (((List.range rings.length).zip rings).foldl (fun a e => a + (s.mcl.ring e.2.idx).doneSeq.toNat * 2 ^ (32 * e.1)) 0)

/-- Write one record with its PHASE, and the MSI it calls for (R348, R349). -/
def State.writeRecord (s : State) (p : PartId) (w : Win) (rec : BitVec 512) (irq : Bool) (note : Option (CoreId × CtxId × Nat)) :
    State :=
  let c := s.mcl.compOf p
  let n := (w.size - 4096) / 64
  let phase := if c.prod / n % 2 = 0 then (1#512 <<< (504 : Nat)) else 0
  let s := s.setComp p { c with prod := c.prod + 1 }
  let s := s.mclPost 0x03 p (BitVec.ofNat 64 (w.base + 4096 + 64 * (c.prod % n))) [rec ||| phase] 0 0 note
  if irq || (note.isSome && w.nirq) then s.msi w else s

/-- Room for a record: fewer than N are unconsumed (R348). CONS is a running count (log entry 24). -/
def State.recordRoom (s : State) (p : PartId) (w : Win) : Bool :=
  let c := s.mcl.compOf p
  decide ((BitVec.ofNat 32 c.prod - c.cons).toNat < (w.size - 4096) / 64)

/-- Write a telemetry message, or drop it whole when it does not fit (R352). -/
def State.writeTelem (s : State) (p : PartId) (units : List (BitVec 512)) : State :=
  match s.winOf p 4 with
  | none => s
  | some w =>
    let c := s.mcl.compOf p
    let n := (w.size - 4096) / 64
    if n < (c.tprod - c.tcons).toNat + units.length then s.incD (dkx 0x2A60 p 3)
    else
      let base := c.tprod.toNat
      let s := ((List.range units.length).zip units).foldl (fun s e =>
        s.mclPost 0x03 p (BitVec.ofNat 64 (w.base + 4096 + 64 * ((base + e.1) % n))) [e.2] 0 0 none) s
      let prod := c.tprod + BitVec.ofNat 32 units.length
      let s := s.setComp p { c with tprod := prod }
      s.mclPost 0x03 p (BitVec.ofNat 64 w.base) [prod.zeroExtend 512] 0 0 none

def MclWait.part : MclWait → PartId
  | .record p _ _ _ => p
  | .telem p _ => p
  | .done p _ => p
  | .req q _ => q.part

/-- It waits behind `y`: a record or DONE words behind those of its partition (R348), and anything behind a request (R341). -/
def MclWait.behind (x y : MclWait) : Bool :=
  y.isReq || match x, y with
    | .telem _ _, _ => false
    | _, .telem _ _ => false
    | _, _ => x.part == y.part

/-- A request that reads or writes companion memory lies in a window of its partition; an interrupt and an EVICT do neither (R343). -/
def State.reqInWin (s : State) (q : MclReq) : Bool :=
  q.opc == 0x04 || q.opc == 0x05 ||
    s.windows.any (fun w => w.part == q.part && decide (w.base ≤ q.addr.toNat ∧ q.addr.toNat + 64 * (q.lenM1 + 1) ≤ w.base + w.size))

/-- Send one thing that waits; none when it cannot go. A write that waited over a retrain and lies in no window of the version now in force
is dropped (R343, log entry 92). -/
def State.sendWait (s : State) : MclWait → Option State
  | .record p rec irq note =>
    match s.winOf p 2 with
    | some w => if s.recordRoom p w then some (s.writeRecord p w rec irq note) else none
    | none => none
  | .telem p us => some (s.writeTelem p us)
  | .done p l => (s.winOf p 2).map (fun w => s.mclPost 0x03 p (BitVec.ofNat 64 (w.base + 64)) [l] 0 0 none)
  | .req q k => if s.reqInWin q then s.mcl.freeTag.map (fun t => s.mclSendReq t q k) else some s

/-- What waits goes, in order; what cannot go yet is held, and what it sends may join the queue behind. -/
def flushGo : List MclWait → List MclWait → State → State
  | [], held, s => { s with mcl := { s.mcl with queue := held ++ s.mcl.queue } }
  | x :: t, held, s =>
    if held.any (fun y => x.behind y) || s.mcl.queue.any (fun y => x.behind y) then flushGo t (held ++ [x]) s
    else match s.sendWait x with
      | some s => flushGo t held s
      | none => flushGo t (held ++ [x]) s

def State.flushMcl (s : State) : State :=
  if s.mclActive then flushGo s.mcl.queue [] { s with mcl := { s.mcl with queue := [] } } else s

/-- The queue of R354 is full: telemetry is dropped, blocks stop starting. -/
def State.mclQueueFull (s : State) : Bool := !s.mclActive && decide (256 ≤ s.mcl.queue.length)

/-- Post a record (R348). -/
def State.postRecord (s : State) (p : PartId) (rec : BitVec 512) (irq : Bool) (note : Option (CoreId × CtxId × Nat)) : State :=
  ({ s with mcl := { s.mcl with queue := s.mcl.queue ++ [MclWait.record p rec irq note] } }).flushMcl

/-- Post the DONE words of a partition: they go after the records posted before. -/
def State.postDone (s : State) (p : PartId) : State :=
  ({ s with mcl := { s.mcl with queue := s.mcl.queue ++ [MclWait.done p (s.doneWords p)] } }).flushMcl

/-- A completion record (Table 14-6), PHASE clear. -/
def mkRecord (tag value : W64) (seq : W32) (kind : Nat) (status : Byte) (core : Nat) (ctx : Bool) (p : PartId) (ring : Nat) :
    BitVec 512 :=
  BitVec.ofNat 512 (tag.toNat * 2 ^ 192 + value.toNat * 2 ^ 128 + seq.toNat * 2 ^ 96 + kind * 2 ^ 88 + status.toNat * 2 ^ 80 +
    core % 256 * 2 ^ 72 + b2n ctx * 2 ^ 71 + p.val * 2 ^ 64 + ring % 4)

/-- Send a telemetry message: type 1 phase record, 2 fault record, 3 ladder report (R352). -/
def State.telemetry (s : State) (p : PartId) (type : Nat) (step : W64) (payload : List Byte) : State :=
  let us := linesOfBytes payload
  let hd := BitVec.ofNat 512 (type + (us.length + 1) % 65536 * 2 ^ 8 + step.toNat * 2 ^ 64)
  if (s.winOf p 4).isNone then s
  else if s.mclQueueFull then s.incD (dkx 0x2A60 p 3)
  else ({ s with mcl := { s.mcl with queue := s.mcl.queue ++ [MclWait.telem p (hd :: us)] } }).flushMcl

end Sys2Proof.Machine
end

