-- ==== Sys2Proof/Machine/StashOps.lean ====
section
/-!
DEFINITION. The stash ring and its directory as plain operations on a core's stash (R181 to R186): space, placing, references and
removal.
-/
namespace Sys2Proof.Machine

def stSize (t : Stash) : Nat := t.size.toNat
def stEn (t : Stash) : Bool := bitAt t.ctl 7
def stLowater (t : Stash) : Nat := 64 * fldN t.ctl 16 15
def stDepth (t : Stash) : Nat := fldN t.ctl 4 2
def stAuto (t : Stash) : Bool := bitAt t.ctl 3
/-- Directory entries: 256 x 2^DIRSZ, with 4 to 7 acting as 3 (Table 7-14). -/
def stDir (t : Stash) : Nat := 256 * 2 ^ Nat.min 3 (fldN t.ctl 0 3)
def stSpen (t : Stash) : Bool := bitAt t.spillbase 0
/-- DRAM offset of a directory slot's spill slot (R182). -/
def stSpillOff (t : Stash) (slot : Nat) : Nat := fldN t.spillbase 16 24 * 65536 + 65536 * slot

def stFind (t : Stash) (layer : BitVec 12) (entry : W16) : Option StEntry :=
  t.entries.find? (fun e => e.layer == layer && e.entry == entry)

/-- The entry holds ring space. -/
def StEntry.inRing (e : StEntry) : Bool := e.st != .spilled

def stRing (t : Stash) : List StEntry := t.entries.filter StEntry.inRing

/-- Oldest and newest of the entries that hold ring space. -/
def stOldest (t : Stash) : Option StEntry :=
  match stRing t with
  | [] => none
  | a :: l => some (l.foldl (fun x y => if y.seq < x.seq then y else x) a)
def stNewest (t : Stash) : Option StEntry :=
  match stRing t with
  | [] => none
  | a :: l => some (l.foldl (fun x y => if x.seq < y.seq then y else x) a)

/-- Offset just past an entry. -/
def stEnd (t : Stash) (e : StEntry) : Nat := (e.off + e.len) % Nat.max 1 (stSize t)

/-- The tail is where the oldest entry begins, or the head when the ring is empty; space skipped before it is reclaimed with it
(R184). -/
def stFixTail (t : Stash) : Stash :=
  match stOldest t with
  | some e => { t with tail := e.off }
  | none => { t with tail := t.head }

/-- Bytes of the ring that are free. -/
def stFree (t : Stash) : Nat :=
  if (stRing t).isEmpty then stSize t
  else if t.head = t.tail then 0
  else (t.tail + stSize t - t.head) % Nat.max 1 (stSize t)

/-- Ring offset at which `len` bytes fit at the head without wrapping, or at BASE when they do not fit before the ring's end (R184). -/
def stPlace (t : Stash) (len : Nat) : Option Nat :=
  let n := stSize t
  if n < len then none
  else if (stRing t).isEmpty then some (if t.head + len ≤ n then t.head else 0)
  else if t.head = t.tail then none
  else if t.head < t.tail then (if t.head + len ≤ t.tail then some t.head else none)
  else if t.head + len ≤ n then some t.head
  else if len ≤ t.tail then some 0
  else none

/-- Replace an entry, found by handle. -/
def stPut (t : Stash) (e : StEntry) : Stash :=
  { t with entries := t.entries.map (fun x => if x.layer == e.layer && x.entry == e.entry then e else x) }

/-- Remove an entry. Its ring space goes at the head when it was the newest, else with the tail (R186). -/
def stRemove (t : Stash) (e : StEntry) : Stash :=
  let newest := e.inRing && (match stNewest t with
    | some n => n.seq == e.seq
    | none => false)
  let t := { t with entries := t.entries.filter (fun x => !(x.layer == e.layer && x.entry == e.entry)) }
  let t := if newest then
      { t with head := match stNewest t with
          | some n => stEnd t n
          | none => e.off }
    else t
  stFixTail t

/-- A freed entry that can go: no reference, and RESIDENT or SPILLED (R186). -/
def StEntry.dead (e : StEntry) : Bool := e.freed && e.refs == 0 && (e.st == .resident || e.st == .spilled)

def stReapGo : Nat → Stash → Stash
  | 0, t => t
  | n + 1, t => match t.entries.find? StEntry.dead with
    | some e => stReapGo n (stRemove t e)
    | none => t

/-- Remove every entry that can go. -/
def stReap (t : Stash) : Stash := stReapGo t.entries.length t

/-- Add `up` references to an entry, or take one away. -/
def stRef (t : Stash) (h : BitVec 12 × W16) : Stash :=
  match stFind t h.1 h.2 with
  | some e => stPut t { e with refs := e.refs + 1 }
  | none => t
def stUnref (t : Stash) (h : BitVec 12 × W16) : Stash :=
  match stFind t h.1 h.2 with
  | some e => stPut t { e with refs := e.refs - 1 }
  | none => t

/-- Drop the references of a command that completes. -/
def stDropRefs (t : Stash) (refs : List (BitVec 12 × W16)) : Stash :=
  if refs.isEmpty then t else stReap (refs.foldl stUnref t)

/-- Lowest free directory slot. -/
def stSlot (t : Stash) : Option Nat :=
  (List.range (stDir t)).find? (fun d => t.entries.all (fun e => e.slot ≠ d))

/-- Take ring space for an entry at the head. -/
def stClaim (t : Stash) (e : StEntry) (off : Nat) : Stash :=
  let e := { e with off := off, seq := t.nextSeq }
  let t := { t with nextSeq := t.nextSeq + 1, head := stEnd t e }
  if (stFind t e.layer e.entry).isSome then stFixTail (stPut t e) else stFixTail { t with entries := t.entries ++ [e] }

/-- Ring key of a core's entry. -/
def stRingKey (c : CoreId) (t : Stash) (off : Nat) : Nat := ckey c (t.base.toNat + off)
/-- Key of an entry's data, wherever it lies (R185). -/
def stDataKey (c : CoreId) (t : Stash) (e : StEntry) : Nat :=
  if e.st == .spilled then mkey 0 (stSpillOff t e.slot) else stRingKey c t e.off

def State.modStash (s : State) (c : CoreId) (f : Stash → Stash) : State := s.modCore c (fun k => { k with stash := f k.stash })
def State.stash (s : State) (c : CoreId) : Stash := (s.core c).stash

end Sys2Proof.Machine
end

