-- ==== Sys2Proof/Machine/Objects.lean ====
section
/-!
DEFINITION. Jobs of a core and how they end without a halting status; synchronisation objects, the waits they meet and the re-base
(R165, R166, R289 to R300).
-/
namespace Sys2Proof.Machine

/-! ## Tokens and jobs -/

def Ctx.tok (x : Ctx) (t : Nat) : W16 := SMap.get (fun _ => 0) x.toks t
def Ctx.setTok (x : Ctx) (t : Nat) (v : W16) : Ctx := { x with toks := SMap.set (fun _ => 0) x.toks t v }

/-- A wait on a token (R165). -/
def tokMet (tok w : W16) : Bool := decide ((tok - w).toNat < 2 ^ 15)

def Ctx.job (x : Ctx) (id : Nat) : Option Job := x.jobs.find? (fun j => j.id == id)
def Ctx.modJob (x : Ctx) (id : Nat) (f : Job → Job) : Ctx :=
  { x with jobs := x.jobs.map (fun j => if j.id == id then f j else j) }
def State.modJob (s : State) (c : CoreId) (x : CtxId) (id : Nat) (f : Job → Job) : State :=
  s.modCtx c x (fun k => k.modJob id f)
def State.job (s : State) (c : CoreId) (x : CtxId) (id : Nat) : Option Job := (s.ctx c x).job id

/-- The partition of a context; 0 for one that no configuration has assigned. -/
def State.partD (s : State) (c : CoreId) (x : CtxId) : PartId := (s.ctx c x).part.getD 0

/-- Token ST rises by one when a command with SE completes (R165). -/
def Ctx.signal (x : Ctx) (j : Job) : Ctx := if j.se then x.setTok j.st.toNat (x.tok j.st.toNat + 1) else x

/-- A command completes: it leaves the commands in progress, signals its token, and drops its guards and references (R165, R186,
R189). -/
def State.closeJob (s : State) (c : CoreId) (x : CtxId) (j : Job) : State :=
  let s := s.modCtx c x (fun k => ({ k with jobs := k.jobs.filter (fun i => i.id ≠ j.id) }).signal j)
  match x with
  | .filler => s
  | .primary => s.modCore c (fun k => { k with
      dq := { k.dq with guards := k.dq.guards.filter (fun g => g.id ≠ j.id) }
      stash := stDropRefs k.stash j.refs })

/-- Complete with status OK or another status that does not halt. -/
def State.closeId (s : State) (c : CoreId) (x : CtxId) (id : Nat) : State :=
  match s.job c x id with
  | some j => s.closeJob c x j
  | none => s

def streamsOf : CtxId → List StreamId
  | .primary => [.s0, .s1]
  | .filler => [.s2]

def allStreams : List StreamId := [.s0, .s1, .s2]

def State.clearWait (s : State) (c : CoreId) (st : StreamId) : State := s.modStream c st (fun t => { t with wait := none })

/-! ## Objects (R289, R290) -/

def Obj.word (o : Obj) : W64 := o.epoch ++ o.count
def Obj.ownerOk (o : Obj) : Bool := o.ownerN == ~~~o.owner
def Obj.claimed (o : Obj) : Bool := bitAt o.owner 25
def ownerWord (dev : W16) (core : Byte) (ctx : Bool) : BitVec 26 :=
  BitVec.ofNat 26 (2 ^ 25 + dev.toNat * 2 ^ 9 + core.toNat * 2 + b2n ctx)
def Obj.setOwner (o : Obj) (w : BitVec 26) : Obj := { o with owner := w, ownerN := ~~~w }
def Obj.drop (o : Obj) : Obj := { o with drops := if o.drops = 0xFFFF then o.drops else o.drops + 1 }

/-- Period of a context (R299). -/
def State.rebaseN (s : State) (p : PartId) : Nat := s.dN (dkx 0x2900 p 1)
def State.periodOf (s : State) (c : CoreId) (x : CtxId) : Nat :=
  match (s.ctx c x).part with
  | some p => if s.rebaseN p = 0 then 0 else (s.ctx c x).step.toNat / s.rebaseN p
  | none => 0

/-- The condition of a SYNCWAIT (R294); TAKE is met as GE is. -/
def condMet (cond : BitVec 2) (count val : BitVec 48) : Bool :=
  if cond = 1 then count == val else decide ((count - val).toNat < 2 ^ 47)

/-- What a pending wait meets at an evaluation (R294). -/
inductive WaitRes where
  | hold
  | met
  | lost
  deriving DecidableEq, Repr

def waitRes (o : Obj) (cond : BitVec 2) (val : BitVec 48) (epoch : W16) : WaitRes :=
  if o.epoch ≠ epoch then .lost else if condMet cond o.count val then .met else .hold

/-- The wait that a stream holds on an object. -/
def waitOn (t : Stream) (k : Nat) : Option (Nat × BitVec 2 × BitVec 48 × W16) :=
  match t.wait with
  | some (.sync id obj cond val epoch _ _ _) => if obj = k then some (id, cond, val, epoch) else none
  | _ => none

/-- Complete the GE and EQ waits of an object that its value meets. -/
def State.meetPlain (s : State) (c : CoreId) (k : Nat) : State :=
  allStreams.foldl (fun s st =>
    match waitOn (s.stream c st) k with
    | some (id, cond, val, epoch) =>
      if cond ≠ 2 ∧ waitRes (s.obj c k) cond val epoch = .met then (s.clearWait c st).closeId c (streamCtx st) id else s
    | none => s) s

/-- Streams in the order in which the dispatcher's port grants TAKEs (R302). -/
def takeOrder (p : Nat) : List StreamId := allStreams.drop (p % 3) ++ allStreams.take (p % 3)

/-- The TAKE wait that is granted next, if any is met. -/
def State.nextTake (s : State) (c : CoreId) (k : Nat) : Option (StreamId × Nat × BitVec 48) :=
  (takeOrder (s.core c).takePtr).findSome? (fun st =>
    match waitOn (s.stream c st) k with
    | some (id, cond, val, epoch) =>
      if cond = 2 ∧ waitRes (s.obj c k) cond val epoch = .met then some (st, id, val) else none
    | none => none)

/-- Objects of a context on its core that are not in their reset state, by index. -/
def State.objsOf (s : State) (c : CoreId) (x : CtxId) : List Nat :=
  ((s.objs.filter (fun e => decide (e.1 / 4096 = c.val))).map (fun e => e.1 % 4096)).eraseDups.filter (fun k => s.objCtx c k == x)

end Sys2Proof.Machine
end

