-- ==== Sys2Proof/Machine/Route.lean ====
section
/-!
DEFINITION. Packets and their paths: headers (R235, R236), planes, gateways and virtual channels (R246 to R251, R436), leaving by a
port under credits (R244), and the requests of this module's units (R239).
-/
namespace Sys2Proof.Machine

/-! ## Headers (R235) -/

def pTag (h : W128) : BitVec 12 := fld h 92 12
def pSrc (h : W128) : W16 := fld h 104 16
def pPsn (h : W128) : Byte := fld h 84 8
def pLen (h : W128) : Nat := fldN h 79 5 + 1
def pOpc (h : W128) : Nat := fldN h 74 5
def pTc (h : W128) : Nat := fldN h 71 3
def pVc (h : W128) : BitVec 2 := fld h 69 2
def pPart (h : W128) : PartId := partOf (fldN h 65 4)
def pAddr (h : W128) : W64 := fld h 0 64
def pDst (h : W128) : W16 := fld h 48 16

/-- A header with its check. -/
def mkHdr (src : W16) (tag : BitVec 12) (psn : Byte) (lenM1 opc tc : Nat) (vc : BitVec 2) (part : PartId) (lc : Bool)
    (addr : W64) : W128 :=
  sealHdr (BitVec.ofNat 128 (src.toNat * 2 ^ 104 + tag.toNat * 2 ^ 92 + psn.toNat * 2 ^ 84 + lenM1 % 32 * 2 ^ 79 +
    opc % 32 * 2 ^ 74 + tc % 8 * 2 ^ 71 + vc.toNat * 2 ^ 69 + part.val * 2 ^ 65 + b2n lc * 2 ^ 64 + addr.toNat))

/-- The header with another VC and a fresh HCHK (R236). -/
def withVc (h : W128) (vc : BitVec 2) : W128 :=
  sealHdr (fld h 0 69 |>.zeroExtend 128 |>.or (vc.zeroExtend 128 <<< (69 : Nat)) |>.or
    ((fld h 71 49).zeroExtend 128 <<< (71 : Nat)))

/-- ADDR of a response (R239): requester, kind and number of its unit, status. -/
def rspAddr (dev : W16) (kind : Nat) (unit : Byte) (status : Nat) : W64 :=
  BitVec.ofNat 64 (dev.toNat * 2 ^ 48 + kind % 4 * 2 ^ 38 + unit.toNat * 2 ^ 30 + status % 16 * 2 ^ 26)

/-- Data units of bytes, little-endian; the last one padded with zeros. -/
def unitsOfBytes (l : List Byte) : List W128 :=
  (chunksOf 16 (l.length / 16 + 1) l).map (fun c => BitVec.ofNat 128 (ofLe c))

def bytesOfUnits (l : List W128) : List Byte := l.flatMap (fun u => leBytes 16 u.toNat)

/-! ## Plans (R257) -/

/-- A field of the plan header. -/
def planFld (p : List Byte) (lo len : Nat) : Nat := ofLe (p.take 32) / 2 ^ lo % 2 ^ len
def planId (p : List Byte) : Nat := planFld p 224 32
def planPlanes (p : List Byte) : Nat := planFld p 208 8
def planPver (p : List Byte) : Nat := planFld p 204 4
def planKind (p : List Byte) : Nat := planFld p 200 4
def planNax (p : List Byte) : Nat := planFld p 196 4
def planWrap (p : List Byte) (a : Nat) : Bool := planFld p (192 + a) 1 == 1
def planSize (p : List Byte) (a : Nat) : Nat := planFld p (144 + 16 * a) 16
def planTreeK (p : List Byte) : Nat := planFld p 128 16
def planLo (p : List Byte) (a : Nat) : Nat := planFld p (32 + 32 * a) 16
def planHi (p : List Byte) (a : Nat) : Nat := planFld p (48 + 32 * a) 16
/-- Port record n. -/
def planPort (p : List Byte) (n : Nat) : W32 := BitVec.ofNat 32 (ofLe ((p.drop (32 + 4 * n)).take 4))
/-- Gateway list of a direction: slot and G port of each entry. -/
def planGates (p : List Byte) (dir : Nat) : List (Nat × Nat) :=
  let l := (p.drop (96 + 192 * dir)).take 192
  let cnt := Nat.min (ofLe (l.take 2)) 64
  (List.range cnt).map (fun i =>
    let e := ofLe ((l.drop (2 + 2 * i)).take 2)
    (e % 64, e / 256 % 2))

/-- Coordinate of a rack on an axis (R247). -/
def rackCoord (p : List Byte) (rack a : Nat) : Nat :=
  match a with
  | 0 => rack % planSize p 0
  | 1 => rack / planSize p 0 % planSize p 1
  | _ => rack / (planSize p 0 * planSize p 1)

/-- Racks of the slice (R257): every axis in bounds for a torus; a tree's slice and a single rack's bounds are on axis 0. -/
def inSlice (p : List Byte) (rack : Nat) : Bool :=
  if planKind p = 1 then
    (List.range (planNax p)).all (fun a => decide (planLo p a ≤ rackCoord p rack a ∧ rackCoord p rack a ≤ planHi p a))
  else decide (planLo p 0 ≤ rack ∧ rack ≤ planHi p 0)

/-- On an axis from s to t: whether the route goes up, and whether it wraps (R248). -/
def axisWay (p : List Byte) (a s t : Nat) : Bool × Bool :=
  let n := planSize p a
  if planWrap p a then
    let f := (t + n - s) % n
    let b := (s + n - t) % n
    let up := decide (f ≤ b)
    (up, if up then decide (t < s) else decide (s < t))
  else (decide (s < t), false)

/-- First axis on which two racks differ. -/
def firstAxis (p : List Byte) (r t : Nat) : Option Nat :=
  (List.range (planNax p)).find? (fun a => decide (rackCoord p r a ≠ rackCoord p t a))

def lastAxis (p : List Byte) (r t : Nat) : Option Nat :=
  (List.range (planNax p)).reverse.find? (fun a => decide (rackCoord p r a ≠ rackCoord p t a))

/-- Chain of a rack and its ancestors in a tree of arity K, nearest first. -/
def ancestors (k : Nat) : Nat → Nat → List Nat
  | 0, r => [r]
  | n + 1, r => if r = 0 then [0] else r :: ancestors k n ((r - 1) / k)

/-- Direction from a rack to a target rack, whether the packet has crossed the wrap link of that axis, and whether it crosses it on its way out
(R247, R248). `src` is the rack where it started. -/
def nextDir (p : List Byte) (src here dst : Nat) : Option (Nat × Bool × Bool) :=
  match planKind p with
  | 1 =>
    match firstAxis p here dst with
    | none => none
    | some a =>
      let s := rackCoord p src a
      let c := rackCoord p here a
      let t := rackCoord p dst a
      let (up, wraps) := axisWay p a s t
      let crossed := wraps && (if up then decide (c < s) else decide (s < c))
      let crossing := wraps && (if up then decide (c + 1 = planSize p a) else decide (c = 0))
      some (if up then 2 * a else 2 * a + 1, crossed, crossing)
  | 2 =>
    let k := planTreeK p
    let chain := ancestors k 12 dst
    match (chain.zip (chain.drop 1)).find? (fun e => decide (e.2 = here)) with
    | some (child, _) => some (child - k * here, false, false)
    | none => some (0, false, false)
  | _ => none

/-- VC B held in the last rack (R248). -/
def lastVcB (p : List Byte) (src dst : Nat) : Bool :=
  if planKind p = 1 then
    match lastAxis p src dst with
    | some a => (axisWay p a (rackCoord p src a) (rackCoord p dst a)).2
    | none => false
  else false

/-! ## Ports -/

def portState (n : PortId) : Nat := dk (0x2301 + n.val) 1
def State.portActive (s : State) (n : PortId) : Bool := s.dN (portState n) == 2
def portOwner (n : PortId) : Nat := dk (0x2301 + n.val) 9

def rackOf (dev : W16) : Nat := dev.toNat / 64
def slotOf (dev : W16) : Nat := dev.toNat % 64

/-- Planes of a bit set, ascending. -/
def planesOf (m : Nat) : List Nat := (List.range 8).filter (fun n => decide (m / 2 ^ n % 2 = 1))

/-- What routes a packet: the bytes of a plan, its plane list, and the ports in use under it (R250). -/
structure PathPlan where
  bytes : List Byte
  planes : List Nat
  used : Nat
  deriving DecidableEq, Repr

/-- The plan a partition's packets follow: the accepted one (R250, R436). -/
def State.planOf (s : State) (p : PartId) : Option PathPlan :=
  if s.dN (dkx 0x2330 p 3) = 2 then some ⟨(s.part p).plan, planesOf (s.dN (dkx 0x2330 p 6)), s.dN (dkx 0x2330 p 5)⟩ else none

/-- The plan of the module task (R436): every active plane in the own rack; to another rack, the lowest partition's plan whose slice
holds both racks. -/
def State.taskPlan (s : State) (src dst : W16) : Option PathPlan :=
  if rackOf src = rackOf dst then
    some ⟨[], (List.range 8).filter (fun n => s.dN (dk (0x2301 + n) 1) == 2), 0⟩
  else
    (allParts.filterMap (fun p => s.planOf p)).find? (fun q => inSlice q.bytes (rackOf src) && inSlice q.bytes (rackOf dst))

/-- Index of the plane for a pair (R246). -/
def planeIdx (u : Nat) (src dst : W16) (n : Nat) : Nat := (u + slotOf src + slotOf dst + rackOf dst) % n

def portN (n : Nat) : PortId := ⟨n % 10, Nat.mod_lt _ (by decide)⟩

/-- Virtual channel v = 4 x class + VC code (Table 10-1). -/
def vcIdx (tc : Nat) (vc : BitVec 2) : Nat := 4 * tc + vc.toNat

/-- Credits of a VC; 66 units before any FLOW returns more (R244, log entry 23). -/
def Port.credit (q : Port) (v : Nat) : Nat := SMap.get (fun _ => 66) q.credits v
def Port.setCredit (q : Port) (v n : Nat) : Port := { q with credits := SMap.set (fun _ => 66) q.credits v n }

/-- Of the planes with an active port, the one a sprayed packet takes (R251): most free credit under EPL3, in rotation before. -/
def State.sprayPlane (s : State) (planes : List Nat) (pver tc : Nat) (vc : BitVec 2) : Option Nat :=
  let act := planes.filter (fun n => s.portActive (portN n))
  match act with
  | [] => none
  | a :: t =>
    if pver = 3 then
      some (t.foldl (fun b n => if (s.portSt (portN b)).credit (vcIdx tc vc) < (s.portSt (portN n)).credit (vcIdx tc vc) then n else b) a)
    else some (act.getD (s.spray % act.length) a)

/-- A port and the VC code on it. -/
structure Hop where
  port : PortId
  vc : BitVec 2
  deriving DecidableEq, Repr

/-- The next hop of a packet of class `tc` from `src` to `dst` at this module (R246 to R249). `u` is the route number, `blk` says that
it is sprayed. A gateway of this module is left out of the list where the plan's own G port is not in use (Table 10-9). The packet moves
to VC B with the hop that crosses the wrap link. -/
def State.nextHop (s : State) (pl : PathPlan) (u : Nat) (src dst : W16) (part : PartId) (tc : Nat) (blk : Bool) : Option Hop :=
  let own := s.ownDev
  let pver := s.dN (dkx 0x2330 part 7)
  let plane (b : Bool) : Option Nat :=
    if blk then s.sprayPlane pl.planes pver tc (if b then 1 else 0)
    else if pl.planes.isEmpty then none else some (pl.planes.getD (planeIdx u src dst pl.planes.length) 0)
  let onPlane (b : Bool) : Option Hop := (plane b).map (fun n => ⟨portN n, if b then 1 else 0⟩)
  if rackOf own = rackOf dst then onPlane (lastVcB pl.bytes (rackOf src) (rackOf dst))
  else
    match nextDir pl.bytes (rackOf src) (rackOf own) (rackOf dst) with
    | none => none
    | some (dir, crossed, crossing) =>
      let gates := (planGates pl.bytes dir).filter (fun g => g.1 ≠ slotOf own || decide (pl.used / 2 ^ (8 + g.2) % 2 = 1))
      if gates.isEmpty then none
      else
        let i := if blk then s.spray % gates.length else (u + slotOf src + slotOf dst) % gates.length
        let g := gates.getD i (0, 0)
        if g.1 = slotOf own then
          let n := portN (8 + g.2)
          let transit := s.dN (portOwner n) ≠ part.val && decide (pver ≠ 1)
          some ⟨n, (if crossed || crossing then 1 else 0) + (if transit then 2 else 0)⟩
        else onPlane crossed

/-! ## Framing (R228, R230) -/

/-- The FLOW that a port sends (Table 10-1): the codeword it expects, its NAK, and its credit returns. -/
def Port.flow (q : Port) : W256 :=
  BitVec.ofNat 256 (2 ^ 248 + q.rxSeq.toNat * 2 ^ 232 + b2n q.nak * 2 ^ 231 +
    (List.range 20).foldl (fun a v => a + Nat.min (SMap.get (fun _ => 0) q.ret v) 255 * 2 ^ (64 + 8 * v)) 0)

/-- Credit returns that have left. -/
def Port.flowed (q : Port) : Port :=
  { q with ret := (List.range 20).foldl (fun m v => SMap.set (fun _ => 0) m v (SMap.get (fun _ => 0) m v - 255)) q.ret }

/-- Data flits of units, two to a flit, the last one filled up with an idle unit. -/
def dataFlits : List W128 → List CwSlot
  | [] => []
  | [a] => [.data a 0]
  | a :: b :: t => .data a b :: dataFlits t

/-- The next codeword of a port: a FLOW in slot 0 of an even-numbered one, data flits while units are ready, and FLOWs behind them. It is kept
for replay with the 1,023 before it. -/
def Port.frame (q : Port) : Port :=
  let first := !q.txSeq.getLsbD 0
  let room := if first then 38 else 40
  let us := q.line.take room
  let flits := dataFlits us
  let head : List CwSlot := if first then [.lcf q.flow] else []
  let q' := if first then q.flowed else q
  let slots := head ++ flits ++ List.replicate (20 - head.length - flits.length) (.lcf { q' with ret := [] }.flow)
  let rp := q.replay ++ [(q.txSeq, slots)]
  { q' with
    line := q.line.drop room
    txSeq := q.txSeq + 1
    replay := rp.drop (rp.length - 1024) }

/-- One nanosecond on a line: a codeword of 5,440 bits takes 170/64 ns at 2,048 Gbit/s. None leaves during a lane swap (R226). -/
def Port.lineTick (q : Port) : Port :=
  if q.swapping then q
  else if q.lineAcc + 64 < 170 then { q with lineAcc := q.lineAcc + 64 }
  else { q with lineAcc := q.lineAcc + 64 - 170 }.frame

/-- Units of a packet that has left the port's receive buffer are credits to return (R244). -/
def State.freeBuffer (s : State) (p : Packet) : State :=
  match p.port with
  | none => s
  | some n => s.modPort n (fun q =>
      let v := vcIdx (pTc p.hdr) (pVc p.hdr)
      { q with ret := SMap.set (fun _ => 0) q.ret v (SMap.get (fun _ => 0) q.ret v + (p.data.length + 1)) })

/-! ## Sending -/

/-- Hand a packet to the line of a port, taking its credits. Packets pack back to back there (R228). -/
def State.launch (s : State) (n : PortId) (p : Packet) : State :=
  let q := s.portSt n
  let v := vcIdx (pTc p.hdr) (pVc p.hdr)
  let us := p.hdr :: p.data
  let q := q.setCredit v (q.credit v - us.length)
  (s.setPort n { q with line := q.line ++ us }).emit (.packet n { p with port := none })

/-- A packet may leave: enough credits for its whole length, and none of its VC waits before it (R244). -/
def Port.mayLaunch (q : Port) (ahead : List Packet) (p : Packet) : Bool :=
  let v := vcIdx (pTc p.hdr) (pVc p.hdr)
  decide (p.data.length + 1 ≤ q.credit v) && ahead.all (fun x => vcIdx (pTc x.hdr) (pVc x.hdr) ≠ v) && !q.swapping

/-- Hand a packet to a port. A port that is not active loses it (R227). -/
def State.toPort (s : State) (n : PortId) (p : Packet) : State :=
  if !s.portActive n then s
  else
    let q := s.portSt n
    if q.mayLaunch q.txq p then s.launch n p else s.setPort n { q with txq := q.txq ++ [p] }

/-- Priority of a class at an egress (R245): management, then responses, then requests. -/
def tcRank (p : Packet) : Nat := if pTc p.hdr = 4 then 0 else if pTc p.hdr = 3 then 1 else 2

/-- Let waiting packets leave as far as credits allow, by class (R245). -/
def drainGo (n : PortId) : Nat → List Packet → List Packet → State → State
  | _, [], held, s => s.modPort n (fun q => { q with txq := held })
  | 0, l, held, s => s.modPort n (fun q => { q with txq := held ++ l })
  | k + 1, p :: t, held, s =>
    if (s.portSt n).mayLaunch held p then drainGo n k t held (s.launch n p) else drainGo n k t (held ++ [p]) s

def State.drainPort (s : State) (n : PortId) : State :=
  let l := (s.portSt n).txq
  let l := l.filter (fun p => tcRank p = 0) ++ l.filter (fun p => tcRank p = 1) ++ l.filter (fun p => tcRank p = 2)
  drainGo n l.length l [] s

/-- Send a packet made by this module under a partition's plan; none when no path exists (R436). -/
def State.sendPlan (s : State) (pl : Option PathPlan) (u : Nat) (p : Packet) : Option State :=
  match pl with
  | none => none
  | some pl =>
    let blk := pTc p.hdr = 2
    match s.nextHop pl u (pSrc p.hdr) (pDst p.hdr) (pPart p.hdr) (pTc p.hdr) blk with
    | none => none
    | some h =>
      let s := if blk then { s with spray := s.spray + 1 } else s
      some (s.toPort h.port { p with hdr := withVc p.hdr h.vc })

/-- Route numbers (R246): cores, collective engines, management complex. -/
def routeNo (kind : Nat) (unit : Nat) : Nat := if kind = 0 then unit else if kind = 1 then 16 * unit else 0xC0

/-- A module-task message to another module: MSG on TC-MGT (R388, R436). -/
def State.sendMsg (s : State) (part : PartId) (dst : W16) (units : List W128) : State :=
  let tag := BitVec.ofNat 12 s.nextTag
  let h := mkHdr s.ownDev tag 0 (units.length - 1) 0x14 4 0 part false (dst.zeroExtend 64 <<< (48 : Nat))
  if s.ownDev = 0xFFFF then s
  else
    let s' := { s with nextTag := (s.nextTag + 1) % 4096 }
    match s'.sendPlan (s'.taskPlan s.ownDev dst) 0xC0 ⟨h, units, none⟩ with
    | some s' => s'
    | none => s

/-- The module task can reach a module (R436). -/
def State.reaches (s : State) (dst : W16) : Bool :=
  match s.taskPlan s.ownDev dst with
  | none => false
  | some pl => (s.nextHop pl 0xC0 s.ownDev dst 0 4 false).isSome

/-! ## Requests (R239) -/

def reqKey (kind : Nat) (unit : Nat) (tag : Nat) : Nat := ((kind * 256 + unit) * 4096) + tag
def State.req (s : State) (k : Nat) : Option Req := SMap.get (fun _ => none) s.reqs k
def State.setReq (s : State) (k : Nat) (r : Option Req) : State := { s with reqs := SMap.set (fun _ => none) s.reqs k r }

/-- A free TAG of a unit, searched from the module's running tag; none when 4,096 are outstanding. -/
def State.freeTag (s : State) (kind unit : Nat) : Option Nat :=
  (List.range 4096).find? (fun i => (s.req (reqKey kind unit ((s.nextTag + i) % 4096))).isNone)
    |>.map (fun i => (s.nextTag + i) % 4096)

/-- The partition's path version, 3 before any plan. -/
def State.pver (s : State) (p : PartId) : Nat := if s.dN (dkx 0x2330 p 7) = 0 then 3 else s.dN (dkx 0x2330 p 7)

/-- Largest data per packet (Table 10-2). -/
def maxPkt (pver : Nat) : Nat := if pver = 1 then 256 else 512

/-- PSN of poison flags per 64-byte unit (R241). -/
def mkPsn (pver : Nat) (len : Nat) (ps : List Bool) : Byte :=
  if pver = 3 ∧ 64 ≤ len then
    BitVec.ofNat 8 ((List.range 8).foldl (fun a i => a + b2n (ps.getD i false) * 2 ^ i) 0)
  else if ps.any id then 1 else 0

/-- Poison flags of the units of a packet (R241). -/
def psnUnits (pver : Nat) (len : Nat) (psn : Byte) : List Bool :=
  let n := (len + 63) / 64
  if pver = 3 ∧ 64 ≤ len then (List.range n).map (fun i => bitAt psn i) else List.replicate n (bitAt psn 0)

end Sys2Proof.Machine
end

