-- ==== Sys2Proof/Machine/Faults.lean ====
section
/-!
DEFINITION. Faults and their log (R319, R322 to R324), voiding a partition's steps (R320), the completion of commands with a status
(R167), and the commands that complete when others have (R166, R170, R172).
-/
namespace Sys2Proof.Machine

/-! ## Fault log (R324) -/

/-- A fault: code of Table 13-3, class (0 DIRTY, 1 STOP, 2 NOTE), and what its record holds. -/
structure FaultInfo where
  code : Nat
  cls : Nat
  part : PartId
  step : W64
  unit : Nat
  ctx : Bool
  detail : Nat
  deriving DecidableEq, Repr

def mkFaultRec (now : W64) (dev : W16) (f : FaultInfo) : BitVec 256 :=
  BitVec.ofNat 256 (now.toNat * 2 ^ 192 + f.step.toNat * 2 ^ 128 + f.detail % 2 ^ 64 * 2 ^ 64 + f.code % 256 * 2 ^ 40 +
    f.cls % 4 * 2 ^ 38 + f.part.val * 2 ^ 32 + dev.toNat * 2 ^ 16 + f.unit % 256 * 2 ^ 8 + b2n f.ctx * 2 ^ 7)

def frTime (r : BitVec 256) : Nat := fldN r 192 64
def frCode (r : BitVec 256) : Nat := fldN r 40 8
def frCls (r : BitVec 256) : Nat := fldN r 38 2
def frPart (r : BitVec 256) : Nat := fldN r 32 4

/-- ERROR_REGISTER (entry 0x1001): bit 0 a STOP record is in the log, bit 7 any record is. -/
def State.errorRegister (s : State) : Byte :=
  BitVec.ofNat 8 (b2n (s.faults.any (fun r => frCls r == 1)) + 128 * b2n (!s.faults.isEmpty))

/-- Node ID of P-CAN (R363). -/
def State.nodeId (s : State) : Byte := (s.board.slotId.setWidth 8) + 1

/-- Slot of the oldest NOTE record. -/
def oldestNote (l : List (BitVec 256)) : Option Nat :=
  let cs := ((List.range l.length).zip l).filter (fun e => frCls e.2 == 2)
  match cs with
  | [] => none
  | a :: t => some (t.foldl (fun x y => if frTime y.2 < frTime x.2 then y else x) a).1

/-- Enter a fault in the log, and send it as EMCY and as telemetry (R324, R364). -/
def State.logFault (s : State) (f : FaultInfo) : State :=
  let now := s.now.toNat
  if s.faults.any (fun r => frCode r == f.code && frPart r == f.part.val && decide (now ≤ frTime r + 1000000)) then
    s.incD (dk 0x2542 3)
  else
    let fr := mkFaultRec s.now s.ownDev f
    let log := if s.faults.length < 64 then some (s.faults ++ [fr])
      else (oldestNote s.faults).map (fun i => s.faults.set i fr)
    match log with
    | none => s.incD (dk 0x2542 1)
    | some l =>
      let s := { s with faults := l }
      let s := if s.nmt == .stopped then s
        else s.emit (.emcy s.nodeId (BitVec.ofNat 16 (0xFF00 + f.code)) s.errorRegister
          (BitVec.ofNat 64 (f.part.val + f.unit % 256 * 2 ^ 8 + b2n f.ctx * 2 ^ 16 + f.step.toNat % 2 ^ 32 * 2 ^ 32)))
      s.telemetry f.part 2 f.step (leBytes 32 fr.toNat)

/-! ## Steps of a partition (R319, R320) -/

/-- Contexts of a partition. -/
def State.ctxsOf (s : State) (p : PartId) : List (CoreId × CtxId) :=
  (s.cores.map (fun e => coreOf e.1)).flatMap (fun c =>
    ([CtxId.primary, CtxId.filler].filter (fun x => (s.ctx c x).part == some p)).map (fun x => (c, x)))

def State.anyEnabled (s : State) (p : PartId) : Bool := (s.ctxsOf p).any (fun e => (s.ctx e.1 e.2).en)

/-- The oldest undecided step (R319). -/
def State.oldestStep (s : State) (p : PartId) : W64 := (s.part p).gate.step

/-- A step is void: at or after the step from which the partition's steps are void (R320, log entry 25). -/
def Gate.isVoid (g : Gate) (n : W64) : Bool :=
  match g.voidFrom with
  | some v => decide (v.toNat ≤ n.toNat)
  | none => false

/-- The step's gate has decided it clean. -/
def Gate.committed (g : Gate) (n : W64) : Bool := decide (n.toNat < g.step.toNat)

/-- Set the dirty bit of an undecided step (R319, R322). -/
def Gate.markDirty (g : Gate) (n : W64) (code : Nat) : Gate :=
  if g.voidFrom.isSome then g
  else if n = g.step then { g with dirty0 := g.dirty0 <|> some (BitVec.ofNat 8 code) }
  else if n = g.step + 1 then { g with dirty1 := g.dirty1 <|> some (BitVec.ofNat 8 code) }
  else g

def State.modGate (s : State) (p : PartId) (f : Gate → Gate) : State := s.modPart p (fun q => { q with gate := f q.gate })

/-- Devices of a partition's vote group (R287), ascending. -/
def memberDev (m : W32) : W16 := fld m 16 16
def State.groupOf (s : State) (p : PartId) (gid : W16) : Option Group := (s.part p).groups.find? (fun g => g.gid == gid)
def State.voteDevs (s : State) (p : PartId) : List W16 :=
  match s.groupOf p 0xFFFF with
  | some g =>
    let ds := (g.members.map memberDev).eraseDups
    ds.mergeSort (fun a b => decide (a.toNat ≤ b.toNat))
  | none => []

def termKey : Nat := dk 0x2530 2
def leaderKey : Nat := dk 0x2530 1

/-- Two modules of one pod (R331). -/
def samePod (a b : W16) : Bool := a.toNat / 512 == b.toNat / 512

/-- First unit of a recovery message (R334). -/
def recUnit (kind : Nat) (p : PartId) (term : Nat) (low : Nat) (hi : W64) : W128 :=
  BitVec.ofNat 128 (hi.toNat * 2 ^ 64 + term % 2 ^ 32 * 2 ^ 32 + p.val * 2 ^ 16 + low % 256 * 2 ^ 8 + kind)

/-- Send a recovery message to every other module of the partition's vote group. -/
def State.tellVote (s : State) (p : PartId) (units : List W128) : State :=
  ((s.voteDevs p).filter (fun d => d ≠ s.ownDev)).foldl (fun s d => s.sendMsg 0 d units) s

/-- CKPT_STATUS as its units carry it (R334). -/
def State.ckptUnits (s : State) (p : PartId) (a b : W64) : List W128 := [recUnit 0x06 p (s.dN termKey) 0 a, b.zeroExtend 128]

/-- A leader that is no member of the job learns of a void step from the members' CKPT_STATUS (DESIGN CHOICE, log 67). -/
def State.tellLeader (s : State) (p : PartId) : State :=
  let l : W16 := (s.d leaderKey).setWidth 16
  if l = 0xFFFF ∨ (s.voteDevs p).isEmpty ∨ (s.voteDevs p).contains l then s
  else s.sendMsg 0 l (s.ckptUnits p (s.d (dkx 0x2510 p 0x0D)) (s.d (dkx 0x2510 p 0x0E)))

def gateStateKey (p : PartId) : Nat := dkx 0x2510 p 8

/-- Void every undecided step of a partition (R320). `n` is the step named; `send` sends VOID to the vote group. A partition whose
steps are already void keeps its state (R321). -/
def State.voidPart (s : State) (p : PartId) (n : W64) (code : Nat) (send : Bool) : State :=
  let g := (s.part p).gate
  if g.voidFrom.isSome then s
  else
    let v := if g.step.toNat ≤ n.toNat then n else g.step
    let s := s.modGate p (fun g => { g with voidFrom := some g.step, dirty0 := none, dirty1 := none, closed0 := false, closed1 := false })
    let s := (s.setD (dkx 0x2510 p 9) v).setDN (gateStateKey p) 4
    (if send then s.tellVote p [recUnit 0x05 p (s.dN termKey) code v] else s).tellLeader p

/-- Classes of Table 13-3; COMPLEMENT takes the class of its value kind (Table 13-5). -/
def faultClass (code detail : Nat) : Nat :=
  if code = 0x04 then
    match detail % 256 with
    | 0x03 => 0
    | 0x06 => 0
    | 0x02 => 2
    | 0x08 => 2
    | _ => 1
  else if code = 0x03 ∨ code = 0x09 ∨ code = 0x0A ∨ code = 0x0B then 1
  else if code = 0x07 ∨ code = 0x08 then 2
  else 0

/-- Halt every context of a partition (R322). -/
def State.haltPart (s : State) (p : PartId) : State :=
  (s.ctxsOf p).foldl (fun s e => s.modCtx e.1 e.2 (fun k => { k with halted := true })) s

/-- The partition has run a step, or begun one. -/
def State.hasRun (s : State) (p : PartId) : Bool :=
  (s.part p).gate.step != 0 || (s.ctxsOf p).any (fun e => let k := s.ctx e.1 e.2; k.en || k.step != 0 || k.issued != 0)

/-- A fault takes its effect under its class (R322). One raised before the partition has run any step, or at setup, voids nothing (R319,
R322). -/
def State.raiseF (s : State) (f : FaultInfo) : State :=
  let s := s.logFault f
  if f.cls = 2 then s
  else if f.cls = 0 then s.modGate f.part (fun g => g.markDirty f.step f.code)
  else if !s.hasRun f.part ∨ (f.code = 0x0A ∧ !s.anyEnabled f.part) then s
  else (s.haltPart f.part).voidPart f.part f.step f.code true

def State.raise (s : State) (p : PartId) (code : Nat) (step : W64) (unit : Nat) (ctx : Bool) (detail : Nat) : State :=
  s.raiseF ⟨code, faultClass code detail, p, step, unit, ctx, detail⟩

/-- A fault found by the management complex: it belongs to the oldest undecided step (R319). -/
def State.raiseMgmt (s : State) (p : PartId) (code detail : Nat) : State := s.raise p code (s.oldestStep p) 0xFF false detail

/-- A fault of a command of a context, in its step. -/
def State.raiseCtx (s : State) (c : CoreId) (x : CtxId) (step : W64) (code detail : Nat) : State :=
  s.raise (s.partD c x) code step c.val (ctxBit x) detail

/-- A refused partition check of a command (R322). -/
def State.partFault (s : State) (c : CoreId) (x : CtxId) (step : W64) : State := s.raiseCtx c x step 0x0B 1

/-! ## Completion (R167) -/

def stOk : Byte := 0x00
def stDesc : Byte := 0x01
def stAddr : Byte := 0x02
def stPart : Byte := 0x03
def stOpc : Byte := 0x04
def stPoison : Byte := 0x05
def stCheck : Byte := 0x06
def stStash : Byte := 0x07
def stLost : Byte := 0x08
def stColl : Byte := 0x09
def stVoid : Byte := 0x0A

/-- Statuses marked halting in Table 7-9. -/
def halting (st : Byte) : Bool := st != stOk && st != stPoison && st != stCheck

/-- The context records its first halting status and halts (R167). -/
def Ctx.haltOn (k : Ctx) (status op : Byte) (src : Src) (slot : Nat) (resumeAt : Option (StreamId × Nat)) : Ctx :=
  if k.errSet then { k with halted := true }
  else { k with
    halted := true
    errSet := true
    err := BitVec.ofNat 32 (status.toNat * 2 ^ 24 + op.toNat * 2 ^ 16 + srcCode src * 2 ^ 14)
    errslot := BitVec.ofNat 32 slot
    resumeAt := resumeAt }

def Job.resumeAt (j : Job) : Option (StreamId × Nat) := (srcStream j.src).map (fun st => (st, j.slot + 1))

/-- What a halting status does once its command has completed: the context halts, and raises PARTITION_FAULT if it was not halted and
the status is not step void (R167, R323). -/
def State.applyHalt (s : State) (c : CoreId) (x : CtxId) (status op : Byte) (src : Src) (slot : Nat) (step : W64)
    (resumeAt : Option (StreamId × Nat)) : State :=
  let k := s.ctx c x
  if halting status && (status == stVoid || !k.errcont) then
    let s' := s.modCtx c x (fun k => k.haltOn status op src slot resumeAt)
    if k.halted || status == stVoid then s' else s'.raiseCtx c x step 0x0B 5
  else s

/-- Complete a command in progress with a status. -/
def State.finish (s : State) (c : CoreId) (x : CtxId) (id : Nat) (status : Byte) : State :=
  match s.job c x id with
  | none => s
  | some j => (s.closeJob c x j).applyHalt c x status j.op j.src j.slot j.step j.resumeAt

/-! ## Commands that complete when others have (R166, R170, R172) -/

/-- Commands of the context issued before `id` and not complete, of one stream or of all. -/
def Ctx.earlier (k : Ctx) (id : Nat) (st : Option StreamId) (xfer : Bool) : Bool :=
  k.jobs.any (fun j => decide (j.id < id) && (st.isNone || srcStream j.src == st) && (!xfer || j.engine == .transfer))

/-! ## Waits on an object, and the re-base (R293, R294, R298, R299) -/

/-- Release with owner lost every wait on an object that `keep` does not keep; the number released. -/
def State.loseWaits (s : State) (c : CoreId) (k : Nat) (all : Bool) : State × Nat :=
  allStreams.foldl (fun (a : State × Nat) st =>
    match waitOn (a.1.stream c st) k with
    | some (id, _, _, epoch) =>
      if all || (a.1.obj c k).epoch ≠ epoch then ((a.1.clearWait c st).finish c (streamCtx st) id stLost, a.2 + 1) else a
    | none => a) (s, 0)

/-- Partition of an object's home context (R289). -/
def State.objPart (s : State) (c : CoreId) (k : Nat) : PartId := s.partD c (s.objCtx c k)

/-- An owner record does not match its complement (R298). -/
def State.ownerBad (s : State) (c : CoreId) (k : Nat) : State :=
  let s := s.setObj c k ((s.obj c k).setOwner 0)
  let s := s.raise (s.objPart c k) 0x04 (s.oldestStep (s.objPart c k)) c.val (ctxBit (s.objCtx c k)) 0x03
  (s.loseWaits c k true).1

/-- Evaluate the waits on an object after an operation, those that complete with status OK: a TAKE is an operation of its own, after
which the rest is evaluated again (R293, R294), and one that finds an owner record without its complement is dropped (R298). -/
def meetGo (c : CoreId) (k : Nat) : Nat → State → State
  | 0, s => s.meetPlain c k
  | n + 1, s =>
    let s := s.meetPlain c k
    match s.nextTake c k with
    | none => s
    | some (st, id, val) =>
      let o := s.obj c k
      if !o.ownerOk then s.ownerBad c k
      else
        let s := (s.setObj c k { o with count := o.count - val }).modCore c (fun k => { k with takePtr := (streamCode st + 1) % 3 })
        meetGo c k n ((s.clearWait c st).closeId c (streamCtx st) id)

def State.meetWaits (s : State) (c : CoreId) (k : Nat) : State := meetGo c k 3 s

/-- Re-base of one object (R298, R299). -/
def State.rebaseObj (s : State) (c : CoreId) (k : Nat) : State :=
  let o := s.obj c k
  if !o.ownerOk then s.ownerBad c k
  else (s.setObj c k { o with count := o.ahead, ahead := 0, ahset := false }).meetWaits c k

/-- Re-base of every object of a context's partition on its core (R299). -/
def State.rebase (s : State) (c : CoreId) (x : CtxId) : State := (s.objsOf c x).foldl (fun s k => s.rebaseObj c k) s

/-- The identity of a statistics slot's KIND (R146). -/
def staIdent (kind : BitVec 2) : W64 :=
  if kind = 1 then 0xFFF0000000000000 else if kind = 2 then 0x7FF0000000000000 else 0

def Ctx.staOf (k : Ctx) (n : Nat) : StaSlot := SMap.get (fun _ => StaSlot.reset) k.sta n
def Ctx.setSta (k : Ctx) (n : Nat) (v : StaSlot) : Ctx := { k with sta := SMap.set (fun _ => StaSlot.reset) k.sta n v }

/-- Statistics at the completion of a STEPCOMMIT (R147). -/
def Ctx.snapshot (k : Ctx) : Ctx :=
  (List.range 64).foldl (fun k n =>
    let t := k.staOf n
    k.setSta n { t with snap := t.val, snapPsn := t.psn, val := staIdent t.kind, psn := false }) k

/-- A STEPCOMMIT completes: the step value advances, statistics are taken, objects re-base, timers of a primary context start again
(R147, R170, R202, R299). -/
def State.completeCommit (s : State) (c : CoreId) (x : CtxId) (j : Job) (void : Bool) : State :=
  let s := s.modCtx c x (fun k => ({ k with step := k.step + 1, tenCount := 0 }).snapshot)
  let s := match (s.ctx c x).part with
    | some p => if s.rebaseN p ≠ 0 ∧ (s.ctx c x).step.toNat % s.rebaseN p = 0 then s.rebase c x else s
    | none => s
  let s := match x with
    | .primary => s.modCore c (fun k => { k with lastTimers := k.timers, timers := [] })
    | .filler => s
  (s.closeJob c x j).applyHalt c x (if void then stVoid else stOk) j.op j.src j.slot j.step j.resumeAt

/-- A held STEPCOMMIT has drained: DQ is empty and every earlier command has completed (R170). -/
def State.commitDrained (s : State) (c : CoreId) (x : CtxId) (id : Nat) : Bool :=
  !(s.ctx c x).earlier id none false &&
    (match x with
    | .primary => (s.core c).dq.groups.isEmpty && !(s.core c).dq.isOpen
    | .filler => true)

/-- The held STEPCOMMIT issued first, with its WG. -/
def State.heldCommit (s : State) (c : CoreId) (x : CtxId) : Option (StreamId × Nat × Bool) :=
  let l := (streamsOf x).filterMap (fun st => match (s.stream c st).wait with
    | some (.commit id wg _) => some (st, id, wg)
    | _ => none)
  match l with
  | [] => none
  | a :: t => some (t.foldl (fun u v => if v.2.1 < u.2.1 then v else u) a)

/-- What can complete now in one context, one command at a time. -/
def State.settleCtx (s : State) (c : CoreId) (x : CtxId) : Option State :=
  let k := s.ctx c x
  let drain := (streamsOf x).findSome? (fun st => match (s.stream c st).wait with
    | some (.drain id scope) => if k.earlier id (if scope then none else some st) false then none else some (st, id)
    | _ => none)
  match drain with
  | some (st, id) => some ((s.clearWait c st).closeId c x id)
  | none =>
    match k.fences.find? (fun f => !k.earlier f.1 f.2 true) with
    | some f => some ((s.modCtx c x (fun k => { k with fences := k.fences.filter (fun g => g.1 ≠ f.1) })).closeId c x f.1)
    | none =>
      match s.heldCommit c x with
      | none => none
      | some (st, id, wg) =>
        match k.job id with
        | none => none
        | some j =>
          let g := (s.part (s.partD c x)).gate
          let n := k.step
          if g.isVoid n then some ((s.clearWait c st).completeCommit c x j true)
          else if s.commitDrained c x id && (n == 0 || g.committed (n - 1)) && (!wg || g.committed n) then
            some ((s.clearWait c st).completeCommit c x j false)
          else none

/-- Cores that are not in their reset state. -/
def State.liveCores (s : State) : List CoreId := s.cores.map (fun e => coreOf e.1)

def settleGo : Nat → State → State
  | 0, s => s
  | n + 1, s =>
    match (s.liveCores.flatMap (fun c => [(c, CtxId.primary), (c, CtxId.filler)])).findSome? (fun e => s.settleCtx e.1 e.2) with
    | some s' => settleGo n s'
    | none => s

/-- Number of commands in progress. -/
def State.jobCount (s : State) : Nat :=
  s.liveCores.foldl (fun a c => a + (s.ctx c .primary).jobs.length + (s.ctx c .filler).jobs.length) 0

/-- Every command that waits only for others completes once its condition holds. -/
def State.settle (s : State) : State := settleGo s.jobCount s

end Sys2Proof.Machine
end

