-- ==== Sys2Proof/Machine/Sync.lean ====
section
/-!
DEFINITION. Operations at a synchronisation object (R291 to R299), loss notices (R297), and the sync dump (R305 to R307).
-/
namespace Sys2Proof.Machine

/-- What an operation does at an object (Table 12-2). -/
inductive SyncKind where
  | add
  | set
  | claim
  | release
  deriving DecidableEq, Repr

/-- An operation as its data unit carries it (Table 12-3), with the device it came from. -/
structure SyncOp where
  kind : SyncKind
  dev : W16
  unit : Byte
  ctx : Bool
  per : Nat
  epoch : W16
  value : BitVec 48
  deriving DecidableEq, Repr

/-- Data unit of SADD and SSET. -/
def SyncOp.data (o : SyncOp) : W128 :=
  let mode := match o.kind with
    | .add => 0
    | .set => 0
    | .claim => 1
    | .release => 2
  BitVec.ofNat 128 (o.unit.toNat * 2 ^ 75 + mode * 2 ^ 73 + b2n o.ctx * 2 ^ 72 + o.per % 256 * 2 ^ 64 + o.epoch.toNat * 2 ^ 48 +
    o.value.toNat)

/-- Mode of an SSET's data unit; none for 0b11. -/
def setKind (mode : BitVec 2) : Option SyncKind :=
  if mode = 0 then some .set else if mode = 1 then some .claim else if mode = 2 then some .release else none

/-- Read a data unit back. -/
def syncOpOf (kind : SyncKind) (dev : W16) (d : W128) : SyncOp :=
  ⟨kind, dev, fld d 75 8, bitAt d 72, fldN d 64 8, fld d 48 16, fld d 0 48⟩

/-- The operation comes from the object's owner (R296). -/
def SyncOp.fromOwner (o : SyncOp) (b : Obj) : Bool := b.claimed && b.owner == ownerWord o.dev o.unit o.ctx

/-- A claim of a newer incarnation of the owner (R296). -/
def newerEpoch (e old : W16) : Bool := old == 0xFFFF || (decide (1 ≤ (e - old).toNat) && decide ((e - old).toNat < 2 ^ 15))

/-- The operation passes the epoch check (R296). -/
def SyncOp.epochOk (o : SyncOp) (b : Obj) : Bool :=
  !o.fromOwner b || o.epoch == b.epoch || (o.kind == .claim && newerEpoch o.epoch b.epoch)

def SyncOp.claimOn (o : SyncOp) (b : Obj) : Obj := { b.setOwner (ownerWord o.dev o.unit o.ctx) with epoch := o.epoch }

/-- Effect on COUNT, in the period of the object (Table 12-2). -/
def SyncOp.now (o : SyncOp) (b : Obj) : Obj :=
  match o.kind with
  | .add => { b with count := b.count + o.value }
  | .set => { b with count := o.value }
  | .claim => { o.claimOn b with count := o.value }
  | .release => b.setOwner 0

/-- Effect for the next period (R299). -/
def SyncOp.ahead (o : SyncOp) (b : Obj) : Obj :=
  match o.kind with
  | .add => { b with ahead := b.ahead + o.value }
  | .set => { b with ahead := o.value, ahset := true }
  | .claim => { o.claimOn b with ahead := o.value, ahset := true }
  | .release => b.setOwner 0

/-- Evaluate every wait on an object after an operation (R293, R294). -/
def State.evalWaits (s : State) (c : CoreId) (k : Nat) : State := (s.loseWaits c k false).1.meetWaits c k

/-- An operation arrives at object k of core c (R293, R296, R298, R299). -/
def State.applySync (s : State) (c : CoreId) (k : Nat) (o : SyncOp) : State :=
  let b := s.obj c k
  let p := s.objPart c k
  if !b.ownerOk then s.ownerBad c k
  else if !o.epochOk b then (s.setObj c k b.drop).incD (dkx 0x2900 p 5)
  else
    let d := (o.per + 256 - s.periodOf c (s.objCtx c k) % 256) % 256
    if d = 0 then (s.setObj c k (o.now b)).evalWaits c k
    else if d = 1 then (s.setObj c k (o.ahead b)).evalWaits c k
    else (s.setObj c k b.drop).incD (dkx 0x2900 p 6)

/-- A SYNCREAD at an object (R291): the word. It is an operation, so that the owner record is checked (R298). -/
def State.readObj (s : State) (c : CoreId) (k : Nat) : State × W64 :=
  let w := (s.obj c k).word
  (if (s.obj c k).ownerOk then s else s.ownerBad c k, w)

/-- The operation a context issues (R292). -/
def State.issueOp (s : State) (c : CoreId) (x : CtxId) (kind : SyncKind) (v : BitVec 48) : SyncOp :=
  ⟨kind, s.ownDev, BitVec.ofNat 8 c.val, ctxBit x, s.periodOf c x % 256, (s.ctx c x).epoch, v⟩

/-! ## Loss notices (R297) -/

/-- A loss notice arrives: objects of the partition owned by the reset context take the new epoch together, then their waits are
released. -/
def State.lossNotice (s : State) (p : PartId) (dev : W16) (core : Byte) (ctx : Bool) (epoch : W16) : State :=
  let s := s.incD (dkx 0x2900 p 9)
  let named := s.objs.filterMap (fun e =>
    let c := coreOf (e.1 / 4096)
    let k := e.1 % 4096
    let b := s.obj c k
    if s.objPart c k = p ∧ (s.ctx c (s.objCtx c k)).part.isSome ∧ b.claimed ∧ b.ownerOk ∧ b.owner = ownerWord dev core ctx then
      some (c, k) else none)
  let s := named.foldl (fun s e => s.setObj e.1 e.2 { s.obj e.1 e.2 with epoch := epoch }) s
  let (s, n) := named.foldl (fun (a : State × Nat) e => let (s', m) := a.1.loseWaits e.1 e.2 false; (s', a.2 + m)) (s, 0)
  if n = 0 then s
  else (s.addD (dkx 0x2900 p 7) n).raiseMgmt p 0x03 (core.toNat + 256 * b2n ctx)

/-! ## Sync dump (R305 to R307) -/

/-- Streams that wait on an object. -/
def State.waiters (s : State) (c : CoreId) (k : Nat) : Nat :=
  allStreams.foldl (fun a st => if (waitOn (s.stream c st) k).isSome then a + 2 ^ streamCode st else a) 0

/-- Object record (Table 12-8). -/
def State.objRecord (s : State) (c : CoreId) (k : Nat) : List Byte :=
  let o := s.obj c k
  leBytes 32 (o.drops.toNat * 2 ^ 176 + k * 2 ^ 164 + s.waiters c k * 2 ^ 157 + b2n (!o.ownerOk) * 2 ^ 156 + b2n o.ahset * 2 ^ 155 +
    b2n (o.claimed && o.ownerOk) * 2 ^ 154 + b2n (bitAt o.owner 0) * 2 ^ 153 + fldN o.owner 1 8 * 2 ^ 145 + fldN o.owner 9 16 * 2 ^ 129 +
    o.ahead.toNat * 2 ^ 64 + o.word.toNat)

/-- Waiter records of a context. -/
def State.waitRecords (s : State) (c : CoreId) (x : CtxId) : List (List Byte) :=
  (streamsOf x).filterMap (fun st => match (s.stream c st).wait with
    | some (.sync _ obj cond val epoch start _ _) =>
      some (leBytes 32 (start.toNat * 2 ^ 96 + val.toNat * 2 ^ 48 + epoch.toNat * 2 ^ 16 + cond.toNat * 2 ^ 14 + streamCode st * 2 ^ 12 + obj))
    | _ => none)

/-- Objects a section records. -/
def State.dumpObjs (s : State) (c : CoreId) (x : CtxId) (all : Bool) : List Nat :=
  let sp := s.objSplit c
  let range := match x with
    | .primary => List.range sp
    | .filler => (List.range (4096 - sp)).map (· + sp)
  if all then range
  else
    let waited := (streamsOf x).filterMap (fun st => match (s.stream c st).wait with
      | some (.sync _ obj _ _ _ _ _ _) => some obj
      | _ => none)
    let listed := (s.objsOf c x).filter (fun k =>
      let o := s.obj c k
      o.count ≠ 0 || o.ahead ≠ 0 || o.drops ≠ 0 || o.ahset || o.claimed)
    (listed ++ waited).eraseDups.mergeSort (fun a b => decide (a ≤ b))

/-- The sections that fit in `room` bytes: their bytes, how many, and whether something was left out. -/
def dumpGo (s : State) (all : Bool) : List (CoreId × CtxId) → Nat → List Byte × Nat × Bool
  | [], _ => ([], 0, false)
  | (c, x) :: t, room =>
    if room < 64 then ([], 0, true)
    else
      let ws := s.waitRecords c x
      let os := (s.dumpObjs c x all).map (s.objRecord c)
      let w := Nat.min ws.length ((room - 64) / 32)
      let n := Nat.min os.length ((room - 64 - 32 * w) / 32)
      let cut := decide (w + n < ws.length + os.length)
      let head := leBytes 64 (s.now.toNat * 2 ^ 64 + n * 2 ^ 48 + w * 2 ^ 40 + (s.ctx c x).epoch.toNat * 2 ^ 24 +
        s.periodOf c x % 256 * 2 ^ 16 + (s.partD c x).val * 2 ^ 12 + b2n (ctxBit x) * 2 ^ 8 + c.val)
      let body := head ++ (ws.take w).flatten ++ (os.take n).flatten
      if cut then (body, 1, true)
      else
        let (r, k, tr) := dumpGo s all t (room - body.length)
        (body ++ r, k + 1, tr)

/-- Bytes from an offset of the module's DRAM, up to `size`, that lie in regions of the partition. -/
def State.ownedRoom (s : State) (p : PartId) (off size : Nat) : Nat :=
  let g := off / 2 ^ 30
  let n := ((List.range ((off + size - 1) / 2 ^ 30 - g + 1)).takeWhile (fun i => decide (g + i < 1024) && s.ownsRegion p ((g + i) / 64) ((g + i) % 64))).length
  Nat.min size ((g + n) * 2 ^ 30 - off)

/-- Write a sync dump for a context (R305 to R307): a snapshot first, then what a record without its complement leads to (R298). It does not
go past the regions of the partition. -/
def State.syncDump (s : State) (c : CoreId) (x : CtxId) (k size : Nat) (all scope watch : Bool) : State :=
  let p := s.partD c x
  let size := s.ownedRoom p k size
  let who := if scope then (s.ctxsOf p).mergeSort (fun a b => decide (a.1.val ≤ b.1.val)) else [(c, x)]
  let bad := who.flatMap (fun e => ((if all then s.objsOf e.1 e.2 else s.dumpObjs e.1 e.2 false).filter
    (fun k => !(s.obj e.1 k).ownerOk)).map (fun k => (e.1, k)))
  let s' := bad.foldl (fun s' e => s'.ownerBad e.1 e.2) (s.incD (dkx 0x2900 p 0x0A))
  if size < 64 then s'
  else
    let (body, n, tr) := dumpGo s all who (size - 64)
    let head := leBytes 64 (s.now.toNat * 2 ^ 128 + (s.ctx c x).step.toNat * 2 ^ 64 + b2n tr * 2 ^ 56 + n * 2 ^ 40 + b2n watch * 2 ^ 36 +
      p.val * 2 ^ 32 + s.ownDev.toNat * 2 ^ 16 + 0x5344)
    s'.writeMerge Former.mgmt k (head ++ body) []

/-- A dump, report or record address lies, 64-byte aligned and for `len` bytes, in the module's DRAM in a region of the partition. -/
def State.reportOk (s : State) (p : PartId) (a : W64) (len : Nat) : Bool :=
  s.isOwn a && decide (aSpace a = 0) && addrForm a len && decide (aOff a % 64 = 0) && s.ownsRange p 0 (aOff a) len

/-- A SYNCWAIT has waited SYNC_WDOG ms (R304). -/
def execSyncWatchdogExpiry (c : CoreId) (st : StreamId) (s : State) : Host.Outcome State Fault Refusal :=
  match (s.stream c st).wait with
  | some (.sync id obj cond val epoch start expired wdog) =>
    if expired || wdog == 0 then .next s
    else
      let x := streamCtx st
      let p := s.partD c x
      let s := s.modStream c st (fun t => { t with wait := some (.sync id obj cond val epoch start true wdog) })
      let s := s.incD (dkx 0x2900 p 8)
      let s := s.raiseCtx c x (s.ctx c x).step 0x0B (4 + 256 * streamCode st + 65536 * obj)
      let a := s.d (dkx 0x2900 p 3)
      let size := s.dN (dkx 0x2900 p 4)
      let s := if a ≠ 0 ∧ s.reportOk p a 1 then s.syncDump c x (aKey a) size false true true else s
      .next s.settle
  | _ => .next s

end Sys2Proof.Machine
end

