-- ==== Sys2Proof/Machine/Issue.lean ====
section
/-!
DEFINITION. Issue by the dispatcher: when a command is ready, and what issuing it does to its stream, its queue and its context (R155,
R163 to R170, R173 to R176, R189, R300, R327). The next command of a stream is the one that core memory holds at HEAD (R156, log
entry 11).
-/
namespace Sys2Proof.Machine

/-- Slots of a ring (R155). -/
def Stream.slots (t : Stream) : Nat := 2 ^ (6 + t.size.toNat)

/-- Core memory offset of a slot. -/
def Stream.slotOff (t : Stream) (n : Nat) : Nat := t.base.toNat + 32 * (n % t.slots)

/-- The command that core memory holds in a slot. -/
def State.slotWord (s : State) (c : CoreId) (st : StreamId) (n : Nat) : W256 :=
  BitVec.ofNat 256 (s.coreWord c ((s.stream c st).slotOff n) 32)

/-- The command waits in the queue of the transfer engine. -/
def Job.isQueued (j : Job) : Bool := match j.work with
  | .queued _ _ => true
  | _ => false

/-- Engine of an opcode (Table 7-2). -/
def engineOf (op : Nat) : Engine :=
  match op with
  | 0x10 => .tensor
  | 0x11 => .quant
  | 0x12 => .rq
  | 0x13 => .vector
  | 0x14 => .vector
  | 0x15 => .coll
  | 0x17 => .mgmt
  | 0x2A => .stash
  | 0x2B => .stash
  | 0x2C => .stash
  | 0x2D => .stash
  | 0x16 => .transfer
  | 0x1E => .transfer
  | 0x1F => .transfer
  | 0x24 => .transfer
  | 0x28 => .transfer
  | 0x29 => .transfer
  | _ => if (0x18 ≤ op ∧ op ≤ 0x1C) ∨ (0x20 ≤ op ∧ op ≤ 0x22) then .transfer else .dispatcher

/-- Commands of a context at an engine. -/
def Ctx.atEngine (k : Ctx) (f : Engine → Bool) : Nat := (k.jobs.filter (fun j => f j.engine)).length

/-- The engine's input queue has room (R164): two behind the one executing, or 16 behind the 16 in progress of the transfer engine. -/
def Ctx.hasRoom (k : Ctx) (e : Engine) : Bool :=
  match e with
  | .tensor => decide ((k.tenq.filter (fun o => o.stage != .finished)).length < 3)
  | .vector => decide (k.atEngine (· == .vector) < 3)
  | .quant => decide (k.atEngine (· == .quant) < 3)
  | .transfer => decide (k.atEngine (fun e => e == .transfer || e == .rq) < 32)
  | .rq => decide (k.atEngine (fun e => e == .transfer || e == .rq) < 32)
  | _ => true

/-- Calls in progress at a district's engine (R270). -/
def State.districtCalls (s : State) (d : Nat) : Nat :=
  allParts.foldl (fun a p => a + cnt (fun (k : Call) => districtOf k.core == d) (s.part p).calls) 0

/-- The waits of the header are met (R157, R165). -/
def Ctx.waitsMet (k : Ctx) (w : W256) : Bool :=
  (!cWe0 w || tokMet (k.tok (cWt0 w)) (cWv0 w)) && (!cWe1 w || tokMet (k.tok (cWt1 w)) (cWv1 w))

/-- A held STEPCOMMIT of the context will re-base (R300). -/
def State.rebasePending (s : State) (c : CoreId) (x : CtxId) : Bool :=
  match (s.ctx c x).part with
  | some p => (s.heldCommit c x).isSome && s.rebaseN p ≠ 0 && decide (((s.ctx c x).step + 1).toNat % s.rebaseN p = 0)
  | none => false

/-- Commands that R300 holds; an XD counts as the command it executes. -/
def rebaseHeld (op : Nat) : Bool := op == 0x1B || op == 0x20 || op == 0x21 || op == 0x22 || op == 0x23

/-- A fence whose scope covers the command has not completed (R172). -/
def Ctx.fenced (k : Ctx) (src : Src) : Bool :=
  k.fences.any (fun f => f.2.isNone || f.2 == srcStream src)

/-- Members of an installed group. -/
def State.groupN (s : State) (c : CoreId) (x : CtxId) (gid : W16) : Nat :=
  match s.groupOf (s.partD c x) gid with
  | some g => g.members.length
  | none => 0

/-- The command would write a range that a checkpoint is copying (R327). -/
def State.copyHeld (s : State) (c : CoreId) (x : CtxId) (w : W256) (doff : Nat) : Bool :=
  let k := (s.part (s.partD c x)).ckpt
  k.copying.isSome && (s.writesOf c (s.groupN c x) w doff).any (fun e =>
    s.isOwn e.1 && decide (aSpace e.1 ≤ 1) && k.ranges.any (fun r => overlaps (aKey e.1) (aKey e.1 + e.2) r.1 (r.1 + r.2)))

/-- The command would write a guarded range (R189). -/
def State.guardHeld (s : State) (c : CoreId) (w : W256) (doff : Nat) (n : W16 → Nat) : Bool :=
  match (s.core c).dq.guards with
  | [] => false
  | gs => match s.writeRange c n w doff with
    | some (lo, hi) => gs.any (fun g => overlaps g.lo g.hi lo hi)
    | none => false

/-- Whether a command can issue. -/
inductive Ready where
  | idle
  | hold (h : Hold)
  | go
  deriving DecidableEq, Repr

/-- The 32 bytes an XD executes: read once, when it reaches the head of its stream (R163). -/
def State.xdWord (s : State) (c : CoreId) (src : Src) (doff : Nat) : W256 :=
  match (srcStream src).bind (fun st => (s.stream c st).xd) with
  | some v => v
  | none => BitVec.ofNat 256 (s.coreWord c doff 32)

/-- The OP that the stored command of an XD may have. -/
def isXop (op : Nat) : Bool := decide (0x18 ≤ op ∧ op ≤ 0x1C)

/-- The command whose effect is meant: the one that an XD executes, or the command itself. -/
def State.meant (s : State) (c : CoreId) (src : Src) (w : W256) (doff : Nat) : W256 :=
  if cOp w = 0x16 then
    let v := s.xdWord c src doff
    if isXop (cOp v).toNat then v else w
  else w

/-! ## Waits of TENSOR and DEFER -/

/-- The ladder is on for the partition (R126), so that LDR counts. -/
def State.ladderOn (s : State) (p : PartId) : Bool := s.dfN (dkp p 0x2410 1) ≠ 0
def State.tdLdrOn (s : State) (p : PartId) (d : BitVec 1536) : Bool := tdLadder d && s.ladderOn p

def State.tdesc (s : State) (c : CoreId) (off : Nat) : BitVec 1536 := BitVec.ofNat 1536 (s.coreWord c off 192)

/-- An LDR operation waits at issue for the pin map of its step (R120). -/
def State.pinHold (s : State) (c : CoreId) (x : CtxId) (w : W256) (off : Nat) : Bool :=
  decide (cOp w = 0x10) && !s.descBad c x 0x10 off && s.tdLdrOn (s.partD c x) (s.tdesc c off) &&
    decide ((s.part (s.partD c x)).pinStep.toNat < (s.ctx c x).step.toNat)

/-- Opcodes a deferred group may hold. -/
def deferrable (op : Nat) : Bool := (decide (0x10 ≤ op) && decide (op ≤ 0x1C)) || (decide (0x20 ≤ op) && decide (op ≤ 0x22))

/-- The commands after a DEFER at HEAD. -/
def State.groupWords (s : State) (c : CoreId) (st : StreamId) (n : Nat) : List W256 :=
  (List.range n).map (fun i => s.slotWord c st ((s.stream c st).head + 1 + i))

/-- Slots from HEAD to TAIL. -/
def Stream.pendingSlots (t : Stream) : Nat := (t.tail % t.slots + t.slots - t.head) % t.slots

/-- Guards a group needs. -/
def State.groupGuards (s : State) (c : CoreId) (t : Stream) (ws : List W256) : List (List (Nat × Nat)) :=
  ws.map (fun w => s.guardsOf c w (descOff t w))

/-- What a DEFER finds: its group not yet below TAIL, no room for its guards, or DQ full (R169, R189). One of the filler context waits for its
group only. -/
def State.deferHold (s : State) (c : CoreId) (st : StreamId) (n : Nat) : Option Hold :=
  let t := s.stream c st
  let ws := s.groupWords c st n
  let need := ((s.groupGuards c t ws).map List.length).foldl (· + ·) 0
  if t.pendingSlots < n + 1 then some .waits
  else if st == .s2 || ws.any (fun w => !deferrable (cOp w).toNat) || decide (128 < need) then none
  else if 128 < need + (s.core c).dq.guards.length then some .guardSpace
  else if 64 ≤ (s.core c).dq.groups.length then some .dqFull
  else none

/-! ## Readiness -/

/-- Readiness of the command `w` of a stream or of the open group, apart from whether the stream offers one (R120, R164, R169, R189, R300,
R327). -/
def State.holdOf (s : State) (c : CoreId) (src : Src) (w : W256) (doff : Nat) : Option Hold :=
  let x := srcCtx src
  let k := s.ctx c x
  let op := (cOp w).toNat
  let v := s.meant c src w doff
  if !k.waitsMet w then some .waits
  else if !k.hasRoom (engineOf op) || (op == 0x15 && decide (8 ≤ s.districtCalls (districtOf c))) then some .room
  else if src ≠ .dq ∧ rebaseHeld (cOp v).toNat ∧ s.rebasePending c x then some .rebase
  else if engineOf op = .transfer ∧ op ≠ 0x1E ∧ k.fenced src then some .fence
  else if (src = .s0 ∨ src = .s1) ∧ s.guardHeld c v doff (s.groupN c x) then some .guard
  else if src ≠ .dq ∧ s.copyHeld c x v doff then some .copying
  else if s.pinHold c x w doff then some .pinMap
  else if op = 0x0B then (match srcStream src with
    | some st => s.deferHold c st (cNcmd w)
    | none => none)
  else none

/-- Next command of the open group. -/
def Dq.next (q : Dq) : Option DCmd := if q.isOpen then (q.groups.headD [])[q.pos]? else none

/-- The stream offers a command: it is enabled, not held by a command that waits, and HEAD is not TAIL. -/
def State.offers (s : State) (c : CoreId) (st : StreamId) : Bool :=
  let t := s.stream c st
  t.en && t.wait.isNone && decide (t.head ≠ t.tail % t.slots)

/-- The context issues commands: enabled, not halted, not suspended (R167, R175, R180). -/
def Ctx.issues (k : Ctx) : Bool := k.en && !k.halted && !k.suspended

/-- Is the command `w` the next of this source, and ready by itself (R164)? The next command of a stream is the one its slot holds. -/
def State.readyAt (s : State) (sl : Slot) (w : W256) : Ready :=
  let c := sl.core
  let k := s.ctx c (srcCtx sl.src)
  if !k.issues then .idle
  else match srcStream sl.src with
    | some st =>
      if !s.offers c st || s.slotWord c st (s.stream c st).head != w then .idle
      else match s.holdOf c sl.src w (descOff (s.stream c st) w) with
        | some h => .hold h
        | none => .go
    | none =>
      match (s.core c).dq.next with
      | none => .idle
      | some d =>
        if d.w ≠ w then .idle
        else match s.holdOf c .dq w d.desc with
          | some h => .hold h
          | none => .go

/-- The source that a stream is. -/
def srcOf : StreamId → Src
  | .s0 => .s0
  | .s1 => .s1
  | .s2 => .s2

/-- The command at the head of a stream. -/
def State.headWord (s : State) (c : CoreId) (st : StreamId) : W256 := s.slotWord c st (s.stream c st).head

/-- What the command at the head of a stream finds. -/
def State.headAt (s : State) (c : CoreId) (st : StreamId) : Ready :=
  if s.offers c st then s.readyAt ⟨c, srcOf st⟩ (s.headWord c st) else .idle

/-- The command at the head of a stream is ready. -/
def State.headReady (s : State) (c : CoreId) (st : StreamId) (f : Nat → Bool) : Bool :=
  s.offers c st && f (cOp (s.headWord c st)).toNat && s.headAt c st == .go

/-- What the next command of the open group finds. -/
def State.dqAt (s : State) (c : CoreId) : Ready :=
  match (s.core c).dq.next with
  | some d => s.readyAt ⟨c, .dq⟩ d.w
  | none => .idle

/-- A command of the primary context is ready. -/
def State.primaryReady (s : State) (c : CoreId) : Bool :=
  s.headReady c .s0 (fun _ => true) || s.headReady c .s1 (fun _ => true) || s.dqAt c == .go

/-- A command in progress makes its context busy (R174). A transfer whose requests have all gone does not. -/
def Ctx.working (k : Ctx) : Bool :=
  k.jobs.any (fun j => match j.engine with
    | .tensor => true
    | .vector => true
    | .quant => true
    | .rq => true
    | .transfer => j.status.isNone && (!j.queue.isEmpty || j.isQueued)
    | _ => false)

/-- The primary context is busy (R174). -/
def State.primaryBusy (s : State) (c : CoreId) : Bool := (s.ctx c .primary).working || s.primaryReady c

/-- Neither context of a core is busy in the sense of R174. -/
def State.coreIdle (s : State) (c : CoreId) : Bool :=
  !s.primaryBusy c && !(s.ctx c .filler).working && !s.headReady c .s2 (fun _ => true)

/-- S2 takes part in the choice (R175). -/
def State.fillerTurn (s : State) (c : CoreId) : Bool :=
  (s.core c).admitted && !s.fillerWithheld (stackOfCore c) && !s.primaryBusy c

/-- A ready command of another source goes first: S1, then S0, then DQ (R164). -/
def State.outranked (s : State) (sl : Slot) : Bool :=
  let s1 := s.headReady sl.core .s1 (fun _ => true)
  match sl.src with
  | .s1 => false
  | .s0 => s1
  | .dq => s1 || s.headReady sl.core .s0 (fun _ => true)
  | .s2 => false

/-- Filler work occupies the engine of a primary command and has not yielded (R176). -/
def State.fillerOn (s : State) (c : CoreId) (e : Engine) : Bool :=
  let k := s.ctx c .filler
  !k.suspended && e != .dispatcher && k.jobs.any (fun j => j.engine == e && j.status.isNone)

/-- Can the command `w` of this source issue now? -/
def State.ready (s : State) (sl : Slot) (w : W256) : Ready :=
  if sl.src = .s2 ∧ !s.fillerTurn sl.core then .idle
  else match s.readyAt sl w with
    | .go =>
      if s.outranked sl then .idle
      else if srcCtx sl.src = .primary ∧ s.fillerOn sl.core (engineOf (cOp w).toNat) then .hold .yield
      else .go
    | r => r

/-! ## Issuing -/

/-- HEAD and RETIRE after a command has issued (R155). -/
def Stream.advance (t : Stream) : Stream :=
  let h := (t.head + 1) % t.slots
  { t with head := h, retire := if t.loops.isEmpty then h else t.retire, xd := none }

/-- Phase a command is counted under (R202). -/
def phaseOf (s : State) (c : CoreId) (src : Src) (op : Nat) : Phase :=
  match srcStream src with
  | none => .bwdW
  | some st => if op = 0x14 then .upd else if op = 0x15 then .coll else (s.stream c st).phase

/-- The group closes when its last command has issued (R187). -/
def Dq.pop (q : Dq) : Dq :=
  if q.pos + 1 < (q.groups.headD []).length then { q with pos := q.pos + 1 }
  else { q with groups := q.groups.drop 1, isOpen := false, pos := 0 }

def Job.new (id : Nat) (src : Src) (slot : Nat) (w : W256) (ph : Phase) (step : W64) : Job where
  id := id
  src := src
  slot := slot
  op := cOp w
  se := cSe w
  st := cSt w
  engine := engineOf (cOp w).toNat
  phase := ph
  step := step
  status := none
  outst := 0
  errs := []
  timedOut := false
  stopped := false
  poison := false
  checkFail := false
  work := .none
  fetched := []
  fpoison := []
  refs := []
  queue := []

/-- A command that has issued. -/
structure Issued where
  core : CoreId
  ctx : CtxId
  id : Nat
  src : Src
  slot : Nat
  doff : Nat
  w : W256
  step : W64
  deriving DecidableEq, Repr

/-- Id, slot and descriptor offset of the command that issues next from a source, and whether it holds a stash reference. -/
structure Taken where
  id : Nat
  slot : Nat
  doff : Nat
  held : Bool
  deriving DecidableEq, Repr

def State.taken (s : State) (sl : Slot) (w : W256) : Taken :=
  let n := (s.ctx sl.core (srcCtx sl.src)).nextId
  match srcStream sl.src with
  | some st => ⟨n, (s.stream sl.core st).head, descOff (s.stream sl.core st) w, false⟩
  | none => match (s.core sl.core).dq.next with
    | some d => ⟨d.id, (s.core sl.core).dq.pos, d.desc, d.held⟩
    | none => ⟨n, 0, 0, false⟩

/-- A primary command ends the quiet time that admits the filler (R175). -/
def State.endQuiet (s : State) (sl : Slot) : State :=
  match srcCtx sl.src with
  | .primary => s.modCore sl.core (fun k => { k with admitted := false, idleCyc := 0 })
  | .filler => s

/-- The slot of a stream, or the next command of the open group, passes. -/
def State.pass (s : State) (sl : Slot) : State :=
  let s := s.endQuiet sl
  match srcStream sl.src with
  | some st => (s.modStream sl.core st Stream.advance).modCtx sl.core (srcCtx sl.src) (fun k => { k with nextId := k.nextId + 1 })
  | none => s.modCore sl.core (fun k => { k with dq := k.dq.pop })

/-- A command in progress from its issue on. -/
def State.newJob (s : State) (sl : Slot) (w : W256) : Job :=
  let t := s.taken sl w
  { Job.new t.id sl.src t.slot w (phaseOf s sl.core sl.src (cOp w).toNat) (s.ctx sl.core (srcCtx sl.src)).step with
    refs := if t.held then [(dSlayer w, dSentry w)] else [] }

/-- Issue: the slot passes, counters of the context advance, and the command is in progress (R163, R164, R180). -/
def State.issue (s : State) (sl : Slot) (w : W256) : State × Issued :=
  let j := s.newJob sl w
  let t := s.taken sl w
  ((s.pass sl).modCtx sl.core (srcCtx sl.src) (fun k => { k with
    issued := k.issued + 1
    rsvcnt := if rsvSet w then k.rsvcnt + 1 else k.rsvcnt
    jobs := k.jobs.filter (fun i => i.id ≠ t.id) ++ [j] }),
    ⟨sl.core, srcCtx sl.src, t.id, sl.src, t.slot, t.doff, w, (s.ctx sl.core (srcCtx sl.src)).step⟩)

/-- An XD that has reached the head of its stream reads its descriptor (R163). -/
def State.fetchXd (s : State) (c : CoreId) (st : StreamId) : State :=
  let t := s.stream c st
  let w := s.headWord c st
  if t.xd.isNone ∧ decide (t.head ≠ t.tail % t.slots) ∧ cOp w = 0x16 then
    let x := BitVec.ofNat 256 (s.coreWord c (descOff t w) 32)
    s.modStream c st (fun t => { t with xd := some x })
  else s

/-- The command now at the head of a source's stream is fetched as far as an XD is. -/
def State.fetchHead (s : State) (sl : Slot) : State :=
  match srcStream sl.src with
  | some st => s.fetchXd sl.core st
  | none => s

/-- Complete a command that has just issued. -/
def State.done (s : State) (i : Issued) (status : Byte) : State := s.finish i.core i.ctx i.id status

def State.setStatus (s : State) (c : CoreId) (x : CtxId) (id : Nat) (status : Byte) : State :=
  s.modJob c x id (fun j => { j with status := some status })

/-- The work of a command is finished with a status; COMMAND_COMPLETE completes it (R166). -/
def State.work (s : State) (i : Issued) (status : Byte) : State := s.setStatus i.core i.ctx i.id status

/-- A filler command with an opcode that only the primary context has, or with STH = 1 (R163). -/
def primaryOnly (w : W256) : Bool :=
  let op := (cOp w).toNat
  op == 0x0B || (decide (0x28 ≤ op) && decide (op ≤ 0x2D)) || (decide (0x10 ≤ op) && decide (op ≤ 0x17) && dSth w)

/-- HEAD passes over a group's slots (R169). -/
def Stream.skip (t : Stream) (n : Nat) : Stream :=
  let h := (t.head + n) % t.slots
  { t with head := h, retire := if t.loops.isEmpty then h else t.retire }

/-- Update the stream a command came from. -/
def State.onStream (s : State) (i : Issued) (f : Stream → Stream) : State :=
  match srcStream i.src with
  | some st => s.modStream i.core st f
  | none => s

/-- A DEFER fails: HEAD passes over its group, and a halted context resumes behind it (R167, R169). -/
def State.deferFail (s : State) (i : Issued) (status : Byte) : State :=
  let n := cNcmd i.w
  let s := s.onStream i (fun t => t.skip n)
  match s.job i.core i.ctx i.id with
  | none => s
  | some j => (s.closeJob i.core i.ctx j).applyHalt i.core i.ctx status j.op j.src j.slot j.step
      ((srcStream i.src).map (fun st => (st, i.slot + 1 + n)))

/-- A command of the filler context that only the primary context has completes with opcode error (R163, R169). -/
def State.notFiller (s : State) (i : Issued) : State := if cOp i.w = 0x0B then s.deferFail i stOpc else s.done i stOpc

/-- Opcodes of Table 7-2. -/
def assigned (op : Nat) : Bool :=
  decide (op ≤ 0x0C) || (decide (0x10 ≤ op) && decide (op ≤ 0x1C)) || (decide (0x1E ≤ op) && decide (op ≤ 0x24)) ||
    (decide (0x28 ≤ op) && decide (op ≤ 0x2D))

/-- A dispatched command of opcode `op`: nothing happens while it is not ready, or where the slot holds a command of another opcode; else
it issues and `f` is its effect. An unassigned opcode ends with opcode error (R158, R163). -/
def State.dispatch (s : State) (sl : Slot) (w : W256) (op : Nat) (f : Issued → State → State) : Host.Outcome State Fault Refusal :=
  if (cOp w).toNat ≠ op ∧ assigned (cOp w).toNat then .next s
  else match s.ready sl w with
  | .idle => .next s
  | .hold _ => .next s
  | .go =>
    let (s, i) := s.issue sl w
    if (cOp w).toNat ≠ op then .next ((s.done i stOpc).fetchHead sl).settle
    else if i.ctx = .filler ∧ primaryOnly w then .next ((s.notFiller i).fetchHead sl).settle
    else .next ((f i s).fetchHead sl).settle

/-! ## Starting at the transfer engine (R173) -/

/-- Other commands of the context that the transfer engine has in progress. -/
def Ctx.moving (k : Ctx) (id : Nat) : Nat :=
  cnt (fun (j : Job) => j.id != id && (j.engine == .transfer || j.engine == .rq) && j.op != 0x1E && j.status.isNone && !j.isQueued) k.jobs

/-- A command starts, or waits in the engine's queue behind those that wait there and the 16 in progress; `v` is the command it executes. -/
def State.enter (s : State) (i : Issued) (v : W256) (f : Issued → State → State) : State :=
  let k := s.ctx i.core i.ctx
  if 16 ≤ k.moving i.id ∨ k.jobs.any Job.isQueued then s.modJob i.core i.ctx i.id (fun j => { j with work := .queued v i.doff })
  else f i s

/-- A format D command: its descriptor is read, or the command completes with descriptor error (R160, R163). -/
def withDesc (op : Nat) (f : Issued → State → State) (i : Issued) (s : State) : State :=
  if s.descBad i.core i.ctx op i.doff then s.done i stDesc else f i s

end Sys2Proof.Machine
end

