-- ==== Sys2Proof/Machine/XferOps.lean ====
section
/-!
DEFINITION. Data movement: copies and fills within the module with their block headers (R171, R238, R310, R311), requests to other
modules and what their responses do (R238 to R242, R311, R312), shared by transfers, stash, spills and checkpoints.
-/
namespace Sys2Proof.Machine

/-- A value of the whole module fails its complement (R325 kinds 0x01, 0x02, 0x07): every partition takes PARTITION_FAULT, and the trusted
kernel then warm-resets the module. -/
def State.moduleFault (s : State) (kind : Nat) : State :=
  let s := s.logFault ⟨0x04, 1, 0, 0, 0xFF, false, kind⟩
  let s := (allParts.filter s.configured).foldl (fun s p => s.raiseMgmt p 0x0B 6) s
  s.modBoard (fun b => { b with warmDue := true })

/-- Count a request that the target refuses (R240). -/
def State.refuse (s : State) (k : Chk) : State :=
  match k with
  | .ok => s
  | .addr => s.incD (dk 0x2300 3)
  | .part => s.incD (dk 0x2300 4)
  | .bad => (s.incD (dk 0x2300 3)).moduleFault 1

/-- A request of the management complex that its target refuses: counted there, and PARTITION_FAULT here for a failed partition check
(R19, R322). -/
def State.mgmtRefuse (s : State) (p : PartId) (k : Chk) : State :=
  let s := s.refuse k
  if k = .part then s.raiseMgmt p 0x0B 1 else s

def Chk.status : Chk → Byte
  | .ok => stOk
  | .addr => stAddr
  | .part => stPart
  | .bad => stAddr

/-- ERR status that stands for a refusal at this module. -/
def Chk.errCode (k : Chk) : BitVec 4 := if k = .part then 2 else 1

/-- Pieces (offset, length) of a range, cut at each boundary of `size` in the address (R238). -/
def pieces (size : Nat) : Nat → Nat → Nat → Nat → List (Nat × Nat)
  | 0, _, _, _ => []
  | n + 1, a, r, len =>
    if len ≤ r then []
    else
      let m := Nat.min (len - r) (size - (a + r) % size)
      (r, m) :: pieces size n a (r + m) len

def piecesOf (size a len : Nat) : List (Nat × Nat) := pieces size (len / size + 2) a 0 len

/-- What a move has done so far: bytes moved, first refusal, whether a poisoned unit moved. -/
structure Moved where
  st : State
  len : Nat
  chk : Chk
  poison : Bool

/-- Move one piece within the module under a partition's ID: both checks, then the data with its poison (R19, R219). -/
def movePiece (p : PartId) (src dst : W64) (m : Moved) (e : Nat × Nat) : Moved :=
  if m.chk ≠ .ok then m
  else
    let a := src + BitVec.ofNat 64 e.1
    let b := dst + BitVec.ofNat 64 e.1
    match m.st.check p a e.2 with
    | .ok =>
      match m.st.check p b e.2 with
      | .ok =>
        let (s, l, ps) := m.st.readMem (aKey a) e.2
        { st := s.writeMem (aKey b) l ps, len := m.len + e.2, chk := .ok, poison := m.poison || ps.any id }
      | k => { m with st := m.st.refuse k, chk := k }
    | k => { m with st := m.st.refuse k, chk := k }

/-- Headers of the blocks a move of `len` bytes touched: carried where the block moved whole, else merged (R310, R311). -/
def State.moveHeaders (s : State) (f : Former) (src dst : Nat) (len : Nat) : State :=
  (blocksOf dst len).foldl (fun s b =>
    let lo := b * 4096
    if dst ≤ lo ∧ lo + 4096 ≤ dst + len ∧ (src + (lo - dst)) % 4096 = 0 then
      { s with mem := s.mem.setHeader b (s.mem.header ((src + (lo - dst)) / 4096)) }
    else s.mergeBlock f b) s

/-- Copy within the module (R171): pieces of 512 bytes in ascending address, up to the first that is refused. -/
def State.move (s : State) (f : Former) (p : PartId) (src dst : W64) (len : Nat) : Moved :=
  let m := (piecesOf 512 (aOff dst) len).foldl (movePiece p src dst) ⟨s, 0, .ok, false⟩
  { m with st := m.st.moveHeaders f (aKey src) (aKey dst) m.len }

def patternBytes (pat : W64) (n : Nat) : List Byte := (List.replicate ((n + 7) / 8) (leBytes 8 pat.toNat)).flatten.take n

/-- Fill one piece (R171). -/
def fillPiece (p : PartId) (pat dst : W64) (m : Moved) (e : Nat × Nat) : Moved :=
  if m.chk ≠ .ok then m
  else
    let b := dst + BitVec.ofNat 64 e.1
    match m.st.check p b e.2 with
    | .ok => { m with st := m.st.writeClean (aKey b) (patternBytes pat e.2), len := m.len + e.2 }
    | k => { m with st := m.st.refuse k, chk := k }

/-- A whole block filled is unchecked, and a block filled in part is merged (R309, R310). -/
def State.fillHeaders (s : State) (f : Former) (dst len : Nat) : State :=
  (blocksOf dst len).foldl (fun s b =>
    if dst ≤ b * 4096 ∧ b * 4096 + 4096 ≤ dst + len then { s with mem := s.mem.setHeader b 0 } else s.mergeBlock f b) s

def State.fillMove (s : State) (f : Former) (p : PartId) (pat dst : W64) (len : Nat) : Moved :=
  let m := (piecesOf 512 (aOff dst) len).foldl (fillPiece p pat dst) ⟨s, 0, .ok, false⟩
  { m with st := m.st.fillHeaders f (aKey dst) m.len }

/-- Status of a move (R167). -/
def Moved.status (m : Moved) : Byte := if m.chk ≠ .ok then m.chk.status else if m.poison then stPoison else stOk

/-- A refused partition check raises PARTITION_FAULT for the issuer (R322). -/
def State.workChk (s : State) (i : Issued) (status : Byte) : State :=
  let s := if status = stPart then s.partFault i.core i.ctx i.step else s
  s.work i status

/-! ## Requests to other modules -/

/-- A device ID that no request may name (R18). -/
def reservedDev (d : W16) : Bool := decide (0xC000 ≤ d.toNat) && d != 0xFFFE

/-- A request from a core: a packet without its TAG. -/
def State.reqPkt (s : State) (p : PartId) (opc tc lenM1 : Nat) (psn : Byte) (lc : Bool) (a : W64) (data : List W128) : Packet :=
  ⟨mkHdr s.ownDev 0 psn lenM1 opc tc 0 p lc a, data, none⟩

/-- Give a packet its TAG. -/
def withTag (h : W128) (tag : Nat) : W128 :=
  mkHdr (pSrc h) (BitVec.ofNat 12 tag) (pPsn h) (pLen h - 1) (pOpc h) (pTc h) (pVc h) (pPart h) (bitAt h 64) (pAddr h)

/-- Send one request of a unit; none when no TAG is free (R239). One without a path is lost, and ends under R242. -/
def State.sendReq (s : State) (kind unit : Nat) (u : Nat) (pl : Option PathPlan) (p : Packet) (r : Req) : Option State :=
  match s.freeTag kind unit with
  | none => none
  | some t =>
    let s := { s with nextTag := (t + 1) % 4096 }
    let s := s.setReq (reqKey kind unit t) (some r)
    some ((s.sendPlan pl u { p with hdr := withTag p.hdr t }).getD s)

/-- Data of an earlier packet to the block of a header packet has not been acknowledged (R312). -/
def State.blockOutstanding (s : State) (c : CoreId) (x : CtxId) (id : Nat) (a : W64) : Bool :=
  s.reqs.any (fun e => match e.2 with
    | some r => r.core == c && r.ctx == x && r.job == id && r.addr.toNat / 4096 == a.toNat / 4096
    | none => false)

/-- The next packet of a command's queue is sent, where its port has a tag free and block order lets it go. -/
def State.pumpStep (s : State) (c : CoreId) (x : CtxId) (id : Nat) : Option State :=
  match s.job c x id with
  | none => none
  | some j =>
    match j.queue with
    | [] => none
    | (p, k) :: rest =>
      let a := pAddr p.hdr
      if pTc p.hdr = 2 ∧ pPsn p.hdr = 0xFE ∧ s.blockOutstanding c x id a then none
      else (s.sendReq 0 c.val c.val (s.planOf (pPart p.hdr)) p ⟨c, x, id, a, k⟩).map
        (fun s => s.modJob c x id (fun j => { j with queue := rest, outst := j.outst + 1 }))

/-- Let a command's queued packets go, in order, as far as TAGs allow. On TC-BLK a header packet waits for its block's data. -/
def pumpGo (c : CoreId) (x : CtxId) (id : Nat) : Nat → State → State
  | 0, s => s
  | n + 1, s =>
    match s.pumpStep c x id with
    | none => s
    | some s => pumpGo c x id n s

def State.pump (s : State) (c : CoreId) (x : CtxId) (id : Nat) : State :=
  match s.job c x id with
  | some j => pumpGo c x id j.queue.length s
  | none => s

/-- Write packets of a range, data read here under the issuer's ID, with header packets for whole blocks; or the refusal of a source
piece (R238, R241, R311, R312). -/
def State.putPackets (s : State) (p : PartId) (tc : Nat) (lc : Bool) (src dst : W64) (len : Nat) : State × Chk × List (Packet × Sink) :=
  let pv := s.pver p
  let ps := piecesOf (maxPkt pv) (aOff dst) len
  let (s, k, l) := ps.foldl (fun (a : State × Chk × List (Packet × Sink)) e =>
    if a.2.1 ≠ .ok then a
    else
      let sa := src + BitVec.ofNat 64 e.1
      let da := dst + BitVec.ofNat 64 e.1
      match a.1.check p sa e.2 with
      | .ok =>
        let (s, bs, psn) := a.1.readMem (aKey sa) e.2
        let pk := s.reqPkt p 0x01 tc (e.2 / 16 - 1) (mkPsn pv e.2 psn) lc da (unitsOfBytes bs)
        let blockEnd := (aOff da + e.2) % 4096 = 0
        let back := e.1 + e.2 - 4096
        let hdr : List (Packet × Sink) :=
          if blockEnd ∧ 4096 ≤ e.1 + e.2 ∧ (aOff src + back) % 4096 = 0 then
            let h := s.mem.header ((aKey src + back) / 4096)
            [(s.reqPkt p 0x01 tc 0 0xFE lc (dst + BitVec.ofNat 64 back) [h.zeroExtend 128], Sink.ack)]
          else []
        (s, .ok, a.2.2 ++ [(pk, Sink.ack)] ++ hdr)
      | k => (a.1.refuse k, k, a.2.2)) (s, .ok, [])
  (s, k, l)

/-- Read packets of a range, cut at boundaries of the source, with header reads for whole blocks (R238, R312). -/
def State.getPackets (s : State) (p : PartId) (tc : Nat) (lc : Bool) (src dst : W64) (len : Nat) : List (Packet × Sink) :=
  (piecesOf (maxPkt (s.pver p)) (aOff src) len).flatMap (fun e =>
    let sa := src + BitVec.ofNat 64 e.1
    let key := aKey dst + e.1
    let back := e.1 + e.2 - 4096
    [(s.reqPkt p 0x02 tc (e.2 / 16 - 1) 0 lc sa [], Sink.mem key (e.2 / 16))] ++
    (if (aOff sa + e.2) % 4096 = 0 ∧ 4096 ≤ e.1 + e.2 ∧ (aKey dst + back) % 4096 = 0 then
      [(s.reqPkt p 0x02 tc 0 0xFE lc (src + BitVec.ofNat 64 back) [], Sink.header ((aKey dst + back) / 4096))]
    else []))

/-- Status of a command whose requests have all been answered (R240, R242). -/
def Job.reqStatus (j : Job) : Byte :=
  if !j.errs.isEmpty then (if j.errs.all (· == 2) then stPart else stAddr)
  else if j.timedOut then stCheck
  else if j.poison then stPoison
  else stOk

/-- A synchronisation operation as a packet (R291, R292). -/
def State.syncPkt (s : State) (p : PartId) (o : SyncOp) (a : W64) : Packet :=
  s.reqPkt p (if o.kind = .add then 0x06 else 0x07) 0 0 0 false a [o.data]

/-- Apply a synchronisation operation of this module's own units, with the target's checks (R19, R291). -/
def State.localSync (s : State) (p : PartId) (a : W64) (o : SyncOp) : State × Chk :=
  if aSpace a ≠ 2 then (s.refuse .addr, .addr)
  else match s.check p a 8 with
    | .ok => (s.applySync (coreOf (aOff a / 2 ^ 15)) (aOff a % 2 ^ 15 / 8) o, .ok)
    | k => (s.refuse k, k)

/-- A command ahead of this one in its context still has packets for TC-ORD or TC-MGT to send (R238). -/
def Ctx.ordAhead (k : Ctx) (id : Nat) : Bool :=
  (k.jobs.takeWhile (fun j => j.id != id)).any (fun j => j.engine == .transfer && j.status.isNone &&
    (j.queue.any (fun e => pTc e.1.hdr != 2) || (match j.work with
      | .signal _ _ ord => ord
      | _ => false)))

/-- Let a transfer command's packets go, in the order of R238. Suspended filler work does nothing (R176). -/
def State.pumpOrd (s : State) (c : CoreId) (x : CtxId) (id : Nat) : State :=
  match s.job c x id with
  | none => s
  | some j =>
    if (s.ctx c x).suspended ∨ j.queue.isEmpty ∨ ((s.ctx c x).ordAhead id ∧ j.queue.any (fun e => pTc e.1.hdr ≠ 2)) then s else s.pump c x id

/-- Let every transfer command of a core send what it can. -/
def State.pumpAll (s : State) (c : CoreId) : State :=
  [CtxId.primary, CtxId.filler].foldl (fun s x => (s.ctx c x).jobs.foldl (fun s j =>
    if j.engine = .transfer ∧ !j.queue.isEmpty then s.pumpOrd c x j.id else s) s) s

/-- A command of which a response has arrived goes on; one that a partition check refused raises PARTITION_FAULT whatever else it received
(R19, R322): more packets, the signal of a PUTSIG after its data (R172), or its end. -/
def State.jobNext (s : State) (c : CoreId) (x : CtxId) (id : Nat) : State :=
  let s := s.pumpAll c
  match s.job c x id with
  | none => s
  | some j =>
    if j.outst ≠ 0 ∨ !j.queue.isEmpty ∨ j.status.isSome then s
    else
      let st := j.reqStatus
      match j.work, decide (st = stOk ∨ st = stPoison) with
      | .signal obj data _, true =>
        let p := s.reqPkt (s.partD c x) 0x06 0 0 0 false obj [data]
        (s.modJob c x id (fun j => { j with work := .none, queue := [(p, Sink.ack)] })).pumpAll c
      | _, _ =>
        let s := if j.errs.contains 2 then s.partFault c x j.step else s
        (s.setStatus c x id st).pumpAll c

/-- Requests to a device are refused here: a reserved ID, no accepted plan, no ID of its own (R18, R436). -/
def State.noPath (s : State) (p : PartId) (dev : W16) : Bool := reservedDev dev || (s.planOf p).isNone || s.ownDev == 0xFFFF

/-- Start a command's requests (R238): queued in order, then sent. -/
def State.startReqs (s : State) (i : Issued) (dev : W16) (ps : List (Packet × Sink)) : State :=
  if s.noPath (s.partD i.core i.ctx) dev then s.work i stAddr
  else (s.modJob i.core i.ctx i.id (fun j => { j with queue := ps })).jobNext i.core i.ctx i.id

end Sys2Proof.Machine
end

