-- ==== Sys2Proof/Machine/Access.lean ====
section
/-!
DEFINITION. The target side of the fabric: requests that arrive from other modules, the checks they meet (R17, R19, R236, R237), what
they do to memory, headers and objects, and the responses (R239 to R243, R311).
-/
namespace Sys2Proof.Machine

/-! ## Arrival -/

/-- Opcodes of Table 10-4 that a packet can carry. -/
def listedOpc (n : Nat) : Bool := decide ((0x01 ≤ n ∧ n ≤ 0x0A) ∨ (0x10 ≤ n ∧ n ≤ 0x12) ∨ n = 0x14)

/-- Kind and number of the unit that made a request of another module (R239, log entry 22). A synchronisation operation names its
core in its data. -/
def reqUnit (p : Packet) : Nat × Byte :=
  if pOpc p.hdr = 0x06 ∨ pOpc p.hdr = 0x07 then (0, fld (p.data.headD 0) 75 8)
  else ((Config.requestUnit (pSrc p.hdr) (pTag p.hdr)).1.val, (Config.requestUnit (pSrc p.hdr) (pTag p.hdr)).2)

/-- Plan and planes of a response (Table 10-5): sprayed for a TC-BLK request, else the plane on which the request arrived. -/
def State.rspPlan (s : State) (p : Packet) : PathPlan :=
  let pl := (s.planOf (pPart p.hdr)).getD ⟨[], [], 0⟩
  match p.port with
  | some n => if pTc p.hdr ≠ 2 ∧ n.val < 8 then { pl with planes := [n.val] } else pl
  | none => pl

/-- Send the response to a request (R239). Where the partition's plan has no path to the requester, it leaves on the port on which the
request arrived (Table 10-5: on the plane of its request; DEDUCED, log 30). -/
def State.respond (s : State) (p : Packet) (opc status : Nat) (psn : Byte) (data : List W128) : State :=
  let (k, u) := reqUnit p
  let src := pSrc p.hdr
  let blk := decide (pTc p.hdr = 2)
  let pl := s.rspPlan p
  match s.nextHop pl (routeNo k u.toNat) s.ownDev src (pPart p.hdr) 3 blk with
  | none =>
    match p.port with
    | some n =>
      s.toPort n ⟨mkHdr s.ownDev (pTag p.hdr) psn (data.length - 1) opc 3 (pVc p.hdr) (pPart p.hdr) false (rspAddr src k u status), data, none⟩
    | none => s
  | some h =>
    let s := if blk then { s with spray := s.spray + 1 } else s
    s.toPort h.port ⟨mkHdr s.ownDev (pTag p.hdr) psn (data.length - 1) opc 3 h.vc (pPart p.hdr) false (rspAddr src k u status), data, none⟩

def State.sendAck (s : State) (p : Packet) : State := s.respond p 0x04 0 0 []

/-- A refused request is counted and answered with ERR (R237, R240). -/
def State.sendErr (s : State) (p : Packet) (k : Chk) : State := (s.refuse k).respond p 0x05 (if k = .part then 2 else 1) 0 []

/-- ERR with status 3 (R237). -/
def State.unsupported (s : State) (p : Packet) : State := (s.refuse .addr).respond p 0x05 3 0 []

/-- A packet arrives at this module: dropped while the module has no ID (R234) or on a bad HCHK (R236, R242), answered with status 3
for an unlisted opcode (R237), and otherwise taken when it is this row's. It has left the receive buffer then (R244). -/
def State.arrive (s : State) (p : Packet) (mine : Bool) (f : State → State) : Host.Outcome State Fault Refusal :=
  if s.ownDev = 0xFFFF then .next s
  else if !hchkOk p.hdr then .next ((s.freeBuffer p).incD (dk 0x2300 5))
  else if pDst p.hdr ≠ s.ownDev ∨ pOpc p.hdr = 0 then .next s
  else if !listedOpc (pOpc p.hdr) then .next ((s.freeBuffer p).unsupported p)
  else if mine then .next (f (s.freeBuffer p))
  else .next s

/-- A header packet (R311). -/
def isHeader (p : Packet) : Bool := decide (pLen p.hdr = 1) && pPsn p.hdr == 0xFE

/-- A message to the mailbox of a collective engine (R268): it takes WR on TC-COL only. -/
def isMail (p : Packet) : Bool :=
  pOpc p.hdr == 0x01 && pTc p.hdr == 1 && aSpace (pAddr p.hdr) == 4 && decide (0x3FF000 ≤ aOff (pAddr p.hdr) % 2 ^ 22) && !isHeader p

/-! ## Writes and reads -/

/-- Poison of the memory units that `n` bytes from `k` touch, from the flags of the packet's own 64-byte units (R241). -/
def unitFlags (k n : Nat) (ps : List Bool) : List Bool :=
  (unitsOf k n).map (fun u => (List.range ps.length).any (fun g =>
    ps.getD g false && decide (k + 64 * g < 64 * u + 64 ∧ 64 * u < k + Nat.min n (64 * g + 64))))

/-- The space an opcode serves, then the checks of R17 and R19. -/
def State.reqCheck (s : State) (p : Packet) (spaces : List Nat) (len : Nat) : Chk :=
  if spaces.contains (aSpace (pAddr p.hdr)) then s.check (pPart p.hdr) (pAddr p.hdr) len else .addr

/-- A write is performed: its data with its poison, then a merge of the blocks it touched (R239, R241, R310). -/
def State.takeWrite (s : State) (p : Packet) : State :=
  let l := bytesOfUnits p.data
  match s.reqCheck p [0, 1] l.length with
  | .ok =>
    let k := aKey (pAddr p.hdr)
    (s.writeMerge Former.mgmt k l (unitFlags k l.length (psnUnits (s.pver (pPart p.hdr)) l.length (pPsn p.hdr)))).sendAck p
  | c => s.sendErr p c

/-- The stored codeword of a unit differs by `e` from the clean codeword of its data. -/
def storedError (st : UnitSt) (e : List (Fin 72 × Byte)) : List (Fin 72 × Byte) :=
  match st with
  | .poisoned => e ++ rsPoison
  | _ => e

/-- Decode one burst with an upset on it: the bytes delivered, the poison, and what decoding did (R216, R217). -/
def State.readUpset (s : State) (u : Nat) (e : List (Fin 72 × Byte)) (src : BitVec 2) : State × List Byte × Bool :=
  let l := s.mem.bytes (64 * u) 64
  match s.mem.unit u with
  | .raw => let (s, p) := s.touch u src; (s, l, p)
  | st =>
    let r := rsUpset e l
    match rsDecode (storedError st e) with
    | .ue => let (s, p) := ({ s with mem := s.mem.put (64 * u) r }).decodeUnit u .ue src; (s, r, p)
    | .ce k m p => let (s, p) := s.decodeUnit u (.ce k m p) src; (s, rsUpset [(k, m)] r, p)
    | o => let (s, p) := s.decodeUnit u o src; (s, r, p)

/-- Bytes a read takes, with an upset in the first unit it touches: symbols `e` of a burst of DRAM (R216), or bits `f` of the words of a
unit of core memory (R207). -/
def State.readWith (s : State) (k n : Nat) (e : List (Fin 72 × Byte)) (f : List (Fin 8 × Byte × Byte)) :
    State × List Byte × List Bool :=
  if 2 ^ 40 ≤ k then (s.sramFlips (coreOf ((k - 2 ^ 40) / 2 ^ 22)) (k / 64) f).readMem k n
  else if e.isEmpty then s.readMem k n
  else
    let (s, first, p) := s.readUpset (k / 64) e 0
    let (s, l, ps) := s.readMem k n
    let m := Nat.min n (64 - k % 64)
    (s, (first.drop (k % 64)).take m ++ l.drop m, p :: ps.drop 1)

/-- Checks of an operation on an object: an 8-byte aligned address of SPACE 0x2 (R16, R289). -/
def State.objCheck (s : State) (p : Packet) : Chk :=
  if aOff (pAddr p.hdr) % 8 ≠ 0 then .addr else s.reqCheck p [2] 8

/-- The read that a SYNCREAD sends (Table 12-2). -/
def isSyncRead (p : Packet) : Bool := decide (aSpace (pAddr p.hdr) = 2) && decide (pLen p.hdr = 1) && decide (pTc p.hdr = 0)

/-- A read is answered with its data and its poison (R239, R241); a SYNCREAD with the object word (R291). -/
def State.takeRead (s : State) (p : Packet) (e : List (Fin 72 × Byte)) (f : List (Fin 8 × Byte × Byte)) : State :=
  let a := pAddr p.hdr
  if isSyncRead p then
    match s.objCheck p with
    | .ok =>
      let (s, v) := s.readObj (coreOf (aOff a / 2 ^ 15)) (aOff a % 2 ^ 15 / 8)
      s.settle.respond p 0x03 0 0 [v.zeroExtend 128]
    | c => s.sendErr p c
  else
    let n := 16 * pLen p.hdr
    match s.reqCheck p [0, 1] n with
    | .ok =>
      let (s, l, ps) := s.readWith (aKey a) n e f
      s.respond p 0x03 0 (mkPsn (s.pver (pPart p.hdr)) n ps) (unitsOfBytes l)
    | c => s.sendErr p c

/-- RDQ (R239). -/
def execRdq (p : Packet) (e : ReadErrors) (s : State) : Host.Outcome State Fault Refusal :=
  s.arrive p (pOpc p.hdr == 0x02 && !isHeader p) (fun s => s.takeRead p e.symbols e.flips)

/-- Checks of a header packet: a 4 KiB block of SPACE 0x0 or 0x1 (R311). -/
def State.hdrCheck (s : State) (p : Packet) : Chk :=
  if aOff (pAddr p.hdr) % 4096 ≠ 0 then .addr else s.reqCheck p [0, 1] 4096

/-- HEADER_WRITE (R311). -/
def execHeaderWrite (p : Packet) (s : State) : Host.Outcome State Fault Refusal :=
  s.arrive p (pOpc p.hdr == 0x01 && isHeader p) (fun s =>
    match s.hdrCheck p with
    | .ok => ({ s with mem := s.mem.setHeader (aKey (pAddr p.hdr) / 4096) (fld (p.data.headD 0) 0 64) }).sendAck p
    | c => s.sendErr p c)

/-- HEADER_READ (R311). -/
def execHeaderRead (p : Packet) (s : State) : Host.Outcome State Fault Refusal :=
  s.arrive p (pOpc p.hdr == 0x02 && isHeader p) (fun s =>
    match s.hdrCheck p with
    | .ok => s.respond p 0x03 0 0 [(s.mem.header (aKey (pAddr p.hdr) / 4096)).zeroExtend 128]
    | c => s.sendErr p c)

/-! ## Synchronisation operations (R291 to R299) -/

/-- A synchronisation operation arrives from another module (R237, R293). -/
def State.takeSync (s : State) (p : Packet) (k : SyncKind) : State :=
  match s.objCheck p with
  | .ok =>
    let a := pAddr p.hdr
    (s.applySync (coreOf (aOff a / 2 ^ 15)) (aOff a % 2 ^ 15 / 8) (syncOpOf k (pSrc p.hdr) (p.data.headD 0))).settle.sendAck p
  | c => s.sendErr p c

/-- SADD (R293). -/
def execSadd (p : Packet) (s : State) : Host.Outcome State Fault Refusal :=
  s.arrive p (pOpc p.hdr == 0x06) (fun s => s.takeSync p .add)

/-- SSET (R293). Mode 0b11 is refused with status 3 (R291). -/
def execSset (p : Packet) (s : State) : Host.Outcome State Fault Refusal :=
  s.arrive p (pOpc p.hdr == 0x07) (fun s =>
    match setKind (fld (p.data.headD 0) 73 2) with
    | some k => s.takeSync p k
    | none => s.unsupported p)

/-! ## Messages -/

/-- A message of another management complex, by KIND of its first unit (R334). -/
def msgKind (p : Packet) : Nat := fldN (p.data.headD 0) 0 8
def msgPart (p : Packet) : PartId := partOf (fldN (p.data.headD 0) 16 4)
def msgTerm (p : Packet) : Nat := fldN (p.data.headD 0) 32 32
def msgField (p : Packet) : W64 := fld (p.data.headD 0) 64 64

def isMsg (p : Packet) (kind : Nat) : Bool := pOpc p.hdr == 0x14 && msgKind p == kind

/-- A message of a lower term of this module's pod, which is ignored (R333); terms of other pods are their own. -/
def State.staleTerm (s : State) (p : Packet) : Bool := samePod (pSrc p.hdr) s.ownDev && decide (msgTerm p < s.dN termKey)

/-- A loss notice arrives (R297). -/
def execLossNotice (p : Packet) (s : State) : Host.Outcome State Fault Refusal :=
  s.arrive p (isMsg p 0x08) (fun s =>
    let f := msgField p
    if s.staleTerm p then s
    else (s.lossNotice (msgPart p) (fld f 0 16) (fld f 16 8) (bitAt f 24) (fld f 32 16)).settle)

end Sys2Proof.Machine
end

