-- ==== Sys2Proof/Machine/Dispatcher.lean ====
section
/-!
DEFINITION. The dispatcher's own commands (Table 7-2, R163 to R170, R202, R294, R348), opening deferred groups (R187) and admitting
filler work (R174 to R177).
-/
namespace Sys2Proof.Machine

/-- NOP (R158): only its waits and its signal. -/
def execNop (sl : Slot) (w : W256) (s : State) : Host.Outcome State Fault Refusal :=
  s.dispatch sl w 0x00 (fun i s => s.done i stOk)

/-- TOKSET (R165). -/
def execTokset (sl : Slot) (w : W256) (s : State) : Host.Outcome State Fault Refusal :=
  s.dispatch sl w 0x01 (fun i s =>
    (s.modCtx i.core i.ctx (fun k => k.setTok (cIdx w) (fld (cVal w) 0 16))).done i stOk)

/-- TOKADD (R165). -/
def execTokadd (sl : Slot) (w : W256) (s : State) : Host.Outcome State Fault Refusal :=
  s.dispatch sl w 0x02 (fun i s =>
    (s.modCtx i.core i.ctx (fun k => k.setTok (cIdx w) (k.tok (cIdx w) + fld (cVal w) 0 16))).done i stOk)

/-- CSET (R168). A counter beyond 7 breaks Table 7-3. -/
def execCset (sl : Slot) (w : W256) (s : State) : Host.Outcome State Fault Refusal :=
  s.dispatch sl w 0x03 (fun i s =>
    if 7 < cIdx w then s.done i stDesc
    else (s.onStream i (fun t => t.setCounter (cIdx w) (cVal w))).done i stOk)

/-- CADD (R168). -/
def execCadd (sl : Slot) (w : W256) (s : State) : Host.Outcome State Fault Refusal :=
  s.dispatch sl w 0x04 (fun i s =>
    if 7 < cIdx w then s.done i stDesc
    else (s.onStream i (fun t => t.setCounter (cIdx w) (t.counter (cIdx w) + cVal w))).done i stOk)

/-- RETIRE while LOOPs can still branch back: the oldest slot that one of them returns to, else HEAD (R155). -/
def Stream.retireAt (t : Stream) : Nat :=
  let age (d : Nat) : Nat := (t.tail % t.slots + t.slots - d) % t.slots
  t.loops.foldl (fun a e => if age a < age e.2 then e.2 else a) t.head

/-- HEAD, RETIRE and the counter after a LOOP from `slot` (R155, R168). -/
def Stream.loopBack (t : Stream) (slot idx off : Nat) : Stream :=
  let rest := t.loops.filter (fun e => e.1 != slot)
  let t := if t.counter idx = 0 then { t with loops := rest }
    else
      let dest := (slot + t.slots - off) % t.slots
      { t.setCounter idx (t.counter idx - 1) with head := dest, loops := (slot, dest) :: rest }
  { t with retire := t.retireAt }

/-- LOOP (R168). -/
def execLoop (sl : Slot) (w : W256) (s : State) : Host.Outcome State Fault Refusal :=
  s.dispatch sl w 0x05 (fun i s =>
    match srcStream i.src with
    | none => s.done i stOpc
    | some st =>
      if 7 < cIdx w ∨ cOff w = 0 ∨ (s.stream i.core st).slots ≤ cOff w then s.done i stDesc
      else (s.modStream i.core st (fun t => t.loopBack i.slot (cIdx w) (cOff w))).done i stOk)

/-- Hold the stream of a command until its condition holds. -/
def State.holdStream (s : State) (i : Issued) (h : HeadWait) : State := s.onStream i (fun t => { t with wait := some h })

/-- DRAIN (R166): it completes when every earlier command of its scope has. -/
def execDrain (sl : Slot) (w : W256) (s : State) : Host.Outcome State Fault Refusal :=
  s.dispatch sl w 0x06 (fun i s => s.holdStream i (.drain i.id (cScope w)))

/-- HALT (R167): the context halts without a status. -/
def execHalt (sl : Slot) (w : W256) (s : State) : Host.Outcome State Fault Refusal :=
  s.dispatch sl w 0x07 (fun i s =>
    (s.done i stOk).modCtx i.core i.ctx (fun k => { k with
      halted := true
      haltcode := cVal w
      resumeAt := (srcStream i.src).map (fun st => (st, i.slot + 1)) }))

/-- Phase codes of Table 7-2. -/
def phaseCode (n : Nat) : Option Phase :=
  match n with
  | 0 => some .fwd
  | 1 => some .bwdIn
  | 2 => some .bwdW
  | 3 => some .coll
  | 4 => some .upd
  | _ => none

/-- PHASE (R202). -/
def execPhase (sl : Slot) (w : W256) (s : State) : Host.Outcome State Fault Refusal :=
  s.dispatch sl w 0x08 (fun i s =>
    match phaseCode (cIdx w) with
    | none => s.done i stDesc
    | some p => (s.onStream i (fun t => { t with phase := p })).done i stOk)

/-- MARK (R158): module time, VAL and step as 16 bytes of core memory, under the partition check of R178. -/
def execMark (sl : Slot) (w : W256) (s : State) : Host.Outcome State Fault Refusal :=
  s.dispatch sl w 0x09 (fun i s =>
    let k := s.check (s.partD i.core i.ctx) (coreAddr i.core (cAddr w)) 16
    if cAddr w % 16 ≠ 0 ∨ 0x400000 < cAddr w + 16 then s.done i stDesc
    else if k ≠ .ok then ((s.refuse k).workChk i k.status).done i k.status
    else (s.writeMerge (Former.core i.core) (ckey i.core (cAddr w))
      (leBytes 8 s.now.toNat ++ leBytes 4 (cVal w).toNat ++ leBytes 4 i.step.toNat) []).done i stOk)

/-- NOTIFY (R348): a completion record with the code; the command completes when the record is acknowledged. -/
def execNotify (sl : Slot) (w : W256) (s : State) : Host.Outcome State Fault Refusal :=
  s.dispatch sl w 0x0A (fun i s =>
    let p := s.partD i.core i.ctx
    s.postRecord p (mkRecord (cVal2 w ++ cVal w) 0 0 0x02 0 i.core.val (ctxBit i.ctx) p 0) false (some (i.core, i.ctx, i.id)))

/-! ## Deferred groups (R169, R187, R189) -/

/-- The stash entry that a deferred RQ reads, when it exists (R186). -/
def State.groupRef (s : State) (c : CoreId) (w : W256) : Option (BitVec 12 × W16) :=
  if cOp w = 0x12 ∧ dSth w ∧ (stFind (s.stash c) (dSlayer w) (dSentry w)).isSome then some (dSlayer w, dSentry w) else none

/-- Post a group: its commands with their descriptor offsets and ids, its guards and its references (R168, R169, R186, R189). -/
def State.post (s : State) (c : CoreId) (t : Stream) (ws : List W256) : State :=
  let id0 := (s.ctx c .primary).nextId
  let cs := ((List.range ws.length).zip ws).map (fun e => DCmd.mk e.2 (id0 + e.1) (descOff t e.2) (s.groupRef c e.2).isSome)
  let gs := ((List.range ws.length).zip (s.groupGuards c t ws)).flatMap (fun e => e.2.map (fun r => Guard.mk (id0 + e.1) r.1 r.2))
  let refs := ws.filterMap (s.groupRef c)
  let s := s.modCtx c .primary (fun k => { k with nextId := k.nextId + ws.length })
  s.modCore c (fun k => { k with
    dq := { k.dq with groups := k.dq.groups ++ [cs], guards := k.dq.guards ++ gs, posts := k.dq.posts + 1 }
    stash := refs.foldl stRef k.stash })

/-- DEFER (R169). -/
def execDefer (sl : Slot) (w : W256) (s : State) : Host.Outcome State Fault Refusal :=
  let st := (srcStream sl.src).getD .s0
  let n := cNcmd w
  let ws := s.groupWords sl.core st n
  let t := s.stream sl.core st
  s.dispatch sl w 0x0B (fun i s =>
    if ws.any (fun w => !deferrable (cOp w).toNat) then s.deferFail i stOpc
    else if 128 < ((s.groupGuards i.core t ws).map List.length).foldl (· + ·) 0 then s.deferFail i stDesc
    else ((s.onStream i (fun t => t.skip n)).post i.core t ws).done i stOk)

/-- STEPCOMMIT (R170): it waits for DQ, for earlier commands and for the gates. -/
def execStepcommit (sl : Slot) (w : W256) (s : State) : Host.Outcome State Fault Refusal :=
  s.dispatch sl w 0x0C (fun i s => s.holdStream i (.commit i.id (cWg w) i.step))

/-- SYNCWAIT (R291, R294): it completes at issue when its condition holds, else it holds its stream. -/
def execSyncwait (sl : Slot) (w : W256) (s : State) : Host.Outcome State Fault Refusal :=
  s.dispatch sl w 0x23 (fun i s =>
    let a := sObj w
    if aSpace a ≠ 2 ∨ aOff a % 8 ≠ 0 ∨ !addrForm a 8 ∨ sCond w = 3 then s.done i stDesc
    else
      let c := coreOf (aOff a / 2 ^ 15)
      let k := aOff a % 2 ^ 15 / 8
      if !s.isOwn a ∨ c ≠ i.core ∨ (s.ctx c (s.objCtx c k)).part ≠ (s.ctx i.core i.ctx).part then s.done i stPart
      else
        let wd := (s.d (dkx 0x2900 (s.partD i.core i.ctx) 2)).setWidth 32
        (s.holdStream i (.sync i.id k (sCond w) (fld (sVal w) 0 48) (s.obj c k).epoch s.now false wd)).meetWaits c k)

/-! ## Opening a group (R187) -/

/-- The head of a stream is a SYNCWAIT whose condition does not hold: one that holds the stream, or one not yet issued. -/
def State.syncHead (s : State) (c : CoreId) (st : StreamId) : Bool :=
  match (s.stream c st).wait with
  | some (.sync _ _ _ _ _ _ _ _) => true
  | some _ => false
  | none =>
    let w := s.headWord c st
    s.offers c st && cOp w == 0x23 && !condMet (sCond w) (s.obj c (aOff (sObj w) % 2 ^ 15 / 8)).count (fld (sVal w) 0 48)

/-- The command at the head of a stream is held for one of some reasons. -/
def State.headHeld (s : State) (c : CoreId) (st : StreamId) (f : Hold → Bool) : Bool :=
  match s.headAt c st with
  | .hold h => f h
  | _ => false

/-- The command at the head of a stream is held under R189: by a guard, or for guard space. -/
def State.guardHeldAt (s : State) (c : CoreId) (st : StreamId) : Bool := s.headHeld c st (fun h => h == .guard || h == .guardSpace)

/-- A DEFER waits at the head of a stream, for whatever reason (Table 8-1). -/
def State.deferWaits (s : State) (c : CoreId) (st : StreamId) : Bool :=
  s.offers c st && cOp (s.headWord c st) == 0x0B && s.headHeld c st (fun _ => true)

def isTensor (op : Nat) : Bool := op == 0x10

/-- The tensor engine holds no primary command and no TENSOR of S0 or S1 is ready (Table 8-1). -/
def State.tensorQuiet (s : State) (c : CoreId) : Bool :=
  (s.ctx c .primary).tenq.isEmpty && !s.headReady c .s0 isTensor && !s.headReady c .s1 isTensor

/-- First condition of Table 8-1 that holds. -/
def State.openCond (s : State) (c : CoreId) : Option Nat :=
  let heads (f : StreamId → Bool) : Bool := f .s0 || f .s1
  if !(heads (fun st => s.headReady c st isTensor)) && heads (s.syncHead c) then some 1
  else if s.tensorQuiet c && decide ((s.core c).dq.idlethr.toNat ≤ (s.core c).quietCyc) then some 2
  else if heads (s.guardHeldAt c) then some 3
  else if 64 ≤ (s.core c).dq.groups.length ∧ heads (s.deferWaits c) then some 4
  else if (s.heldCommit c .primary).isSome then some 5
  else none

/-- DQ_GROUP_OPEN (R187, R190). -/
def execDqGroupOpen (c : CoreId) (s : State) : Host.Outcome State Fault Refusal :=
  let q := (s.core c).dq
  if q.isOpen || q.groups.isEmpty then .next s
  else match s.openCond c with
    | none => .next s
    | some n => .next (s.modCore c (fun k => { k with dq := { k.dq with
        isOpen := true
        pos := 0
        lastCond := BitVec.ofNat 3 n
        draws := k.dq.draws + 1
        syncdraws := if n = 1 then k.dq.syncdraws + 1 else k.dq.syncdraws
        idledraws := if n = 2 then k.dq.idledraws + 1 else k.dq.idledraws
        forceddraws := if 3 ≤ n then k.dq.forceddraws + 1 else k.dq.forceddraws } }))

/-! ## Filler admission (R174 to R177) -/

/-- A tile of the quantiser that has not begun to write is abandoned at a yield: what it has read is dropped, and reads in flight no longer
count (Table 7-11, R177). -/
def Job.abandon (j : Job) : Job :=
  match j.work with
  | .rq _ => { j with queue := [], fetched := [], fpoison := [], errs := [], timedOut := false }
  | _ => j

/-- Reads in flight of abandoned tiles of a core's filler context: their answers are counted and dropped. -/
def State.abandonReads (s : State) (c : CoreId) : State :=
  let rq (id : Nat) : Bool := (s.ctx c .filler).jobs.any (fun j => j.id == id && (match j.work with
    | .rq _ => true
    | _ => false))
  { s with reqs := s.reqs.map (fun e => (e.1, e.2.map (fun r => if r.core = c ∧ r.ctx = .filler ∧ rq r.job then { r with sink := .ack } else r))) }

/-- FILLER_YIELD (R176): no further S2 command issues, and work in progress is suspended at its boundary. A K tile, a row of the vector engine
and a 512-byte unit are done within one step of the model, so that every yield comes at such a boundary (log entry 89). -/
def execFillerYield (c : CoreId) (s : State) : Host.Outcome State Fault Refusal :=
  let k := s.ctx c .filler
  if !s.primaryReady c then .next s
  else .next ((s.abandonReads c).modCore c (fun q => { q with
    admitted := false
    idleCyc := 0
    fill := { q.fill with
      suspended := k.suspended || k.jobs.any (fun j => j.status.isNone)
      jobs := q.fill.jobs.map Job.abandon } }))

end Sys2Proof.Machine
end

