-- ==== Sys2Proof/Machine/Float.lean ====
section
/-!
DEFINITION. Binary floating point, computed exactly and rounded once (R25, R26, R28 to R35): formats, rounding, conversions and
the arithmetic operations of IEEE 754-2019 that the engines use, each with the exception flags it raises.
-/
namespace Sys2Proof.Machine

/-- A binary format: exponent bits, fraction bits, bias, and whether it lacks infinities (E4M3, R28). -/
structure Fmt where
  eb : Nat
  mb : Nat
  bias : Int
  noInf : Bool
  deriving DecidableEq, Repr

def fp32 : Fmt := ⟨8, 23, 127, false⟩
def fp16 : Fmt := ⟨5, 10, 15, false⟩
def bf16 : Fmt := ⟨8, 7, 127, false⟩
def fp64 : Fmt := ⟨11, 52, 1023, false⟩
def e4m3 : Fmt := ⟨4, 3, 7, true⟩
def e5m2 : Fmt := ⟨5, 2, 15, false⟩

def Fmt.width (f : Fmt) : Nat := 1 + f.eb + f.mb
/-- Exponent of the smallest normal number (R26). -/
def Fmt.emin (f : Fmt) : Int := 1 - f.bias
/-- The code of +∞, or of the NaN of a format without infinities; every larger magnitude code is a NaN. -/
def Fmt.infCode (f : Fmt) : Nat :=
  if f.noInf then 2 ^ (f.eb + f.mb) - 1 else (2 ^ f.eb - 1) * 2 ^ f.mb
/-- The code of the largest finite value. -/
def Fmt.maxCode (f : Fmt) : Nat := f.infCode - 1
def Fmt.sign (f : Fmt) (neg : Bool) : Nat := if neg then 2 ^ (f.eb + f.mb) else 0
/-- Canonical qNaN with a sign (R26, R29). -/
def Fmt.qnan (f : Fmt) (neg : Bool) : Nat :=
  f.sign neg + (if f.noInf then f.infCode else f.infCode + 2 ^ (f.mb - 1))

/-- A value of a format. NaN payloads are the fraction bits, left-aligned to 52 bits. -/
inductive Fp where
  | nan (neg : Bool) (signalling : Bool) (payload : Nat)
  | inf (neg : Bool)
  | fin (neg : Bool) (m : Nat) (e : Int)
  deriving DecidableEq, Repr

def Fp.neg : Fp → Bool
  | .nan n _ _ => n
  | .inf n => n
  | .fin n _ _ => n
def Fp.isNan : Fp → Bool
  | .nan _ _ _ => true
  | _ => false
def Fp.isSnan : Fp → Bool
  | .nan _ s _ => s
  | _ => false
def Fp.isFin : Fp → Bool
  | .fin _ _ _ => true
  | _ => false
def Fp.isZero : Fp → Bool
  | .fin _ m _ => m == 0
  | _ => false
def Fp.negate : Fp → Fp
  | .nan n s p => .nan n s p
  | .inf n => .inf (!n)
  | .fin n m e => .fin (!n) m e

/-- The value a code stands for. FP8 NaNs are quiet (R29). -/
def unpack (f : Fmt) (c : Nat) : Fp :=
  let mag := c % 2 ^ (f.eb + f.mb)
  let neg := c / 2 ^ (f.eb + f.mb) % 2 == 1
  if f.infCode < mag || (f.noInf && mag == f.infCode) then
    let frac := mag % 2 ^ f.mb
    .nan neg (decide (4 < f.eb + f.mb ∧ 7 < f.eb + f.mb) && frac / 2 ^ (f.mb - 1) == 0) (frac * 2 ^ (52 - f.mb))
  else if mag == f.infCode then .inf neg
  else
    let e := mag / 2 ^ f.mb
    let m := mag % 2 ^ f.mb
    if e == 0 then .fin neg m (f.emin - f.mb) else .fin neg (m + 2 ^ f.mb) (f.emin - f.mb + ((e : Int) - 1))

/-- Rounding modes of R30. -/
inductive Rnd where
  | rne
  | rtz
  | rup
  | rdn
  | sr
  deriving DecidableEq, Repr

/-- Round the magnitude q + r/d to an integer (R30, R38); `rnd` is the random value of stochastic rounding. -/
def roundQ (md : Rnd) (neg : Bool) (q r d rnd : Nat) : Nat :=
  match md with
  | .rne => if 2 * r < d then q else if d < 2 * r then q + 1 else if q % 2 == 1 then q + 1 else q
  | .rtz => q
  | .rup => if r == 0 || neg then q else q + 1
  | .rdn => if r == 0 || !neg then q else q + 1
  | .sr => if rnd < 2 ^ 32 * r / d then q + 1 else q

/-- floor(log2 (num/den)) of a positive rational. -/
def ratLog2 (num den : Nat) : Int :=
  let g : Int := (Nat.log2 num : Int) - (Nat.log2 den : Int)
  let below := if 0 ≤ g then decide (num < den * 2 ^ g.toNat) else decide (num * 2 ^ (-g).toNat < den)
  if below then g - 1 else g

/-- num/den x 2^sh as a fraction of naturals. -/
def scaleRat (num den : Nat) (sh : Int) : Nat × Nat :=
  if 0 ≤ sh then (num * 2 ^ sh.toNat, den) else (num, den * 2 ^ (-sh).toNat)

/-- A rounded magnitude n x 2^qe with what rounding found. -/
structure Rounded where
  n : Nat
  qe : Int
  inexact : Bool
  tiny : Bool
  deriving DecidableEq, Repr

/-- Round num/den x 2^e to `mb + 1` significant bits, with a least quantum of 2^(emin - mb). Tininess is detected after rounding
(R35). -/
def roundRat (mb : Nat) (emin : Int) (md : Rnd) (neg : Bool) (num den : Nat) (e : Int) (rnd : Nat) : Rounded :=
  if num == 0 then ⟨0, emin - mb, false, false⟩
  else
    let ex := ratLog2 num den + e
    let qe := max ex emin - mb
    let (a, b) := scaleRat num den (e - qe)
    let n := roundQ md neg (a / b) (a % b) b rnd
    let tiny :=
      if emin ≤ ex then false
      else
        let (a', b') := scaleRat num den (e - (ex - mb))
        let n' := roundQ md neg (a' / b') (a' % b') b' rnd
        !(ex == emin - 1 && n' == 2 ^ (mb + 1))
    ⟨n, qe, a % b != 0, tiny⟩

/-- The code and flags of a rounded magnitude; `sat` saturates on overflow (R31). -/
def encodeMag (f : Fmt) (md : Rnd) (neg : Bool) (sat : Bool) (r : Rounded) : Nat × Flags :=
  let code := r.n + (r.qe - (f.emin - f.mb)).toNat * 2 ^ f.mb
  if f.infCode ≤ code then
    let toMax := sat || (match md with
      | .rtz => true
      | .rup => neg
      | .rdn => !neg
      | _ => false)
    (f.sign neg + (if toMax then f.maxCode else f.infCode), { ovf := true, inx := true })
  else (f.sign neg + code, { unf := r.tiny && r.inexact, inx := r.inexact })

/-- Round an exact finite value to a format. -/
def roundFin (f : Fmt) (md : Rnd) (sat : Bool) (neg : Bool) (num den : Nat) (e : Int) (rnd : Nat) : Nat × Flags :=
  encodeMag f md neg sat (roundRat f.mb f.emin md neg num den e rnd)

/-- A NaN written in a format: payload cut to its most significant bits, quiet bit set, sign kept (R29, R34). -/
def encodeNan (f : Fmt) (neg : Bool) (payload : Nat) : Nat :=
  if f.eb + f.mb ≤ 7 then f.qnan neg
  else
    let frac := payload / 2 ^ (52 - f.mb)
    f.sign neg + f.infCode + (if frac / 2 ^ (f.mb - 1) % 2 == 1 then frac else frac + 2 ^ (f.mb - 1))

/-- The flags of `a` that `b` has not. -/
def Flags.minus (a b : Flags) : Flags :=
  ⟨a.inv && !b.inv, a.dz && !b.dz, a.ovf && !b.ovf, a.unf && !b.unf, a.inx && !b.inx⟩

def Flags.or (a b : Flags) : Flags :=
  ⟨a.inv || b.inv, a.dz || b.dz, a.ovf || b.ovf, a.unf || b.unf, a.inx || b.inx⟩

/-- Convert a code between formats (R32 to R35). An FP8 NaN widens to the canonical qNaN with its sign (R29). -/
def convert (src dst : Fmt) (md : Rnd) (ovf : Bool) (rnd : Nat) (c : Nat) : Nat × Flags :=
  match unpack src c with
  | .nan neg s p => (if src.eb + src.mb ≤ 7 then dst.qnan neg else encodeNan dst neg p, { inv := s })
  | .inf neg => (f' neg, { inv := dst.noInf })
  | .fin neg m e => roundFin dst md (decide (dst.eb + dst.mb ≤ 7) && !ovf) neg m 1 e rnd
where f' (neg : Bool) : Nat := dst.sign neg + dst.infCode

/-- Widen a code exactly to FP32 (R32). -/
def widen (src : Fmt) (c : Nat) : W32 × Flags :=
  let (v, fl) := convert src fp32 .rne true 0 c
  (BitVec.ofNat 32 v, fl)

/-! ## Arithmetic under RNE (R95, R139): every NaN result is the positive canonical qNaN -/

/-- a x 2^ea + b x 2^eb as one integer and exponent. -/
def addExact (a : Int) (ea : Int) (b : Int) (eb : Int) : Int × Int :=
  let e := min ea eb
  (a * 2 ^ (ea - e).toNat + b * 2 ^ (eb - e).toNat, e)

def signedMag (neg : Bool) (m : Nat) : Int := if neg then -(m : Int) else m

/-- Round an exact integer x 2^e under RNE; `zneg` is the sign of an exact zero. -/
def roundInt (f : Fmt) (v : Int) (e : Int) (zneg : Bool) : Nat × Flags :=
  if v == 0 then (f.sign zneg, {}) else roundFin f .rne false (decide (v < 0)) v.natAbs 1 e 0

def nanRes (f : Fmt) (inv : Bool) : Nat × Flags := (f.qnan false, { inv := inv })

/-- Addition. -/
def addF (f : Fmt) (x y : Fp) : Nat × Flags :=
  match x, y with
  | .nan _ _ _, _ => nanRes f (x.isSnan || y.isSnan)
  | _, .nan _ _ _ => nanRes f (x.isSnan || y.isSnan)
  | .inf a, .inf b => if a == b then (f.sign a + f.infCode, {}) else nanRes f true
  | .inf a, _ => (f.sign a + f.infCode, {})
  | _, .inf b => (f.sign b + f.infCode, {})
  | .fin a m e, .fin b n k =>
    let (v, ve) := addExact (signedMag a m) e (signedMag b n) k
    roundInt f v ve (a && b && m == 0 && n == 0)

/-- The exact product of two values, before rounding. -/
def mulExact (x y : Fp) : Fp × Bool :=
  match x, y with
  | .nan _ _ _, _ => (.nan false false 0, x.isSnan || y.isSnan)
  | _, .nan _ _ _ => (.nan false false 0, x.isSnan || y.isSnan)
  | .inf a, .inf b => (.inf (a != b), false)
  | .inf a, .fin b n _ => if n == 0 then (.nan false false 0, true) else (.inf (a != b), false)
  | .fin a m _, .inf b => if m == 0 then (.nan false false 0, true) else (.inf (a != b), false)
  | .fin a m e, .fin b n k => (.fin (a != b) (m * n) (e + k), false)

/-- Round a value under RNE, arithmetic results only. -/
def roundFp (f : Fmt) (x : Fp) : Nat × Flags :=
  match x with
  | .nan _ _ _ => nanRes f false
  | .inf n => (f.sign n + f.infCode, {})
  | .fin n m e => roundFin f .rne false n m 1 e 0

def mulF (f : Fmt) (x y : Fp) : Nat × Flags :=
  let (p, inv) := mulExact x y
  let (r, fl) := roundFp f p
  (r, fl.or { inv := inv })

/-- Fused multiply-add a x b + c with one rounding. -/
def fmaF (f : Fmt) (a b c : Fp) : Nat × Flags :=
  let (p, inv) := mulExact a b
  let (r, fl) := addF f p c
  (r, fl.or { inv := inv })

def divF (f : Fmt) (x y : Fp) : Nat × Flags :=
  match x, y with
  | .nan _ _ _, _ => nanRes f (x.isSnan || y.isSnan)
  | _, .nan _ _ _ => nanRes f (x.isSnan || y.isSnan)
  | .inf _, .inf _ => nanRes f true
  | .inf a, .fin b _ _ => (f.sign (a != b) + f.infCode, {})
  | .fin a _ _, .inf b => (f.sign (a != b), {})
  | .fin a m e, .fin b n k =>
    if n == 0 then
      if m == 0 then nanRes f true else (f.sign (a != b) + f.infCode, { dz := true })
    else roundFin f .rne false (a != b) m n (e - k) 0

/-- floor(sqrt n), by `fuel` bits from the top. -/
def isqrtGo : Nat → Nat → Nat → Nat
  | 0, _, r => r
  | k + 1, n, r =>
    let t := r + 2 ^ k
    isqrtGo k n (if t * t ≤ n then t else r)

def isqrt (n : Nat) : Nat := isqrtGo (Nat.log2 n / 2 + 1) n 0

def sqrtF (f : Fmt) (x : Fp) : Nat × Flags :=
  match x with
  | .nan _ s _ => nanRes f s
  | .inf n => if n then nanRes f true else (f.infCode, {})
  | .fin n m e =>
    if m == 0 then (f.sign n, {})
    else if n then nanRes f true
    else
      let m1 := if e % 2 == 0 then m else 2 * m
      let e1 := if e % 2 == 0 then e else e - 1
      let big := m1 * 2 ^ 128
      let r := isqrt big
      roundFin f .rne false false (2 * r + b2n (r * r != big)) 1 (e1 / 2 - 65) 0

/-- Compare finite or infinite values: none when unordered. −0 equals +0 (R139). -/
def cmpFp (x y : Fp) : Option Ordering :=
  match x, y with
  | .nan _ _ _, _ => none
  | _, .nan _ _ _ => none
  | .inf a, .inf b => some (if a == b then .eq else if a then .lt else .gt)
  | .inf a, _ => some (if a then .lt else .gt)
  | _, .inf b => some (if b then .gt else .lt)
  | .fin a m e, .fin b n k =>
    let (v, _) := addExact (signedMag a m) e (signedMag (!b) n) k
    some (if v < 0 then .lt else if v == 0 then .eq else .gt)

/-- maximum (want = gt) and minimum (want = lt) of IEEE 754-2019 (R140), as codes. -/
def maxMin (f : Fmt) (isMax : Bool) (x y : Nat) : Nat × Flags :=
  let a := unpack f x
  let b := unpack f y
  match cmpFp a b with
  | none => nanRes f (a.isSnan || b.isSnan)
  | some .eq => (if a.neg == b.neg then x else if a.neg == isMax then y else x, {})
  | some .lt => (if isMax then y else x, {})
  | some .gt => (if isMax then x else y, {})

/-! ## FP32 on register words -/

def up (x : W32) : Fp := unpack fp32 x.toNat
def w32 (r : Nat × Flags) : W32 × Flags := (BitVec.ofNat 32 r.1, r.2)
def qnan32 : W32 := 0x7FC00000
def fadd (x y : W32) : W32 × Flags := w32 (addF fp32 (up x) (up y))
def fsub (x y : W32) : W32 × Flags := w32 (addF fp32 (up x) (up y).negate)
def fmul (x y : W32) : W32 × Flags := w32 (mulF fp32 (up x) (up y))
def ffma (a b c : W32) : W32 × Flags := w32 (fmaF fp32 (up a) (up b) (up c))
/-- c − a x b. -/
def ffnma (a b c : W32) : W32 × Flags := w32 (fmaF fp32 (up a).negate (up b) (up c))
def fdiv (x y : W32) : W32 × Flags := w32 (divF fp32 (up x) (up y))
def fsqrt (x : W32) : W32 × Flags := w32 (sqrtF fp32 (up x))
def fmaxi (isMax : Bool) (x y : W32) : W32 × Flags := w32 (maxMin fp32 isMax x.toNat y.toNat)
def isFinite32 (x : W32) : Bool := (up x).isFin
def isNan32 (x : W32) : Bool := (up x).isNan
def isZero32 (x : W32) : Bool := (up x).isZero
def fabs (x : W32) : W32 := x &&& 0x7FFFFFFF
def fneg (x : W32) : W32 := x ^^^ 0x80000000

/-- A signed exact value m x 2^e of a finite FP32 word. -/
def dy (x : W32) : Int × Int :=
  match up x with
  | .fin n m e => (signedMag n m, e)
  | _ => (0, 0)

/-- m x 2^e rounded to FP32 under RNE; a zero result is +0. -/
def rneDy (m : Int) (e : Int) : W32 × Flags := w32 (roundInt fp32 m e false)

/-! ## binary64 accumulators (R27, R147) -/

def qnan64 : W64 := 0x7FF8000000000000
def up64 (x : W64) : Fp := unpack fp64 x.toNat
def d64 (r : Nat × Flags) : W64 := BitVec.ofNat 64 r.1
def dadd (x y : W64) : W64 := d64 (addF fp64 (up64 x) (up64 y))
/-- Flags of the addition (R139). -/
def daddFlags (x y : W64) : Flags := (addF fp64 (up64 x) (up64 y)).2
def dmul (x y : W64) : W64 := d64 (mulF fp64 (up64 x) (up64 y))
def dmaxi (isMax : Bool) (x y : W64) : W64 := d64 (maxMin fp64 isMax x.toNat y.toNat)
/-- FP32 widened exactly to binary64 (R27). -/
def toF64 (x : W32) : W64 := BitVec.ofNat 64 (convert fp32 fp64 .rne false 0 x.toNat).1
def dlt (x y : W64) : Bool := cmpFp (up64 x) (up64 y) == some .lt

/-! ## Random numbers (R36) -/

def mix64 (x0 : W64) : W64 :=
  let x1 := x0 ^^^ (x0 >>> 30)
  let x2 := x1 * 0xBF58476D1CE4E5B9
  let x3 := x2 ^^^ (x2 >>> 27)
  let x4 := x3 * 0x94D049BB133111EB
  x4 ^^^ (x4 >>> 31)

def rng32 (domain : Nat) (seed : W64) (step tensor row col : W32) : Nat :=
  let h := mix64 (seed ^^^ (BitVec.ofNat 64 domain <<< 56))
  let h := mix64 (h ^^^ ((step.zeroExtend 64 <<< 32) ||| tensor.zeroExtend 64))
  let h := mix64 (h ^^^ ((row.zeroExtend 64 <<< 32) ||| col.zeroExtend 64))
  (h >>> 32).toNat

/-! ## Decoding the RND field (R30) -/

/-- Mode of an RND field for a target that accepts all modes (IEEE and FP8), and whether the value was reserved. -/
def rndIeee (r : BitVec 3) : Rnd × Bool :=
  if r = 0 then (.rne, false) else if r = 1 then (.rtz, false) else if r = 2 then (.rup, false)
  else if r = 3 then (.rdn, false) else if r = 4 then (.sr, false) else (.rne, true)

/-- Mode for a short-format target, which accepts RNE and SR only. -/
def rndShort (r : BitVec 3) : Rnd × Bool :=
  if r = 0 then (.rne, false) else if r = 4 then (.sr, false) else (.rne, true)

end Sys2Proof.Machine
end

