-- ==== Sys2Proof/Machine/Flags.lean ====
section
/-!
DEFINITION. The status words that gather an engine's exception flags (R35, R81, R106, R152), and what writing ones to them clears (R6).
-/
namespace Sys2Proof.Machine

/-- DZ, INV, OVF, UNF, INX in bits [4:0] (Table 6-7). -/
def Flags.word5 (f : Flags) : Nat := b2n f.dz * 16 + b2n f.inv * 8 + b2n f.ovf * 4 + b2n f.unf * 2 + b2n f.inx
/-- INV, OVF, UNF, INX in bits [3:0] (Tables 3-8 and 4-6). -/
def Flags.word4 (f : Flags) : Nat := b2n f.inv * 8 + b2n f.ovf * 4 + b2n f.unf * 2 + b2n f.inx

/-- Writing a one clears a flag (R6). -/
def Flags.clear (f : Flags) (v : W32) : Flags :=
  ⟨f.inv && !bitAt v 3, f.dz && !bitAt v 4, f.ovf && !bitAt v 2, f.unf && !bitAt v 1, f.inx && !bitAt v 0⟩

def Flags.join (l : List Flags) : Flags := l.foldl Flags.or {}

/-- QNT.STATUS (Table 3-8). -/
def QntRegs.status (q : QntRegs) : W32 := BitVec.ofNat 32 (b2n q.descerr * 16 + q.flags.word4)
def QntRegs.w1c (q : QntRegs) (v : W32) : QntRegs :=
  { q with descerr := q.descerr && !bitAt v 4, flags := q.flags.clear v }

/-- TEN.STATUS (Table 4-6). -/
def TenRegs.status (q : TenRegs) : W32 := BitVec.ofNat 32 (b2n q.hdrerr * 32 + b2n q.descerr * 16 + q.flags.word4)
def TenRegs.w1c (q : TenRegs) (v : W32) : TenRegs :=
  { q with hdrerr := q.hdrerr && !bitAt v 5, descerr := q.descerr && !bitAt v 4, flags := q.flags.clear v }

/-- VEC.STATUS (Table 6-7). -/
def VecRegs.status (q : VecRegs) : W32 := BitVec.ofNat 32 (b2n q.empty * 64 + b2n q.descerr * 32 + q.flags.word5)
def VecRegs.w1c (q : VecRegs) (v : W32) : VecRegs :=
  { q with empty := q.empty && !bitAt v 6, descerr := q.descerr && !bitAt v 5, flags := q.flags.clear v }

end Sys2Proof.Machine
end

