-- ==== Sys2Proof/Machine/Formats.lean ====
section
/-!
DEFINITION. Short formats and group quantisation (R38 to R55, R66 to R70): group scales, codes, gauze selection, FP8 rows, packing and
dequantisation. Exact values are integers in units of 2^-149.
-/
namespace Sys2Proof.Machine

/-! ## Exact values -/

/-- Exact value of a finite FP32 word in units of 2^-149. -/
def v149 (x : W32) : Int :=
  match up x with
  | .fin n m e => signedMag n (m * 2 ^ (e + 149).toNat)
  | _ => 0

/-- VS8 value of a code in units of 2^-17 (R39). -/
def vs8n (c : Nat) : Nat := if c / 8 = 0 then c % 8 else (8 + c % 8) * 2 ^ (c / 8 - 1)

/-- 2^(T + 132): one unit 2^(T-17) of scale in units of 2^-149. -/
def scaleUnit (texp : Byte) : Nat := 2 ^ (texp.toInt + 132).toNat

/-- Effective scale of a group in units of 2^-149 (R40). -/
def effScale (texp : Byte) (c : Nat) : Nat := vs8n c * scaleUnit texp

/-- Smallest VS8 code from 1 to 0xFE whose value times `p` units reaches `r` (R50, R52); none when the scale overflows. -/
def vs8Go (p r : Nat) : Nat → Nat → Nat
  | 0, c => c
  | k + 1, c => if vs8n (c + 2 ^ k) * p < r ∧ c + 2 ^ k ≤ 254 then vs8Go p r k (c + 2 ^ k) else vs8Go p r k c

def pickVs8 (p r : Nat) : Option Nat :=
  let c := vs8Go p r 8 0 + 1
  if c ≤ 254 then some c else none

/-- Round an exact quotient to an integer, ties to even. -/
def rneDiv (x : Int) (d : Nat) : Int :=
  let q := x.fdiv d
  let r := (x.fmod d).toNat
  if 2 * r < d then q else if d < 2 * r then q + 1 else if q % 2 = 0 then q else q + 1

/-- Stochastic rounding of a quotient by its floor (R38). -/
def srFloor (x : Int) (d rnd : Nat) : Int :=
  let q := x.fdiv d
  let r := (x.fmod d).toNat
  if rnd < 2 ^ 32 * r / d then q + 1 else q

def isSr (md : Rnd) : Bool := match md with
  | .sr => true
  | _ => false

/-! ## Groups -/

/-- A quantised group: codes, metadata and gauze records (R45, R68). -/
structure GroupQ where
  codes : List Nat
  vs8 : Nat
  zp : Nat
  flags : Nat
  ocount : Nat
  recs : List (Nat × Nat)
  nonfin : Nat
  gzovf : Bool
  fl : Flags
  deriving DecidableEq, Repr

def GroupQ.word (g : GroupQ) : Nat := g.flags * 2 ^ 14 + g.ocount * 2 ^ 12 + g.zp * 2 ^ 8 + g.vs8

/-- Records an OCOUNT stands for (R46, R48). -/
def ocRecords (gs oc : Nat) : Nat := if oc = 3 then (if gs = 128 then 4 else 0) else oc

/-- Sum of magnitudes for gauze, ascending, each addition RNE (R67). -/
def gauzeSum (y : List W32) : W32 := y.foldl (fun a v => if isFinite32 v then (fadd a (fabs v)).1 else a) 0

/-- Insert an index into a list sorted by descending magnitude, lower index first on a tie. -/
def insMag (e : Nat × Nat) : List (Nat × Nat) → List (Nat × Nat)
  | [] => [e]
  | x :: t => if x.2 < e.2 then e :: x :: t else x :: insMag e t

/-- Indices with their magnitudes, largest first, lower index first on a tie. -/
def byMag (l : List (Nat × Nat)) : List (Nat × Nat) := l.foldl (fun a e => insMag e a) []

/-- Outliers of a group: the picked indices in ascending order, and gzovf (R67). -/
def pickOutliers (y : List W32) (gzk room : Nat) : List Nat × Bool :=
  let g := y.length
  let cap := if g = 128 then 4 else 2
  let sum := gauzeSum y
  let fin := ((List.range g).zip y).filter (fun e => isFinite32 e.2)
  let mags := fin.map (fun e => (e.1, (v149 e.2).natAbs))
  let q := if isFinite32 sum then mags.filter (fun e => decide (gzk * (v149 sum).natAbs < e.2 * g)) else []
  let n := q.length
  if n = 0 then ([], false)
  else
    let take := Nat.min n cap
    let ovfl := decide (cap < n)
    let (take, ovfl) := if g = 128 ∧ take = 3 then (if 4 ≤ fin.length then (4, ovfl) else (2, true)) else (take, ovfl)
    if room < take then ([], true)
    else
      let top := ((byMag mags).take take).map (·.1)
      ((List.range g).filter (fun j => top.contains j), ovfl)

/-- Code of a non-finite element (R49); `z` is the zero point. -/
def nonfinCode (fmt z : Nat) (x : W32) : Nat :=
  let qmax := if fmt = 0 then 15 else 3
  match up x with
  | .nan _ _ _ => if fmt = 0 ∨ fmt = 2 then z else 0
  | .inf neg =>
    if fmt = 0 ∨ fmt = 2 then (if neg then 0 else qmax)
    else if fmt = 1 then (if neg then 0xF else 0x7)
    else if fmt = 3 then (if neg then 3 else 1)
    else (if neg then 1 else 0)
  | _ => 0

/-- Marker code of an extracted element (R53). -/
def markerCode (fmt z : Nat) : Nat := if fmt = 1 then 8 else if fmt = 3 then 2 else z

/-- VF4 magnitudes in units of half a scale, by code (Table 2-9). -/
def vf4Half : List Nat := [0, 1, 2, 3, 4, 6, 8, 12]

/-- VF4 code of a finite element (R52). -/
def vf4Code (md : Rnd) (rnd : Nat) (x : Int) (s : Nat) : Nat :=
  let a := 2 * x.natAbs
  let k (i : Nat) : Nat := vf4Half.getD i 12 * s
  let i := (List.range 8).foldl (fun b j => if k j ≤ a then j else b) 0
  let j :=
    if i = 7 then 7
    else if isSr md then (if rnd < 2 ^ 32 * (a - k i) / (k (i + 1) - k i) then i + 1 else i)
    else
      let mid := k i + k (i + 1)
      if 2 * a < mid then i else if mid < 2 * a then i + 1 else if i % 2 = 0 then i else i + 1
  if j = 0 then 0 else if x < 0 then j + 8 else j

/-- W2T code of a finite element (R52). -/
def w2tCode (md : Rnd) (rnd : Nat) (x : Int) (s : Nat) : Nat :=
  let a := x.natAbs
  let n := if s ≤ a then 1
    else if isSr md then (if rnd < 2 ^ 32 * a / s then 1 else 0)
    else if s < 2 * a then 1 else 0
  if n = 0 then 0 else if x < 0 then 3 else 1

/-- Choose the scale of a group, none when it is written as zero; then zero point, flush and overflow (R50, R52). -/
structure ScaleSel where
  vs8 : Nat
  z : Nat
  tiny : Bool
  ovf : Bool
  deriving DecidableEq, Repr

def selScale (fmt : Nat) (texp : Byte) (fs : List Int) : ScaleSel :=
  let u := scaleUnit texp
  let lo := fs.foldl (fun a x => if x < a then x else a) 0
  let hi := fs.foldl (fun a x => if a < x then x else a) 0
  let m := Nat.max lo.natAbs hi.natAbs
  if fmt = 0 ∨ fmt = 2 then
    let qmax := if fmt = 0 then 15 else 3
    let r := (hi - lo).toNat
    if r = 0 then ⟨0, 0, false, false⟩
    else if 2 * m ≤ u then ⟨0, 0, true, false⟩
    else
      let (c, ovf) := match pickVs8 (qmax * u) r with
        | some c => (c, false)
        | none => (0xFE, true)
      ⟨c, Nat.min qmax (rneDiv (-lo) (vs8n c * u)).toNat, false, ovf⟩
  else
    let p := if fmt = 1 then 6 else 1
    if m = 0 then ⟨0, 0, false, false⟩
    else if (if fmt = 1 then 4 * m ≤ u else 2 * m ≤ u) then ⟨0, 0, true, false⟩
    else match pickVs8 (p * u) m with
      | some c => ⟨c, 0, false, false⟩
      | none => ⟨0xFE, 0, false, true⟩

/-- Code of a finite main-path element under a nonzero scale. -/
def finCode (fmt : Nat) (md : Rnd) (rnd : Nat) (x : W32) (s z : Nat) : Nat :=
  let v := v149 x
  if fmt = 0 ∨ fmt = 2 then
    let qmax : Int := if fmt = 0 then 15 else 3
    let n := if isSr md then srFloor v s rnd else rneDiv v s
    (min qmax (max 0 (n + z))).toNat
  else if fmt = 1 then vf4Code md rnd v s
  else if fmt = 3 then w2tCode md rnd v s
  else if v < 0 then 1 else 0

/-- Quantise one group (R49 to R53, R67, R68). `rnd` gives the random value of each position; `room` is the records still free. -/
def quantGroup (fmt : Nat) (texp : Byte) (gzk : Nat) (md : Rnd) (rnd : Nat → Nat) (room : Nat) (y : List W32) : GroupQ :=
  let (picks, gzovf) := if gzk ≠ 0 ∧ fmt ≤ 3 then pickOutliers y gzk room else ([], false)
  let idx := (List.range y.length).zip y
  let main := idx.filter (fun e => isFinite32 e.2 && !picks.contains e.1)
  let sel := selScale fmt texp (main.map (fun e => v149 e.2))
  let s := effScale texp sel.vs8
  let nonfin := (y.filter (fun v => !isFinite32 v)).length
  let recs := picks.map (fun j => (j, convert fp32 bf16 .rne true 0 (y.getD j 0).toNat))
  let codes := idx.map (fun e =>
    if !isFinite32 e.2 then nonfinCode fmt sel.z e.2
    else if picks.contains e.1 then markerCode fmt sel.z
    else if sel.vs8 = 0 then 0
    else finCode fmt md (rnd e.1) e.2 s sel.z)
  let recInf := recs.any (fun r => r.2.1 % 2 ^ 15 == bf16.infCode)
  let zero := y.all isZero32 && picks.isEmpty
  let flags := if decide (nonfin ≠ 0) || sel.ovf || recInf then 3 else if zero then 1 else if sel.tiny then 2 else 0
  ⟨codes, sel.vs8, sel.z, flags, if picks.length = 4 then 3 else picks.length, recs.map (fun r => (r.1, r.2.1)), nonfin, gzovf,
    Flags.join (recs.map (fun r => r.2.2))⟩

/-! ## FP8 and BF16 rows (R70) -/

def fp8Fmt (fmt : Nat) : Fmt := if fmt = 5 then e4m3 else e5m2

/-- Scale exponent of a row: the least e in [-126, 127] with AMAX <= Fmax x 2^e; 0 for a row with no nonzero finite element. -/
def rowExp (fmt : Nat) (amax : Nat) : Int :=
  if amax = 0 then 0
  else
    let fmax := if fmt = 5 then 448 else 57344
    match (List.range 254).find? (fun i => decide (amax ≤ fmax * 2 ^ (i + 23))) with
    | some i => (i : Int) - 126
    | none => 127

/-- FP32 word of 2^e, for e in [-126, 127]. -/
def pow2w (e : Int) : W32 := BitVec.ofNat 32 ((e + 127).toNat * 2 ^ 23)

/-- The exact quotient x / 2^e converted once to FP8 (R70). -/
def fp8Elem (f : Fmt) (md : Rnd) (ovf : Bool) (rnd : Nat) (e : Int) (x : W32) : Nat × Flags :=
  match up x with
  | .fin n m k => roundFin f md (!ovf) n m 1 (k - e) rnd
  | _ => convert fp32 f md ovf rnd x.toNat

/-- An FP8 element times its row's scale, rounded once to FP32 (R70, R76). -/
def fp8Scaled (f : Fmt) (c : Nat) (sigma : W32) : W32 × Flags :=
  let (x, f1) := widen f c
  let (y, f2) := fmul x sigma
  (y, f1.or f2)

/-! ## Packing (R43) -/

def codeBits (fmt : Nat) : Nat := if fmt ≤ 1 then 4 else if fmt ≤ 3 then 2 else 1

/-- Pack codes of `b` bits, lowest index in the lowest bits. -/
def packGo (b per : Nat) : Nat → List Nat → List Byte
  | 0, _ => []
  | n + 1, l =>
    if l.isEmpty then []
    else BitVec.ofNat 8 (((List.range per).zip (l.take per)).foldl (fun a e => a + e.2 * 2 ^ (b * e.1)) 0) :: packGo b per n (l.drop per)

def packCodes (fmt : Nat) (l : List Nat) : List Byte :=
  packGo (codeBits fmt) (8 / codeBits fmt) l.length l

/-- Codes of packed bytes. -/
def unpackCodes (fmt : Nat) (l : List Byte) : List Nat :=
  let b := codeBits fmt
  l.flatMap (fun x => (List.range (8 / b)).map (fun i => x.toNat / 2 ^ (b * i) % 2 ^ b))

/-! ## Dequantising (R48, R55) -/

def metaOf (w : Nat) : Meta := ⟨w % 256, w / 256 % 16, w / 4096 % 4⟩

/-- Every element of the group reads as qNaN (R48). -/
def Meta.bad (m : Meta) (g : Nat) : Bool := m.vs8 == 0xFF || (m.oc == 3 && g != 128)

/-- Zero point as the format reads it (Table 2-11). -/
def zpOf (fmt zp : Nat) : Nat := if fmt = 0 then zp else if fmt = 2 then zp % 4 else 0

/-- Integer of a code in units of its scale, times 2 for VF4 (Tables 2-9, 2-10, 4-5); markers read as 0. -/
def codeInt (fmt z c : Nat) : Int :=
  if fmt = 0 ∨ fmt = 2 then (c : Int) - z
  else if fmt = 1 then
    let m : Int := vf4Half.getD (c % 8) 0
    if c < 8 then m else -m
  else if fmt = 3 then (if c = 1 then 1 else if c = 3 then -1 else 0)
  else if c = 0 then 1 else -1

/-- The code is the outlier marker of a group with records. -/
def isMarker (fmt z c : Nat) : Bool := if fmt = 1 then c == 8 else if fmt = 3 then c == 2 else if fmt = 4 then false else c == z

/-- Exact main-path value of a code as m x 2^e, rounded once to FP32; a zero result is +0 (R55). -/
def dequantCode (fmt : Nat) (texp : Byte) (m : Meta) (c : Nat) : W32 × Flags :=
  let i := codeInt fmt (zpOf fmt m.zp) c
  let e := texp.toInt - 17 - (if fmt = 1 then 1 else 0)
  rneDy (i * vs8n m.vs8) e

/-- Dequantise a group with its records (R48, R55). DESIGN CHOICE (log entry 86): a record counts at its IDX whatever code stands there, and
the first of two with one IDX counts. -/
def dequantGroup (fmt : Nat) (texp : Byte) (m : Meta) (codes : List Nat) (recs : List (Nat × Nat)) : List (W32 × Flags) :=
  if m.bad codes.length then codes.map (fun _ => (qnan32, {}))
  else ((List.range codes.length).zip codes).map (fun e =>
    match recs.find? (fun r => r.1 == e.1) with
    | some r => widen bf16 r.2
    | none => if m.vs8 = 0 then (0, {}) else dequantCode fmt texp m e.2)

end Sys2Proof.Machine
end

