-- ==== Sys2Proof/Machine/Quant.lean ====
section
/-!
DEFINITION. The quantiser (R57 to R81): rotation, statistics, gauze and rounding of a whole tile, tile images and their headers,
dequantising, and the QUANT command.
-/
namespace Sys2Proof.Machine

/-! ## Parameters of a tile -/

/-- What a quantised tile depends on besides its values (R58). `cols` says that groups run along columns; `cap` is the gauze area in
units of 64 records. -/
structure QCtl where
  fmt : Nat
  gsz : Nat
  gzk : Nat
  cap : Nat
  texp : Byte
  rotb : Nat
  rnd : BitVec 3
  ovf : Bool
  tensor : W32
  key : W32
  row0 : W32
  col0 : W32
  step : W32
  sr : W64
  rot : W64
  cols : Bool
  deriving DecidableEq, Repr

/-- Largest useful gauze area of a group size (R69). -/
def gzcapMax (gsz : Nat) : Nat := if gsz = 0 then 16 else 8

/-- Parameters from a QPW; on the main path the gauze area is the largest useful one (R69). -/
def qctl (q : W128) (cols main : Bool) (row0 col0 : W32) (step : W64) (seeds : W64 × W64) : QCtl where
  fmt := qFmt q
  gsz := qGsz q
  gzk := qGzk q
  cap := if main then gzcapEff (qFmt q) (qGsz q) 31 else gzcapEff (qFmt q) (qGsz q) (qGzcap q)
  texp := qTexp q
  rotb := qRotb q
  rnd := qRnd q
  ovf := qOvf q
  tensor := qTensor q
  key := qKey q
  row0 := row0
  col0 := col0
  step := step.setWidth 32
  sr := seeds.1
  rot := seeds.2
  cols := cols

/-- The seeds that govern a step of a partition (R59, R372). -/
def State.seeds (s : State) (p : PartId) (step : W64) : W64 × W64 :=
  match (s.part p).latched.find? (fun l => decide (l.since.toNat ≤ step.toNat)) with
  | some l => (l.sr, l.rot)
  | none => (0, 0)

/-- Logical row and column of position k of line l. -/
def QCtl.coord (p : QCtl) (l k : Nat) : W32 × W32 :=
  if p.cols then (p.row0 + BitVec.ofNat 32 k, p.col0 + BitVec.ofNat 32 l)
  else (p.row0 + BitVec.ofNat 32 l, p.col0 + BitVec.ofNat 32 k)

/-- The field RND names a mode the destination does not accept, or a reserved one; W1B ignores it (R30). -/
def rndBad (fmt : Nat) (r : BitVec 3) : Bool :=
  if fmt = 4 then false else if fmt ≤ 3 then (rndShort r).2 else (rndIeee r).2

/-! ## Rotation (R62, R63) -/

def rotBlock (rotb : Nat) : Nat := 16 * 2 ^ rotb

/-- Sign of position k of a line. -/
def QCtl.minus (p : QCtl) (k : Nat) : Bool :=
  if p.key = 0 then false
  else
    let c := (if p.cols then p.row0 else p.col0) + BitVec.ofNat 32 k
    decide (2 ^ 31 ≤ rng32 (7 + p.rotb) p.rot 0 p.key 0 c)

/-- One stage: pairs at distance h. -/
def butterfly (h : Nat) : Nat → List W32 → List W32 × Flags
  | 0, l => (l, {})
  | n + 1, l =>
    if l.isEmpty then ([], {})
    else
      let a := l.take h
      let b := (l.drop h).take h
      let sums : List (W32 × Flags) := List.zipWith fadd a b
      let difs : List (W32 × Flags) := List.zipWith fsub a b
      let (r, fl) := butterfly h n (l.drop (2 * h))
      (sums.map (·.1) ++ difs.map (·.1) ++ r, (Flags.join ((sums ++ difs).map (·.2))).or fl)

/-- Stages h, 2h, 4h, ... of a run. -/
def stages : Nat → Nat → List W32 → List W32 × Flags
  | 0, _, l => (l, {})
  | n + 1, h, l =>
    let (x, f1) := butterfly h l.length l
    let (y, f2) := stages n (2 * h) x
    (y, f1.or f2)

/-- Rotate one line, run by run. -/
def QCtl.rotateLine (p : QCtl) (x : List W32) : List W32 × Flags :=
  let b := rotBlock p.rotb
  let scale := pow2w (if p.rotb = 3 then -4 else -3)
  let d := ((List.range x.length).zip x).map (fun e => if p.minus e.1 then fneg e.2 else e.2)
  let runs : List (List W32 × Flags) := (List.range (x.length / b)).map (fun r =>
    let (y, fl) := stages (4 + p.rotb) 1 ((d.drop (r * b)).take b)
    let z : List (W32 × Flags) := y.map (fun v => fmul v scale)
    (z.map (·.1), fl.or (Flags.join (z.map (·.2)))))
  (runs.flatMap (·.1), Flags.join (runs.map (·.2)))

/-! ## The tile (R57, R66 to R73) -/

/-- One line of a quantised tile: its groups, or the scale exponent and the codes of an FP8 or BF16 row. -/
structure QLine where
  groups : List GroupQ
  e : Int
  codes : List Nat
  deriving DecidableEq, Repr

/-- A quantised tile. -/
structure QTile where
  lines : List QLine
  tr : Trouble
  fl : Flags
  deriving DecidableEq, Repr

/-- The larger magnitude of two non-negative finite words. -/
def maxMag (a b : W32) : W32 := if a.toNat < b.toNat then b else a

/-- Largest magnitude over the finite elements (R66). -/
def amaxOf (l : List W32) : W32 := l.foldl (fun a v => if isFinite32 v then maxMag a (fabs v) else a) 0

/-- Random value of an element (R70). -/
def QCtl.rand (p : QCtl) (domain l k : Nat) : Nat :=
  if p.rnd = 4 then
    let c := p.coord l k
    rng32 domain p.sr p.step p.tensor c.1 c.2
  else 0


/-- Groups of a line, in order, each taking its gauze records from the room left (R67). -/
def QCtl.groupsOf (p : QCtl) (l : Nat) (y : List W32) : Nat → Nat → Nat → List GroupQ × Nat
  | 0, _, room => ([], room)
  | n + 1, k, room =>
    let g := gsize p.gsz
    let dom := if p.cols then 3 else 2
    let q := quantGroup p.fmt p.texp p.gzk (rndShort p.rnd).1 (fun j => p.rand dom l (k + j)) room ((y.drop k).take g)
    let (r, room) := QCtl.groupsOf p l y n (k + g) (room - q.recs.length)
    (q :: r, room)

/-- Quantise a line after rotation. -/
def QCtl.line (p : QCtl) (l room : Nat) (y : List W32) : QLine × Trouble × Flags × Nat :=
  let amax := amaxOf y
  let bad := cnt (fun v => !isFinite32 v) y
  let none := decide (amax = 0)
  if p.fmt ≤ 4 then
    let (gs, room') := p.groupsOf l y (128 / gsize p.gsz) 0 room
    (⟨gs, 0, []⟩,
      { amax := amax, gzovf := cnt (·.gzovf) gs, tiny := cnt (·.flags == 2) gs, clip := cnt (·.flags == 3) gs, nonfin := bad,
        zero := cnt (·.flags == 1) gs, gzcount := room - room' },
      Flags.join (gs.map (·.fl)), room')
  else
    let md := (rndIeee p.rnd).1
    let e := if p.fmt = 7 then 0 else rowExp p.fmt (v149 amax).natAbs
    let cs := ((List.range y.length).zip y).map (fun x =>
      if p.fmt = 7 then convert fp32 bf16 md true (p.rand 1 l x.1) x.2.toNat
      else fp8Elem (fp8Fmt p.fmt) md p.ovf (p.rand 1 l x.1) e x.2)
    let flushed := (y.zip cs).all (fun x => !isFinite32 x.1 || x.2.1 % 128 == 0)
    (⟨[], e, cs.map (·.1)⟩,
      { amax := amax, tiny := b2n (p.fmt != 7 && !none && flushed), clip := b2n (p.fmt != 7 && decide (bad ≠ 0)), nonfin := bad,
        zero := b2n none },
      Flags.join (cs.map (·.2)), room)

def Trouble.add (a b : Trouble) : Trouble :=
  ⟨maxMag a.amax b.amax, a.gzovf + b.gzovf, a.tiny + b.tiny, a.clip + b.clip, a.nonfin + b.nonfin, a.zero + b.zero,
    a.gzcount + b.gzcount⟩

/-- Quantise lines from number `l` on. -/
def QCtl.lines (p : QCtl) : Nat → Nat → List (List W32) → QTile
  | _, _, [] => ⟨[], {}, {}⟩
  | l, room, x :: t =>
    let (y, f0) := if p.rotb ≠ 0 ∧ p.fmt ≤ 4 then p.rotateLine x else (x, {})
    let (ln, tr, f1, room) := p.line l room y
    let r := QCtl.lines p (l + 1) room t
    ⟨ln :: r.lines, tr.add r.tr, (f0.or f1).or r.fl⟩

/-- The transpose of a tile of 128 x 128. -/
def transposeT (t : List (List W32)) : List (List W32) :=
  (List.range 128).map (fun j => t.map (fun r => r.getD j 0))

/-- Quantise a tile given by rows. -/
def QCtl.tile (p : QCtl) (rows : List (List W32)) : QTile :=
  p.lines 0 (64 * p.cap) (if p.cols then transposeT rows else rows)

/-! ## Tile images (R71, R72) -/

/-- The header of an image. -/
def QCtl.header (p : QCtl) (q : W128) (rowsM1 colsM1 : Nat) (t : Trouble) : BitVec 512 :=
  BitVec.ofNat 512 (at' 318 (colsM1 % 128) + at' 311 (rowsM1 % 128) + at' 306 (Nat.min (qGzcap q) (gzcapMax p.gsz)) + at' 304 p.rotb +
    at' 302 (if p.cols then 2 else 1) + at' 300 p.gsz + at' 296 p.fmt + at' 288 p.texp.toNat + at' 256 p.col0.toNat +
    at' 224 p.row0.toNat + at' 192 p.step.toNat + at' 160 p.key.toNat + at' 128 p.tensor.toNat + at' 112 t.gzcount + at' 96 t.zero +
    at' 80 t.nonfin + at' 64 t.clip + at' 48 t.tiny + at' 32 t.gzovf + t.amax.toNat)

/-- A gauze record (Table 3-3). -/
def gauzeRec (r : Nat × Nat) : Nat := r.2 * 65536 + r.1

/-- The bytes of an image. -/
def QCtl.image (p : QCtl) (q : W128) (rowsM1 colsM1 : Nat) (t : QTile) : List Byte :=
  let hd := leBytes 64 (p.header q rowsM1 colsM1 t.tr).toNat
  if p.fmt ≤ 4 then
    let gs := t.lines.flatMap (·.groups)
    let recs := gs.flatMap (fun g => g.recs.flatMap (fun r => leBytes 4 (gauzeRec r)))
    hd ++ gs.flatMap (fun g => leBytes 2 g.word) ++ gs.flatMap (fun g => packCodes p.fmt g.codes) ++ recs ++
      (List.range (256 * p.cap - recs.length)).map (fun i => Config.gauzePad (recs.length + i))
  else if p.fmt ≤ 6 then
    hd ++ t.lines.flatMap (fun l => leBytes 4 (pow2w l.e).toNat) ++ t.lines.flatMap (fun l => l.codes.map (BitVec.ofNat 8))
  else hd ++ t.lines.flatMap (fun l => l.codes.flatMap (leBytes 2))

/-! ## Reading images (R48, R55, R69, R76) -/

def ihFmt (h : BitVec 512) : Nat := fldN h 296 4
def ihGsz (h : BitVec 512) : Nat := fldN h 300 2
def ihOri (h : BitVec 512) : Nat := fldN h 302 2
def ihRotb (h : BitVec 512) : Nat := fldN h 304 2
def ihGzcap (h : BitVec 512) : Nat := fldN h 306 5
def ihTexp (h : BitVec 512) : Byte := fld h 288 8
def ihKey (h : BitVec 512) : W32 := fld h 160 32
def ihTensor (h : BitVec 512) : W32 := fld h 128 32
def ihCol0 (h : BitVec 512) : W32 := fld h 256 32
def ihRow0 (h : BitVec 512) : W32 := fld h 224 32

/-- The header holds a reserved encoding. -/
def ihReserved (h : BitVec 512) : Bool := decide (8 ≤ ihFmt h) || decide (ihGsz h = 3) || decide (ihOri h = 0) || decide (ihOri h = 3)

/-- The trouble record of an image header. -/
def ihTrouble (h : BitVec 512) : Trouble :=
  ⟨fld h 0 32, fldN h 32 16, fldN h 48 16, fldN h 64 16, fldN h 80 16, fldN h 96 16, fldN h 112 16⟩

def Mem.word (m : Mem) (k n : Nat) : Nat := ofLe (m.bytes k n)
def Mem.imgHdr (m : Mem) (k : Nat) : BitVec 512 := BitVec.ofNat 512 (m.word k 64)

/-- Metadata words of a short-format image. -/
def Mem.imgMeta (m : Mem) (k : Nat) (h : BitVec 512) : List Meta :=
  let n := 16384 / gsize (ihGsz h)
  (elemsLe 2 n (m.bytes (k + 64) (2 * n))).map metaOf

/-- Records each group of an image counts (R46, R48, R69); W1B has none. -/
def imgRecs (h : BitVec 512) (ms : List Meta) : List Nat :=
  if ihFmt h ≤ 3 then ms.map (fun x => ocRecords (gsize (ihGsz h)) x.oc) else ms.map (fun _ => 0)

/-- Offset of the gauze area. -/
def imgGauze (h : BitVec 512) : Nat := 64 + 2 * (16384 / gsize (ihGsz h)) + codeBytes (ihFmt h)

/-- Bytes a consumer reads of an image: its layout, and its counted records where they run past it (R69). -/
def Mem.imgLen (m : Mem) (k : Nat) (h : BitVec 512) : Nat :=
  let n := imageSize (ihFmt h) (ihGsz h) (ihGzcap h)
  if ihFmt h ≤ 3 then Nat.max n (imgGauze h + 4 * (imgRecs h (m.imgMeta k h)).foldl (· + ·) 0) else n

def groupsGo (g : Nat) : List Meta → List Nat → List Nat → List (Nat × Nat) → List ImgGroup
  | m :: ms, n :: ns, codes, recs => ⟨m, codes.take g, recs.take n⟩ :: groupsGo g ms ns (codes.drop g) (recs.drop n)
  | _, _, _, _ => []

/-- Groups of a short-format image, in group order. -/
def Mem.imgGroups (m : Mem) (k : Nat) (h : BitVec 512) : List ImgGroup :=
  let g := gsize (ihGsz h)
  let ms := m.imgMeta k h
  let ns := imgRecs h ms
  let total := ns.foldl (· + ·) 0
  let recs := (elemsLe 4 total (m.bytes (k + imgGauze h) (4 * total))).map (fun r => (r % 128, r / 65536))
  let codes := unpackCodes (ihFmt h) (m.bytes (k + 64 + 2 * (16384 / g)) (codeBytes (ihFmt h)))
  groupsGo g ms ns codes recs

/-- Dequantise an FP8 element of an image; a NaN keeps its sign (R29, R34, R70). -/
def imgFp8 (fmt c : Nat) (sigma : W32) : W32 × Flags :=
  let (x, fl) := widen (fp8Fmt fmt) c
  if isNan32 x then (x, fl) else fp8Scaled (fp8Fmt fmt) c sigma

/-- Cut a list into rows of n. -/
def rowsOf {α : Type} (n : Nat) : Nat → List α → List (List α)
  | 0, _ => []
  | k + 1, l => l.take n :: rowsOf n k (l.drop n)

/-- Lines of an image, dequantised (R55, R70). -/
def Mem.imgLines (m : Mem) (k : Nat) (h : BitVec 512) : List (List (W32 × Flags)) :=
  let f := ihFmt h
  if f ≤ 4 then
    rowsOf 128 128 ((m.imgGroups k h).flatMap (fun g => dequantGroup f (ihTexp h) g.md g.codes g.recs))
  else if f ≤ 6 then
    let sc := (elemsLe 4 128 (m.bytes (k + 64) 512)).map (BitVec.ofNat 32)
    let rows := rowsOf 128 128 ((m.bytes (k + 576) 16384).map BitVec.toNat)
    List.zipWith (fun (s : W32) (r : List Nat) => r.map (fun c => imgFp8 f c s)) sc rows
  else rowsOf 128 128 ((elemsLe 2 16384 (m.bytes (k + 64) 32768)).map (widen bf16))

/-- Element (i, j) of a list of lines. -/
def lineAt {α : Type} (d : α) (cols : Bool) (ls : List (List α)) (i j : Nat) : α :=
  if cols then (ls.getD j []).getD i d else (ls.getD i []).getD j d

/-- A tile of rows x cols values with their flags, padded with +0 to 128 x 128. -/
def padTile (rows cols : Nat) (f : Nat → Nat → W32 × Flags) : List (List (W32 × Flags)) :=
  (List.range 128).map (fun i => (List.range 128).map (fun j => if i < rows ∧ j < cols then f i j else ((0 : W32), ({} : Flags))))

/-- The values of a tile, and all its flags. -/
def splitTile (t : List (List (W32 × Flags))) : List (List W32) × Flags :=
  (t.map (fun r => r.map (·.1)), Flags.join (t.map (fun r => Flags.join (r.map (·.2)))))

/-- The lines of an image by rows. -/
def Mem.imgTile (m : Mem) (k rows cols : Nat) (h : BitVec 512) : List (List (W32 × Flags)) :=
  let ls := m.imgLines k h
  let ls := if ihOri h = 2 then (List.range 128).map (fun i => ls.map (fun l => l.getD i ((0 : W32), ({} : Flags)))) else ls
  let t := (ls.take rows).map (fun l => l.take cols)
  padTile rows cols (fun i j => (t.getD i []).getD j (0, {}))

/-- Bytes that positions `lo` to `lo + n - 1` of lines take in an image: the header, the metadata or row scales up to the last line, the codes,
and the gauze records of the groups (R71, R132). -/
def Mem.imgRanges (m : Mem) (k : Nat) (h : BitVec 512) (lines : List Nat) (lo n : Nat) : List (Nat × Nat) :=
  let f := ihFmt h
  let last := lines.foldl Nat.max 0
  if f ≤ 4 then
    let per := 128 / gsize (ihGsz h)
    let ga (l : Nat) : Nat := l * per + lo / gsize (ihGsz h)
    let gn : Nat := (lo + n - 1) / gsize (ihGsz h) - lo / gsize (ihGsz h) + 1
    let ns := imgRecs h (m.imgMeta k h)
    let b := codeBits f
    let c0 := k + 64 + 2 * (16384 / gsize (ihGsz h))
    let sum (l : List Nat) : Nat := l.foldl (· + ·) 0
    ([(k, 64), (k + 64, 2 * (ga last + gn))] ++
      lines.map (fun l => (c0 + (l * 128 + lo) * b / 8, ((l * 128 + lo + n) * b + 7) / 8 - (l * 128 + lo) * b / 8)) ++
      lines.map (fun l => (k + imgGauze h + 4 * sum (ns.take (ga l)), 4 * sum ((ns.drop (ga l)).take gn)))).filter (fun r => r.2 != 0)
  else if f ≤ 6 then [(k, 64), (k + 64, 4 * (last + 1))] ++ lines.map (fun l => (k + 576 + 128 * l + lo, n))
  else [(k, 64)] ++ lines.map (fun l => (k + 64 + 256 * l + 2 * lo, 2 * n))

/-! ## Sources (R75, R76) -/

/-- Element format of SRC_FMT 0x0 to 0x6. -/
def srcFmtOf (f : Nat) : Fmt :=
  if f = 0 then fp32 else if f = 1 then bf16 else if f = 2 then fp16 else if f = 3 ∨ f = 5 then e4m3 else e5m2

/-- A row of elements. -/
def widenRow (f n : Nat) (l : List Byte) : List (W32 × Flags) :=
  (elemsLe (srcBytes f) n l).map (fun c => if f = 0 then (BitVec.ofNat 32 c, {}) else widen (srcFmtOf f) c)

/-- A source as SRC_FMT describes it: where it starts, its stride, its scales and its extents. -/
structure QSource where
  fmt : Nat
  key : Nat
  stride : Nat
  scl : Nat
  rows : Nat
  cols : Nat
  deriving DecidableEq, Repr

/-- Memory ranges of a source. -/
def Mem.srcRanges (m : Mem) (q : QSource) : List (Nat × Nat) :=
  if q.fmt = 8 then [(q.key, m.imgLen q.key (m.imgHdr q.key))]
  else rowRanges q.key q.stride (q.cols * srcBytes q.fmt) q.rows ++ (if q.fmt = 5 ∨ q.fmt = 6 then [(q.scl, 4 * q.rows)] else [])

/-- The source tile, widened and scaled (R76). DESIGN CHOICE (log entry 86): a NaN that the row-scale product of SRC_FMT 5 or 6 gives is the
positive canonical qNaN. -/
def Mem.srcElems (m : Mem) (q : QSource) : List (List (W32 × Flags)) :=
  if q.fmt = 8 then m.imgTile q.key q.rows q.cols (m.imgHdr q.key)
  else
    let sc := if q.fmt = 5 ∨ q.fmt = 6 then elemsLe 4 q.rows (m.bytes q.scl (4 * q.rows)) else []
    let rows := (List.range q.rows).map (fun i =>
      let r := widenRow q.fmt q.cols (m.bytes (q.key + i * q.stride) (q.cols * srcBytes q.fmt))
      if q.fmt = 5 ∨ q.fmt = 6 then
        r.map (fun e => let (y, fl) := fmul e.1 (BitVec.ofNat 32 (sc.getD i 0)); (y, e.2.or fl))
      else r)
    padTile q.rows q.cols (fun i j => (rows.getD i []).getD j (0, {}))

/-- Its values, and all the flags of reading it. -/
def Mem.srcTile (m : Mem) (q : QSource) : List (List W32) × Flags := splitTile (m.srcElems q)

/-! ## Statistics (R148) -/

/-- AMAX of a tile folds into the slots that ask for it. -/
def Ctx.foldAmax (k : Ctx) (tensor amax : W32) (poison : Bool) : Ctx :=
  (List.range 64).foldl (fun k n =>
    let t := k.staOf n
    if t.amaxen && t.kind == 1 && t.tag == tensor then
      k.setSta n { t with val := dmaxi true t.val (toF64 amax), psn := t.psn || poison }
    else k) k

/-- A tile of the quantiser completes. -/
def Ctx.tileDone (k : Ctx) (tensor amax : W32) (poison : Bool) : Ctx :=
  { k with qnt := { k.qnt with tiles := k.qnt.tiles + 1 } }.foldAmax tensor amax poison

def Ctx.qntFlags (k : Ctx) (fl : Flags) : Ctx := { k with qnt := { k.qnt with flags := k.qnt.flags.or fl } }

/-! ## Commands -/

/-- Events to count (R5, R30, R79): nonzero reserved bits, those of the quantisation word included, are one for the descriptor (log entry
44), and an RND that is not accepted is another. -/
def qdEvents (d : BitVec 512) : Nat :=
  let q := qdQpw d
  b2n (fldN q 0 33 != 0 || fldN d 0 22 != 0) + b2n (decide (qFmt q ≤ 7) && rndBad (qFmt q) (qRnd q))

/-- Used destinations of a descriptor: address and whether groups run along columns. -/
def qdDests (d : BitVec 512) : List (W64 × Bool) :=
  (if qOri (qdQpw d) % 2 = 1 then [(qdDst0 d, false)] else []) ++ (if 2 ≤ qOri (qdQpw d) then [(qdDst1 d, true)] else [])

/-- An address lies with `len` bytes in the core's own memory (R79). -/
def State.inOwnCore (s : State) (c : CoreId) (a : W64) (len : Nat) : Bool :=
  s.isOwn a && decide (aSpace a = 1) && addrForm a len && decide (aOff a / 2 ^ 22 = c.val) && decide (aOff a % 2 ^ 22 + len ≤ 2 ^ 22)

def qdImgSize (d : BitVec 512) : Nat := imageSize (qFmt (qdQpw d)) (qGsz (qdQpw d)) (qGzcap (qdQpw d))

/-- Refusals of R79 that the descriptor alone decides. -/
def State.qdBad (s : State) (c : CoreId) (d : BitVec 512) : Bool :=
  let q := qdQpw d
  decide (qdFmt d = 7) || decide (9 ≤ qdFmt d) || decide (8 ≤ qFmt q) || decide (qGsz q = 3) || decide (qOri q = 0) ||
    (decide (5 ≤ qFmt q) && decide (qRotb q ≠ 0)) ||
    (qdDests d).any (fun e => decide (aOff e.1 % 64 ≠ 0) || !s.inOwnCore c e.1 (qdImgSize d)) ||
    (decide (qdFmt d ≤ 6) && decide (qdStride d % srcBytes (qdFmt d) ≠ 0))

def qdSource (d : BitVec 512) (key scl : Nat) : QSource := ⟨qdFmt d, key, qdStride d, scl, qdRows d, qdCols d⟩

/-- A tile image source is refused: a reserved encoding, or rotated (R77, R79). -/
def imgBad (h : BitVec 512) : Bool := ihReserved h || decide (ihRotb h ≠ 0)

/-- Count the reserved fields of a descriptor. -/
def State.qntEvents (s : State) (i : Issued) (n : Nat) : State :=
  s.modCtx i.core i.ctx (fun k => { k with qnt := { k.qnt with rsvcnt := k.qnt.rsvcnt + BitVec.ofNat 32 n } })

/-- A refused descriptor (R79). -/
def State.qntRefuse (s : State) (i : Issued) : State :=
  (s.modCtx i.core i.ctx (fun k => { k with qnt := { k.qnt with descerr := true, descerrcnt := k.qnt.descerrcnt + 1 } })).work i stDesc

/-- Raise what a checked read found, in the step of the command (R78, R313); `f` gives the address of a key. -/
def State.raiseRead (s : State) (c : CoreId) (x : CtxId) (step : W64) (r : ReadChk) (f : Nat → W64) : State :=
  let s := match r.poison with
    | some k => s.raiseCtx c x step 0x01 (f k).toNat
    | none => s
  match r.mismatch with
  | some k => s.raiseCtx c x step 0x05 (f k).toNat
  | none => s

/-- Status of a command that consumed bad data (R167). -/
def ReadChk.status (r : ReadChk) : Byte := if r.mismatch.isSome then stCheck else if r.poison.isSome then stPoison else stOk

/-- Write the images of a descriptor for a source tile. -/
def State.writeImages (s : State) (i : Issued) (d : BitVec 512) (tile : List (List W32)) (bad : Bool) : State :=
  let seeds := s.seeds (s.partD i.core i.ctx) i.step
  (qdDests d).foldl (fun s e =>
    let p := qctl (qdQpw d) e.2 false (qdRow0 d) (qdCol0 d) i.step seeds
    let t := p.tile tile
    let l := p.image (qdQpw d) (qdRows d - 1) (qdCols d - 1) t
    let s := s.writeFresh (Former.core i.core) (aKey e.1) l (List.replicate (l.length / 64) bad)
    s.modCtx i.core i.ctx (fun k => (k.qntFlags t.fl).tileDone (qTensor (qdQpw d)) t.tr.amax bad)) s

/-- Quantise a source that has been read: `m` holds it, `r` is what its check found (R78, R80). -/
def State.quantRun (s : State) (i : Issued) (d : BitVec 512) (m : Mem) (q : QSource) (r : ReadChk) (f : Nat → W64) : State :=
  let dests := (qdDests d).map (fun e => s.check (s.partD i.core i.ctx) e.1 (qdImgSize d))
  match dests.find? (fun k => decide (k ≠ .ok)) with
  | some k => (s.refuse k).workChk i k.status
  | none =>
    let (tile, fl) := m.srcTile q
    let s := s.modCtx i.core i.ctx (fun k => k.qntFlags fl)
    let s := s.writeImages i d tile r.bad
    (s.raiseRead i.core i.ctx i.step r f).work i r.status

/-- First refusal of a list of ranges under a partition's ID. -/
def State.checkKeys (s : State) (p : PartId) (rs : List (Nat × Nat)) : Chk :=
  (rs.foldl (fun a e => if a ≠ .ok then a else s.check p (keyAddr e.1) e.2) Chk.ok)

/-- A range of keys lies in the core's own memory. -/
def keysInCore (c : CoreId) (rs : List (Nat × Nat)) : Bool :=
  rs.all (fun e => decide (ckey c 0 ≤ e.1 ∧ e.1 + e.2 ≤ ckey c 0 + 2 ^ 22))

/-- A source in the module's own memory: its header and its ranges are checked, then it is read whole (R77 to R80). DESIGN CHOICE (log entry
86): a header that R79 refuses refuses the descriptor before its block is checked, so no fault of R78 is raised for it. -/
def State.quantLocal (s : State) (i : Issued) (d : BitVec 512) (key scl : Nat) (own : Bool) : State :=
  let q := qdSource d key scl
  let p := s.partD i.core i.ctx
  if q.fmt = 8 ∧ own ∧ !keysInCore i.core [(key, 64)] then s.qntRefuse i
  else
    let hchk := if q.fmt = 8 then s.checkKeys p [(key, 64)] else .ok
    if hchk ≠ .ok then (s.refuse hchk).workChk i hchk.status
    else if q.fmt = 8 ∧ imgBad (s.mem.imgHdr key) then s.qntRefuse i
    else
      let rs := s.mem.srcRanges q
      if own ∧ !keysInCore i.core rs then s.qntRefuse i
      else
        let k := s.checkKeys p rs
        if k ≠ .ok then (s.refuse k).workChk i k.status
        else
          let (s, r) := s.checkRanges rs
          s.quantRun i d s.mem q r s.faultAddr

/-- The descriptor of a QUANT or RQ. -/
def State.qdesc (s : State) (i : Issued) : BitVec 512 := BitVec.ofNat 512 (s.coreWord i.core i.doff 64)

/-- Work of a QUANT (R79, R80). -/
def State.quantCmd (i : Issued) (s : State) : State :=
  let d := s.qdesc i
  let s := s.qntEvents i (qdEvents d)
  let src := decide (s.isOwn (qdSrc d) ∧ aSpace (qdSrc d) = 1 ∧ aRsvd (qdSrc d) = 0)
  let scl := decide (qdFmt d ≠ 5 ∧ qdFmt d ≠ 6) || (s.isOwn (qdScl d) && decide (aSpace (qdScl d) = 1) && decide (aRsvd (qdScl d) = 0))
  if s.qdBad i.core d || !src || !scl then s.qntRefuse i
  else s.quantLocal i d (aKey (qdSrc d)) (aKey (qdScl d)) true

/-- QUANT (R79). -/
def execQuant (sl : Slot) (w : W256) (s : State) : Host.Outcome State Fault Refusal :=
  s.dispatch sl w 0x11 (withDesc 0x11 State.quantCmd)

end Sys2Proof.Machine
end

