-- ==== Sys2Proof/Machine/Stash.lean ====
section
/-!
DEFINITION. The stash commands and the stash controller (R181 to R186), the RQ command with its sources in DRAM, core memory, the stash
and other modules (R75 to R80), and COMMAND_COMPLETE.
-/
namespace Sys2Proof.Machine

/-! ## The stash controller -/

/-- A refill of the entry is waiting for space. -/
def stFillWaits (t : Stash) (layer : BitVec 12) (entry : W16) : Bool :=
  t.waits.any (fun w => match w with
    | .fill l e => l == layer && e == entry
    | _ => false)

/-- A refill of the entry has started and not ended. -/
def stFilling (t : Stash) (h : BitVec 12 × W16) : Bool :=
  stFillWaits t h.1 h.2 || (match stFind t h.1 h.2 with
    | some e => e.st == .filling
    | none => false)

/-- The layer has refills in progress. -/
def stLayerFilling (t : Stash) (layer : BitVec 12) : Bool :=
  t.entries.any (fun e => e.layer == layer && stFilling t (e.layer, e.entry))

/-- Start refills of the SPILLED entries of a list of layers, lowest address first (R185). -/
def stStartFills (t : Stash) (layers : List (BitVec 12)) : Stash × List (BitVec 12 × W16) :=
  let es := layers.flatMap (fun l =>
    (t.entries.filter (fun e => e.layer == l && e.st == .spilled && !stFillWaits t e.layer e.entry)).mergeSort
      (fun a b => decide (a.slot ≤ b.slot)))
  ({ t with waits := t.waits ++ es.map (fun e => StWait.fill e.layer e.entry) }, es.map (fun e => (e.layer, e.entry)))

/-- Layers L down to L - PFDEPTH. -/
def pfLayers (t : Stash) (layer : BitVec 12) : List (BitVec 12) :=
  (List.range (Nat.min (stDepth t) layer.toNat + 1)).map (fun i => BitVec.ofNat 12 (layer.toNat - i))

/-- A read of an entry of a layer starts refills when AUTOPF is 1 (R185). -/
def stAutoRefill (t : Stash) (layer : BitVec 12) : Stash := if stAuto t then (stStartFills t (pfLayers t layer)).1 else t

/-- The command `id` of a core's primary context as an issued command. -/
def State.asIssued (s : State) (c : CoreId) (x : CtxId) (id : Nat) : Issued :=
  match s.job c x id with
  | some j => ⟨c, x, id, j.src, j.slot, 0, 0, j.step⟩
  | none => ⟨c, x, id, .s0, 0, 0, 0, 0⟩

/-- Read an entry into core memory (R185). -/
def State.stReadNow (s : State) (c : CoreId) (id : Nat) (e : StEntry) (dst : Nat) : State :=
  let m := s.move (Former.core c) (s.partD c .primary) (keyAddr (stDataKey c (s.stash c) e)) (coreAddr c dst) e.len
  (m.st.workChk (s.asIssued c .primary id) m.status).modStash c (fun t => stAutoRefill t e.layer)

/-- Quantise an entry (R185): the descriptor's SRC_ADDR is replaced by the entry's address. -/
def State.stRqNow (s : State) (c : CoreId) (id : Nat) (e : StEntry) (d : BitVec 512) : State :=
  (s.quantLocal (s.asIssued c .primary id) d (stDataKey c (s.stash c) e) 0 false).modStash c (fun t => stAutoRefill t e.layer)

/-- An STWRITE fails with stash error. -/
def State.stFail (s : State) (c : CoreId) (id : Nat) (full handle : Bool) : State :=
  (s.modStash c (fun t => { t with spillfull := t.spillfull || full, handleerr := t.handleerr || handle })).setStatus c .primary id stStash

/-- A new entry: not yet placed. -/
def stNew (layer : BitVec 12) (entry : W16) (len slot : Nat) : StEntry := ⟨layer, entry, len, .writing, 0, slot, 0, 0, false⟩

/-- Write an entry's data at a place in the ring (R182, R183). A refused ring address leaves no entry. -/
def State.stWriteNow (s : State) (c : CoreId) (id : Nat) (layer : BitVec 12) (entry : W16) (src len slot off : Nat) : State :=
  let m := s.move (Former.core c) (s.partD c .primary) (coreAddr c src) (keyAddr (stRingKey c (s.stash c) off)) len
  let i := s.asIssued c .primary id
  if m.chk ≠ .ok then m.st.workChk i m.status
  else
    let s := (m.st.workChk i m.status).modStash c (fun t => stClaim t (stNew layer entry len slot) off)
    s.modJob c .primary id (fun j => { j with work := .stwrite layer entry })

/-- The spill area can take spills, and the oldest entry is the one to spill. -/
def stVictim (t : Stash) : Option StEntry :=
  match stOldest t with
  | some e => if e.st = .resident then some e else none
  | none => none

/-- Ring space for the first of the waiting writes and refills: what happens to it now; none when it waits on. -/
def State.stStep (s : State) (c : CoreId) (w : StWait) (t' : Stash) : Option State :=
  let t := s.stash c
  match w with
  | .write id layer entry src len =>
    let s' := s.modStash c (fun _ => t')
    if (stFind t layer entry).isSome then some (s'.stFail c id false true)
    else match stSlot t with
      | none => some (s'.stFail c id false true)
      | some slot =>
        match stPlace t len with
        | some off => some (s'.stWriteNow c id layer entry src len slot off)
        | none => if (stVictim t).isSome ∧ !stSpen t then some (s'.stFail c id true false) else none
  | .fill layer entry =>
    let s' := s.modStash c (fun _ => t')
    let drop := s'.modStash c (fun t => { t with pfdrop := t.pfdrop + 1 })
    match stFind t layer entry with
    | none => some s'
    | some e =>
      if e.st ≠ .spilled then some s'
      else match stPlace t e.len with
        | some off => some (s'.modStash c (fun t => stClaim t { e with st := .filling } off))
        | none =>
          match stOldest t with
          | none => some drop
          | some v =>
            if v.st = .writing ∨ v.st = .spilling then none
            else if v.st = .filling ∨ stLayerFilling t v.layer ∨ !stSpen t then some drop else none
  | _ => none

/-- Remove the first waiting item that is equal to `w`. -/
def stUnwait (t : Stash) (w : StWait) : Stash := { t with waits := t.waits.erase w }

def StWait.wantsSpace : StWait → Bool
  | .write _ _ _ _ _ => true
  | .fill _ _ => true
  | _ => false

/-- A waiting read whose entry can be read now, or an STPREF whose refills have ended. -/
def stReadable (t : Stash) (w : StWait) : Bool :=
  match w with
  | .read _ l e _ => !stFilling t (l, e)
  | .rq _ l e _ => !stFilling t (l, e)
  | .pref _ es => es.all (fun h => !stFilling t h)
  | _ => false

/-- One thing the controller can do. -/
def State.stServeOne (s : State) (c : CoreId) : Option State :=
  let t := s.stash c
  match t.waits.find? (stReadable t) with
  | some w =>
    let s := s.modStash c (fun t => stUnwait t w)
    match w with
    | .read id l e dst => match stFind t l e with
      | some x => some (s.stReadNow c id x dst)
      | none => some (s.setStatus c .primary id stStash)
    | .rq id l e d => match stFind t l e with
      | some x => some (s.stRqNow c id x d)
      | none => some (s.setStatus c .primary id stStash)
    | .pref id _ => some (s.setStatus c .primary id stOk)
    | _ => some s
  | none =>
    match t.waits.find? StWait.wantsSpace with
    | some w => s.stStep c w (stUnwait t w)
    | none => none

def stServeGo (c : CoreId) : Nat → State → State
  | 0, s => s
  | n + 1, s => match s.stServeOne c with
    | some s' => stServeGo c n s'
    | none => s

/-- Serve what waits, as far as possible. -/
def State.stServe (s : State) (c : CoreId) : State :=
  stServeGo c (2 * (s.stash c).waits.length + 2 * (s.stash c).entries.length) s

/-! ## Stash commands -/

/-- A stash that is switched off takes no command (Table 7-14). -/
def stOff (t : Stash) : Bool := !stEn t || t.size == 0

/-- Hold a reference until the command completes (R186). -/
def State.stHold (s : State) (i : Issued) (layer : BitVec 12) (entry : W16) : State :=
  match s.job i.core i.ctx i.id with
  | some j =>
    if j.refs.isEmpty then
      (s.modStash i.core (fun t => stRef t (layer, entry))).modJob i.core i.ctx i.id (fun j => { j with refs := [(layer, entry)] })
    else s
  | none => s

/-- Add something that waits, and serve. -/
def State.stWait (s : State) (c : CoreId) (w : StWait) : State := (s.modStash c (fun t => { t with waits := t.waits ++ [w] })).stServe c

/-- Work of an STWRITE (R182 to R184). -/
def State.stwriteCmd (w : W256) (i : Issued) (s : State) : State :=
  let t := s.stash i.core
  let src := tAddr w
  let len := tLen w
  if src % 64 ≠ 0 ∨ len % 64 ≠ 0 ∨ 0x400000 < src + len then s.done i stDesc
  else if (stFind t (tLayer w) (tEntry w)).isSome || (stSlot t).isNone || decide (stSize t < len) then
    s.stFail i.core i.id false true
  else if stOff t then s.stFail i.core i.id false false
  else
    let k := s.check (s.partD i.core i.ctx) (coreAddr i.core src) len
    if k ≠ .ok then (s.refuse k).workChk i k.status
    else s.stWait i.core (.write i.id (tLayer w) (tEntry w) src len)

/-- STWRITE (R182 to R184). -/
def execStwrite (sl : Slot) (w : W256) (s : State) : Host.Outcome State Fault Refusal :=
  s.dispatch sl w 0x28 (fun i s => s.enter i w (State.stwriteCmd w))

/-- Work of an STREAD (R185). -/
def State.streadCmd (w : W256) (i : Issued) (s : State) : State :=
  match stFind (s.stash i.core) (tLayer w) (tEntry w) with
  | none => if tAddr w % 64 ≠ 0 then s.done i stDesc else s.work i stStash
  | some e =>
    if tAddr w % 64 ≠ 0 ∨ 0x400000 < tAddr w + e.len then s.done i stDesc
    else (s.stHold i (tLayer w) (tEntry w)).stWait i.core (.read i.id (tLayer w) (tEntry w) (tAddr w))

/-- STREAD (R185). -/
def execStread (sl : Slot) (w : W256) (s : State) : Host.Outcome State Fault Refusal :=
  s.dispatch sl w 0x29 (fun i s => s.enter i w (State.streadCmd w))

/-- STPREF (R185): it completes when the refills it started have ended. -/
def execStpref (sl : Slot) (w : W256) (s : State) : Host.Outcome State Fault Refusal :=
  s.dispatch sl w 0x2A (fun i s =>
    let (t, es) := stStartFills (s.stash i.core) [tLayer w]
    (s.modStash i.core (fun _ => t)).stWait i.core (.pref i.id es))

/-- STPIN (R186). -/
def execStpin (sl : Slot) (w : W256) (s : State) : Host.Outcome State Fault Refusal :=
  s.dispatch sl w 0x2B (fun i s =>
    if (stFind (s.stash i.core) (tLayer w) (tEntry w)).isSome then
      (s.modStash i.core (fun t => stRef t (tLayer w, tEntry w))).done i stOk
    else s.done i stStash)

/-- STUNPIN (R186). -/
def execStunpin (sl : Slot) (w : W256) (s : State) : Host.Outcome State Fault Refusal :=
  s.dispatch sl w 0x2C (fun i s =>
    match stFind (s.stash i.core) (tLayer w) (tEntry w) with
    | none => s.done i stStash
    | some e =>
      if e.refs = 0 then s.done i stStash
      else ((s.modStash i.core (fun t => stReap (stUnref t (tLayer w, tEntry w)))).done i stOk).stServe i.core)

/-- Mark entries as freed. -/
def stMark (t : Stash) (f : StEntry → Bool) : Stash :=
  stReap { t with entries := t.entries.map (fun e => if f e then { e with freed := true } else e) }

/-- STFREE (R186). -/
def execStfree (sl : Slot) (w : W256) (s : State) : Host.Outcome State Fault Refusal :=
  s.dispatch sl w 0x2D (fun i s =>
    if tOne w ∧ (stFind (s.stash i.core) (tLayer w) (tEntry w)).isNone then s.done i stStash
    else
      let f (e : StEntry) : Bool := e.layer == tLayer w && (!tOne w || e.entry == tEntry w)
      ((s.modStash i.core (fun t => stMark t f)).done i stOk).stServe i.core)

/-! ## Spills and refills -/

/-- The first waiting write or refill that wants a spill, if any: a refill never spills a layer that is being refilled (R185). -/
def stWantsSpill (t : Stash) (v : StEntry) : Bool :=
  match t.waits.find? StWait.wantsSpace with
  | some (.write _ _ _ _ len) => (stPlace t len).isNone
  | some (.fill l e) => (match stFind t l e with
    | some x => (stPlace t x.len).isNone && !stLayerFilling t v.layer
    | none => false)
  | _ => false

/-- The waiting STWRITE that a refused spill fails. -/
def stFirstWrite (t : Stash) : Option Nat :=
  match t.waits.find? StWait.wantsSpace with
  | some (.write id _ _ _ _) => some id
  | _ => none

/-- A spill is refused: the entry stays RESIDENT, and the STWRITE that needs the space fails (R181, R184). -/
def State.stRefused (s : State) (c : CoreId) : State :=
  let s := s.partFault c .primary (s.ctx c .primary).step
  match (s.stash c).waits.find? StWait.wantsSpace with
  | some w => match stFirstWrite (s.stash c) with
    | some id => ((s.modStash c (fun t => stUnwait t w)).stFail c id true false).stServe c
    | none => s
  | none => s

/-- STASH_SPILL (R184): the tail entry is chosen for spill. -/
def execStashSpill (c : CoreId) (s : State) : Host.Outcome State Fault Refusal :=
  let t := s.stash c
  match stVictim t with
  | none => .next s
  | some v =>
    if !stSpen t || !(stWantsSpill t v || decide (stFree t < stLowater t)) then .next s
    else
      let k := s.check (s.partD c .primary) (keyAddr (mkey 0 (stSpillOff t v.slot))) v.len
      if k ≠ .ok then .next ((s.refuse k).stRefused c).settle
      else .next (s.modStash c (fun t => stPut t { v with st := .spilling }))

/-- SPILL_DONE (R183): the entry is SPILLED and its ring space is released. -/
def execSpillDone (c : CoreId) (layer : BitVec 12) (entry : W16) (s : State) : Host.Outcome State Fault Refusal :=
  let t := s.stash c
  match stFind t layer entry with
  | none => .next s
  | some e =>
    if e.st ≠ .spilling then .next s
    else
      let m := s.move (Former.core c) (s.partD c .primary) (keyAddr (stRingKey c t e.off)) (keyAddr (mkey 0 (stSpillOff t e.slot))) e.len
      if m.chk ≠ .ok then .next ((m.st.modStash c (fun t => stPut t { e with st := .resident })).stRefused c).settle
      else
        .next ((m.st.modStash c (fun t =>
          let t := stFixTail (stPut t { e with st := .spilled })
          stReap { t with spills := t.spills + 1 })).stServe c).settle

/-- REFILL_DONE (R183): the entry is RESIDENT. A refused refill leaves it SPILLED. -/
def execRefillDone (c : CoreId) (layer : BitVec 12) (entry : W16) (s : State) : Host.Outcome State Fault Refusal :=
  let t := s.stash c
  match stFind t layer entry with
  | none => .next s
  | some e =>
    if e.st ≠ .filling then .next s
    else
      let m := s.move (Former.core c) (s.partD c .primary) (keyAddr (mkey 0 (stSpillOff t e.slot))) (keyAddr (stRingKey c t e.off)) e.len
      if m.chk ≠ .ok then
        let s := m.st.partFault c .primary (s.ctx c .primary).step
        .next ((s.modStash c (fun t =>
          let t := stFixTail (stPut t { e with st := .spilled })
          stReap { t with pfdrop := t.pfdrop + 1 })).stServe c).settle
      else
        .next ((m.st.modStash c (fun t =>
          let t := stPut t { e with st := .resident }
          stReap { t with refills := t.refills + 1 })).stServe c).settle

/-! ## RQ (R75 to R80) -/

/-- Bytes fetched from elsewhere are kept under keys of their own: the source's above 2^46, the scales' above 2^47. -/
def rqSrcKey (d : BitVec 512) : Nat := 2 ^ 46 + aKey (qdSrc d)
def rqSclKey (d : BitVec 512) : Nat := 2 ^ 47 + aKey (qdScl d)
/-- The address a kept key stands for. -/
def rqAddr (d : BitVec 512) (k : Nat) : W64 :=
  if 2 ^ 47 ≤ k then qdScl d + BitVec.ofNat 64 (k - rqSclKey d) - BitVec.ofNat 64 (rqSclKey d - k)
  else qdSrc d + BitVec.ofNat 64 (k - rqSrcKey d) - BitVec.ofNat 64 (rqSrcKey d - k)

/-- Where a kept header lies, by block. -/
def keptHdr (b : Nat) : Nat := 2 ^ 60 + 8 * b
/-- Mark of a block that has been asked for. -/
def keptMark (b : Nat) : Nat := 2 ^ 60 + b

/-- The memory that the kept bytes make up. -/
def Job.keptMem (j : Job) : Mem where
  cells := j.fetched.filter (fun e => decide (e.1 < 2 ^ 60))
  units := (j.fpoison.filter (fun e => decide (e.1 < 2 ^ 60))).map (fun e => (e.1, UnitSt.poisoned))
  headers := (j.fpoison.filter (fun e => decide (2 ^ 60 ≤ e.1))).filterMap (fun e =>
    let b := e.1 - 2 ^ 60
    let h := BitVec.ofNat 64 (ofLe (SMap.range (fun _ => 0) j.fetched (keptHdr b) 8))
    if h = 0 then none else some (b, h))
  fill := []

/-- Keep bytes, poison and header. -/
def Job.keep (j : Job) (k : Nat) (l : List Byte) (ps : List Bool) : Job :=
  { j with
    fetched := SMap.setRange (fun _ => 0) j.fetched k l
    fpoison := SMap.setRange (fun _ => false) j.fpoison (k / 64) ps }
def Job.keepHdr (j : Job) (b : Nat) (h : W64) : Job :=
  { j with fetched := SMap.setRange (fun _ => 0) j.fetched (keptHdr b) (leBytes 8 h.toNat) }

/-- What an RQ needs next: ranges still to fetch, a refusal, or nothing. -/
inductive RqNeed where
  | ranges (l : List (Nat × Nat))
  | refuse
  deriving DecidableEq, Repr

/-- Ranges a remote source takes, as far as what is kept tells. -/
def rqNeed (d : BitVec 512) (m : Mem) (has : Nat → Bool) : RqNeed :=
  let k := rqSrcKey d
  let q := qdSource d k (rqSclKey d)
  if qdFmt d ≠ 8 then .ranges (m.srcRanges q)
  else if !(blocksOf k 64).all has then .ranges [(k, 64)]
  else
    let h := m.imgHdr k
    if imgBad h then .refuse
    else
      let n := imageSize (ihFmt h) (ihGsz h) (ihGzcap h)
      if !(blocksOf k n).all has then .ranges [(k, n)] else .ranges [(k, m.imgLen k h)]

/-- Read requests for a whole block and its header (R311 to R313). -/
def State.blockReads (s : State) (p : PartId) (a : W64) (key : Nat) : List (Packet × Sink) :=
  (piecesOf (maxPkt (s.pver p)) (aOff a) 4096).map (fun e =>
    (s.reqPkt p 0x02 0 (e.2 / 16 - 1) 0 false (a + BitVec.ofNat 64 e.1) [], Sink.fetch (BitVec.ofNat 64 (key + e.1)) (e.2 / 16))) ++
  [(s.reqPkt p 0x02 0 0 0xFE false a [], Sink.fetch (BitVec.ofNat 64 key) 0)]

/-- Fetch one block: from this module at once, from another by requests. -/
def State.rqBlock (i : Issued) (d : BitVec 512) (s : State) (b : Nat) : State :=
  let a := rqAddr d (4096 * b)
  let p := s.partD i.core i.ctx
  let mark (j : Job) : Job := { j with fpoison := SMap.set (fun _ => false) j.fpoison (keptMark b) true }
  if s.isOwn a then
    match s.check p a 4096 with
    | .ok =>
      let (s, l, ps) := s.readMem (aKey a) 4096
      let h := s.mem.header (aKey a / 4096)
      s.modJob i.core i.ctx i.id (fun j => mark ((j.keep (4096 * b) l ps).keepHdr b h))
    | k => (s.refuse k).modJob i.core i.ctx i.id (fun j => mark { j with errs := j.errs ++ [if k = .part then 2 else 1] })
  else if reservedDev (aDev a) ∨ (s.planOf p).isNone ∨ s.ownDev = 0xFFFF then
    s.modJob i.core i.ctx i.id (fun j => mark { j with errs := j.errs ++ [1] })
  else s.modJob i.core i.ctx i.id (fun j => mark { j with queue := j.queue ++ s.blockReads p a (4096 * b) })

/-- An RQ with a remote source goes on: it fetches what it still needs, and runs when it has all (R80). -/
def rqGo (i : Issued) (d : BitVec 512) : Nat → State → State
  | 0, s => s
  | n + 1, s =>
    match s.job i.core i.ctx i.id with
    | none => s
    | some j =>
      if !j.errs.isEmpty ∨ j.timedOut then
        if j.outst = 0 then
          let s := s.modJob i.core i.ctx i.id (fun j => { j with queue := [] })
          let s := if j.errs.contains 2 then s.partFault i.core i.ctx i.step else s
          s.work i j.reqStatus
        else s.modJob i.core i.ctx i.id (fun j => { j with queue := [] })
      else if j.outst ≠ 0 ∨ !j.queue.isEmpty then s.pump i.core i.ctx i.id
      else
        let m := j.keptMem
        let has (b : Nat) : Bool := SMap.get (fun _ => false) j.fpoison (keptMark b)
        match rqNeed d m has with
        | .refuse => s.qntRefuse i
        | .ranges rs =>
          let need := (blocksOfRanges rs).filter (fun b => !has b)
          if need.isEmpty then
            let q := s.checkKept m rs
            q.1.quantRun i d m (qdSource d (rqSrcKey d) (rqSclKey d)) q.2 (rqAddr d)
          else rqGo i d n (need.foldl (State.rqBlock i d) s)

/-- The stages are: the header, the image, its counted records, the run; each may be followed by a pass that sends. Suspended filler work does
nothing (R176). -/
def State.rqStep (s : State) (i : Issued) (d : BitVec 512) : State := if (s.ctx i.core i.ctx).suspended then s else rqGo i d 8 s

/-- Work of an RQ. -/
def State.rqCmd (w : W256) (i : Issued) (s : State) : State :=
  let d := s.qdesc i
  let s := s.qntEvents i (qdEvents d)
  if dSth w then
    if s.qdBad i.core d then s.qntRefuse i
    else if qdFmt d ≠ 8 then s.done i stDesc
    else match stFind (s.stash i.core) (dSlayer w) (dSentry w) with
      | none => s.work i stStash
      | some _ => (s.stHold i (dSlayer w) (dSentry w)).stWait i.core (.rq i.id (dSlayer w) (dSentry w) d)
  else
    let scaled := decide (qdFmt d = 5 ∨ qdFmt d = 6)
    let memAddr (a : W64) : Bool := decide (aSpace a ≤ 1)
    if s.qdBad i.core d || !memAddr (qdSrc d) || (scaled && !memAddr (qdScl d)) then s.qntRefuse i
    else if s.isOwn (qdSrc d) && (!scaled || s.isOwn (qdScl d)) then
      if aRsvd (qdSrc d) ≠ 0 ∨ (scaled ∧ aRsvd (qdScl d) ≠ 0) then (s.refuse .addr).work i stAddr
      else s.quantLocal i d (aKey (qdSrc d)) (aKey (qdScl d)) false
    else (s.modJob i.core i.ctx i.id (fun j => { j with work := .rq d })).rqStep i d

/-- RQ (R79). -/
def execRq (sl : Slot) (w : W256) (s : State) : Host.Outcome State Fault Refusal :=
  s.dispatch sl w 0x12 (withDesc 0x12 (fun i s => s.enter i w (State.rqCmd w)))

/-! ## Completion (R166) -/

/-- The entry of an STWRITE is RESIDENT once its last byte is written (R183). -/
def State.writeEnds (s : State) (c : CoreId) (j : Job) : State :=
  match j.work with
  | .stwrite layer entry =>
    match stFind (s.stash c) layer entry with
    | some e => if e.st = .writing then s.modStash c (fun t => stReap (stPut t { e with st := .resident })) else s
    | none => s
  | _ => s

/-- A core has anything waiting at its stash. -/
def State.stServeAny (s : State) (c : CoreId) : State := if (s.stash c).waits.isEmpty then s else s.stServe c

/-- COMMAND_COMPLETE (R166): a command whose work is finished completes with its status. -/
def execCommandComplete (c : CoreId) (x : CtxId) (id : Nat) (s : State) : Host.Outcome State Fault Refusal :=
  match s.job c x id with
  | none => .next s
  | some j =>
    match j.status with
    | none => .next s
    | some st => .next (((s.writeEnds c j).finish c x id st).stServeAny c).settle

end Sys2Proof.Machine
end

