-- ==== Sys2Proof/Machine/Windows.lean ====
section
/-!
DEFINITION. Windows coming into force (R343), and the lines of rings that the ingress agent holds (R344, R348).
-/
namespace Sys2Proof.Machine

/-! ## Lines held -/

/-- Slots of a command ring. -/
def Win.slots (w : Win) : Nat := w.size / 128

/-- SEQ of the k-th block: k modulo 2^32 with 0 skipped (R344). -/
def seqOf (k : Nat) : W32 := BitVec.ofNat 32 ((k - 1) % (2 ^ 32 - 1) + 1)

/-- Read a line of a command ring and hold it. -/
def State.holdLine (s : State) (w : Win) (line : Nat) : State :=
  s.mclReq 0x01 w.part (BitVec.ofNat 64 (w.base + 64 * line)) [] 0 0 (.line w.idx line false)

/-- Read both lines of a slot. -/
def State.holdSlot (s : State) (w : Win) (slot : Nat) : State := (s.holdLine w (2 * slot)).holdLine w (2 * slot + 1)

/-- Slot of the k-th block. -/
def Win.slotOf (w : Win) (k : Nat) : Nat := (k - 1) % w.slots

/-- Read the CONS word of a completion ring or a telemetry ring. -/
def State.readCons (s : State) (w : Win) : State :=
  let tlm := w.kind == 4
  s.mclReq 0x01 w.part (BitVec.ofNat 64 (w.base + if tlm then 64 else 0)) [] 0 0 (.cons w.part tlm false)

/-- Read what the agent holds of a window: the next four expected slots of a ring, or CONS. -/
def State.holdWin (s : State) (w : Win) : State :=
  if w.kind = 1 then
    let k := (s.mcl.ring w.idx).expect
    (List.range 4).foldl (fun s i => s.holdSlot w (w.slotOf (k + i))) s
  else if w.kind = 2 ∨ w.kind = 4 then s.readCons w
  else s

/-- The link is active again: every expected slot is read afresh (R354). -/
def State.holdAll (s : State) : State := s.windows.foldl State.holdWin s

/-! ## Windows in force (R343) -/

/-- A block of the partition is in progress. -/
def State.blocksBusy (s : State) (p : PartId) : Bool :=
  (List.finRange 64).any (fun w => (s.winRaw w).part == p && !(s.mcl.ring w).blocks.isEmpty)

def winKeys (w : Fin 64) : List Nat := [1, 2, 3, 4, 5].map (winKey w)

/-- Partitions of a window as in force and as written. -/
def State.winParts (s : State) (w : Fin 64) : List PartId :=
  [s.df (winKey w 3), s.d (winKey w 3)].filterMap (fun a => if fldN a 4 3 = 0 then none else some (partOf (fldN a 0 4)))

/-- Reads of a window whose answers mean nothing any more. -/
def MclSink.forget (w : Win) : MclSink → MclSink
  | .line v l st => if v = w.idx then .drop else .line v l st
  | .cons p t st => if w.part = p ∧ (w.kind = 2 ∧ !t ∨ w.kind = 4 ∧ t) then .drop else .cons p t st
  | k => k

/-- A window takes effect: its ring starts again. -/
def State.startWin (s : State) (w : Win) : State :=
  let s := { s with mcl := { s.mcl with reqs := s.mcl.reqs.map (fun (e : Nat × Option MclSink) => (e.1, e.2.map (MclSink.forget w))) } }
  let s := if w.kind = 1 then s.setRing w.idx Ring.reset
    else if w.kind = 2 then s.setComp w.part { s.mcl.compOf w.part with prod := 0, cons := 0 }
    else if w.kind = 4 then s.setComp w.part { s.mcl.compOf w.part with tprod := 0, tcons := 0 }
    else s
  s.holdWin w

/-- Changes to windows take effect, with the DONE words of partitions whose rings change (R348), while their partitions have no enabled context and no block in progress. -/
def State.latchWindows (s : State) : State :=
  let before := s.windows
  let due := (List.finRange 64).filter (fun w => (winKeys w).any (fun k => s.d k != s.df k) &&
    (s.winParts w).all (fun p => !s.anyEnabled p && !s.blocksBusy p))
  if due.isEmpty then s
  else
    let s := due.foldl (fun s w => (winKeys w).foldl (fun s k => s.setDf k (s.d k)) s) s
    let s := (s.windows.filter (fun w => !before.contains w)).foldl State.startWin s
    let ringsOf (l : List Win) (p : PartId) : List Win := l.filter (fun w => w.part == p && decide (w.kind = 1 ∨ w.kind = 2))
    (allParts.filter (fun p => (s.winOf p 2).isSome && ringsOf before p != ringsOf s.windows p)).foldl State.postDone s

end Sys2Proof.Machine
end

