-- ==== Sys2Proof/Machine/CoreWin.lean ====
section
/-!
DEFINITION. The core control window, SPACE 0x4 (R6, R146, R155, R167, R179 to R181, Tables 7-12 to 7-14): what a word reads as, what a write
does, which partition may reach it; and the commands that stand for a write of one of its registers.
-/
namespace Sys2Proof.Machine

/-! ## The map (Table 7-12) -/

/-- The register block that a window offset lies in, with the offset inside it. -/
inductive WReg where
  | core (o : Nat)
  | ctx (x : CtxId) (o : Nat)
  | strm (st : StreamId) (o : Nat)
  | tok (x : CtxId) (o : Nat)
  | dq (o : Nat)
  | stash (o : Nat)
  | qnt (x : CtxId) (o : Nat)
  | ten (x : CtxId) (o : Nat)
  | ldr (x : CtxId) (o : Nat)
  | vec (x : CtxId) (o : Nat)
  | sta (x : CtxId) (o : Nat)
  | xfr (x : CtxId) (o : Nat)
  | none
  deriving DecidableEq, Repr

/-- Copies of a block with 128 bytes for each context. -/
def twoCopies (f : CtxId → Nat → WReg) (o : Nat) : WReg := f (ctxOfBit (decide (128 ≤ o))) (o % 128)

def wReg (off : Nat) : WReg :=
  if off < 0x100 then .core off
  else if off < 0x200 then twoCopies .ctx (off - 0x100)
  else if off < 0x240 then .strm .s0 (off - 0x200)
  else if off < 0x280 then .strm .s1 (off - 0x240)
  else if off < 0x2C0 then .strm .s2 (off - 0x280)
  else if off < 0x400 then .none
  else if off < 0x500 then twoCopies .tok (off - 0x400)
  else if 0x600 ≤ off ∧ off < 0x640 then .dq (off - 0x600)
  else if 0x1000 ≤ off ∧ off < 0x1100 then twoCopies .xfr (off - 0x1000)
  else if 0x2000 ≤ off ∧ off < 0x2100 then .stash (off - 0x2000)
  else if 0x3000 ≤ off ∧ off < 0x3100 then twoCopies .qnt (off - 0x3000)
  else if 0x3100 ≤ off ∧ off < 0x3200 then twoCopies .ten (off - 0x3100)
  else if 0x3200 ≤ off ∧ off < 0x3300 then twoCopies .ldr (off - 0x3200)
  else if 0x3300 ≤ off ∧ off < 0x3400 then twoCopies .vec (off - 0x3300)
  else if 0x3400 ≤ off ∧ off < 0x3C00 then .sta .primary (off - 0x3400)
  else if 0x4400 ≤ off ∧ off < 0x4C00 then .sta .filler (off - 0x4400)
  else .none

/-- The context whose partition a block answers to; none for the shared block and for offsets not listed. -/
def WReg.owner : WReg → Option CtxId
  | .core _ => Option.none
  | .ctx x _ => some x
  | .strm st _ => some (streamCtx st)
  | .tok x _ => some x
  | .dq _ => some .primary
  | .stash _ => some .primary
  | .qnt x _ => some x
  | .ten x _ => some x
  | .ldr x _ => some x
  | .vec x _ => some x
  | .sta x _ => some x
  | .xfr x _ => some x
  | .none => Option.none

/-- May a request of the partition reach the register (R179)? -/
def State.winAllowed (s : State) (c : CoreId) (p : PartId) (r : WReg) (write : Bool) : Bool :=
  match r with
  | .core _ => write || s.partOfCtx c .primary == some p || s.partOfCtx c .filler == some p
  | r => match r.owner with
    | some x => s.partOfCtx c x == some p
    | none => true

/-! ## Reading -/

/-- Half of a 64-bit register. -/
def half (o : Nat) (v : W64) : W32 := if o % 8 = 4 then fld v 32 32 else fld v 0 32

/-- CTX.STATE. -/
def Ctx.stateCode (k : Ctx) : Nat := if !k.en then 0 else if k.halted then 2 else if k.suspended then 3 else 1

/-- A word of CTX. FILLDELAY is in the filler context's copy only. -/
def Ctx.word (k : Ctx) (x : CtxId) (o : Nat) : W32 :=
  match o with
  | 0x00 => BitVec.ofNat 32 (b2n k.en + 2 * b2n k.errcont)
  | 0x04 => BitVec.ofNat 32 k.stateCode
  | 0x08 => k.err
  | 0x0C => k.errslot
  | 0x14 => fld k.step 0 32
  | 0x18 => BitVec.ofNat 32 ((k.part.map Fin.val).getD 0)
  | 0x1C => if x = .filler then k.filldelay else 0
  | 0x20 => k.rsvcnt
  | 0x28 => half 0 k.issued
  | 0x2C => half 4 k.issued
  | 0x30 => k.haltcode
  | _ => 0

/-- A word of STRM. -/
def Stream.word (t : Stream) (o : Nat) : W32 :=
  match o with
  | 0x00 => BitVec.ofNat 32 (b2n t.en + 2 * t.size.toNat)
  | 0x04 => t.base
  | 0x08 => BitVec.ofNat 32 t.head
  | 0x0C => BitVec.ofNat 32 t.retire
  | 0x10 => BitVec.ofNat 32 t.tail
  | o => if 0x20 ≤ o ∧ o < 0x40 then t.counter ((o - 0x20) / 4) else 0

/-- A word of DQ (Table 7-13, Table 8-3). -/
def Dq.word (q : Dq) (o : Nat) : W32 :=
  match o with
  | 0x00 => BitVec.ofNat 32 q.groups.length
  | 0x04 => q.idlethr
  | 0x18 => BitVec.ofNat 32 q.guards.length
  | 0x1C => BitVec.ofNat 32 (128 * b2n q.isOpen + q.lastCond.toNat)
  | o =>
    let v : W64 := match o / 8 with
      | 1 => q.posts
      | 2 => q.draws
      | 4 => q.syncdraws
      | 5 => q.idledraws
      | 6 => q.forceddraws
      | 7 => q.guardwait
      | _ => 0
    half o v

/-- A word of STASH (Table 7-14). -/
def Stash.word (t : Stash) (o : Nat) : W32 :=
  match o with
  | 0x00 => t.ctl
  | 0x04 => t.base
  | 0x08 => t.size
  | 0x10 => half 0 t.spillbase
  | 0x14 => half 4 t.spillbase
  | 0x18 => BitVec.ofNat 32 t.head
  | 0x1C => BitVec.ofNat 32 t.tail
  | 0x20 => BitVec.ofNat 32 (b2n t.cfgrej + 2 * b2n t.spillfull + 4 * b2n t.handleerr)
  | 0x24 => BitVec.ofNat 32 t.entries.length
  | 0x28 => half 0 t.spills
  | 0x2C => half 4 t.spills
  | 0x30 => half 0 t.refills
  | 0x34 => half 4 t.refills
  | 0x38 => half 0 t.stallcyc
  | 0x3C => half 4 t.stallcyc
  | 0x40 => t.pfdrop
  | _ => 0

/-- A word of the status block of an engine: a status, 32-bit counts and 64-bit counts. -/
def engineWord (status : W32) (cs : List W32) (base : Nat) (ls : List W64) (o : Nat) : W32 :=
  if o = 0 then status
  else if o < base then cs.getD (o / 4 - 1) 0
  else half o (ls.getD ((o - base) / 8) 0)

def QntRegs.word (q : QntRegs) (o : Nat) : W32 := engineWord q.status [q.rsvcnt, q.descerrcnt] 0x10 [q.tiles] o
def TenRegs.word (q : TenRegs) (o : Nat) : W32 :=
  engineWord q.status [q.rsvcnt, q.descerrcnt, q.hdrerrcnt] 0x10 [q.ktiles, q.gzterms, q.qstall, q.pstall] o
def VecRegs.word (q : VecRegs) (o : Nat) : W32 :=
  engineWord q.status [q.rsvcnt, q.descerrcnt, q.emptycnt] 0x10 [q.rows, q.accreads] o
def LdrRegs.word (q : LdrRegs) (o : Nat) : W32 :=
  half o ([q.checks, q.up2, q.up3, q.pinstart, q.rcycles, q.last.zeroExtend 64, q.pwait].getD (o / 8) 0)

/-- STA.CFGn (Table 6-6). -/
def StaSlot.cfg (t : StaSlot) : W64 := BitVec.ofNat 64 (t.tag.toNat + b2n t.psn * 2 ^ 32 + b2n t.amaxen * 2 ^ 33 + t.kind.toNat * 2 ^ 34)

/-- A word of STA: configurations in the lower half, values and snapshots in the upper. -/
def Ctx.staWord (k : Ctx) (o : Nat) : W32 :=
  let t := k.staOf (o % 0x400 / 16)
  if o < 0x400 then (if o % 16 < 8 then half o t.cfg else 0)
  else half o (if o % 16 < 8 then t.val else t.snap)

/-- What a word of the window reads as. Offsets not listed read as zero. -/
def State.winWord (s : State) (c : CoreId) (r : WReg) : W32 :=
  let k := s.core c
  match r with
  | .core o => if o = 0 then BitVec.ofNat 32 c.val else if o = 4 then BitVec.ofNat 32 k.fsize else 0
  | .ctx x o => (k.ctx x).word x o
  | .strm st o => (k.stream st).word o
  | .tok x o => ((k.ctx x).tok (o / 4)).zeroExtend 32
  | .dq o => k.dq.word o
  | .stash o => k.stash.word o
  | .qnt x o => (k.ctx x).qnt.word o
  | .ten x o => (k.ctx x).ten.word o
  | .ldr x o => (k.ctx x).ldr.word o
  | .vec x o => (k.ctx x).vec.word o
  | .sta x o => (k.ctx x).staWord o
  | .xfr _ _ => 0
  | .none => 0

/-! ## Writing -/

/-- Every member module of the partition shows the same PLAN_DIGEST (R284). -/
def State.digestsAgree (s : State) (p : PartId) : Bool :=
  (s.voteDevs p).all (fun d => d == s.ownDev || Config.peerDigest d p s.free == s.d (dkx 0x2640 p 6))

/-- Digests that differ when a context of the partition is to be enabled: PLAN_MISMATCH (R284). -/
def State.digestFault (s : State) (p : PartId) : State := ({ s with free := s.free + 1 }).raiseMgmt p 0x0A 0xFFFF

/-- CTX.CTL. A write of EN = 1 is ignored until the partition's plan is accepted and its members' digests agree, and for a withdrawn core
(R258, R284, R330). -/
def State.writeCtl (s : State) (c : CoreId) (x : CtxId) (v : W32) : State :=
  let k := s.ctx c x
  let differ := bitAt v 0 && !k.en && (match k.part with
    | some p => s.dN (dkx 0x2330 p 3) == 2 && !s.digestsAgree p
    | none => false)
  if differ then s.digestFault (s.partD c x) else
  let plan := match k.part with
    | some p => s.dN (dkx 0x2330 p 3) == 2
    | none => false
  if bitAt v 0 && !(plan && s.offered c) then s
  else (s.modCtx c x (fun k => { k with en := bitAt v 0, errcont := bitAt v 1 })).latchWindows

/-- CTX.RESUME: the halt clears, and issue goes on after the recorded slot; CTX.ERR and CTX.ERRSLOT are free for the next status (R167). -/
def State.writeResume (s : State) (c : CoreId) (x : CtxId) (v : W32) : State :=
  let k := s.ctx c x
  if !bitAt v 0 then s
  else
    let s := s.modCtx c x (fun k => { k with halted := false, errSet := false, resumeAt := none })
    match k.halted, k.resumeAt with
    | true, some (st, n) => (s.modStream c st (fun t =>
        let h := n % t.slots
        { t with head := h, retire := if t.loops.isEmpty then h else t.retire, xd := none })).fetchXd c st
    | _, _ => s

/-- STRM.CTL: SIZE only while EN is 0; EN = 0 then EN = 1 resets the slot indices (R180). -/
def Stream.writeCtl (t : Stream) (v : W32) : Stream :=
  let en := bitAt v 0
  let t := if t.en then t else { t with size := fld v 1 4 }
  let t := if en && !t.en then { t with head := 0, retire := 0, tail := 0, loops := [], xd := none } else t
  { t with en := en }

/-- STRM.BASE: ignored while EN is 1. -/
def Stream.writeBase (t : Stream) (v : W32) : Stream := if t.en then t else { t with base := v &&& 0x3FFFE0 }

/-- STRM.TAIL: a slot index modulo 2^SIZE (R155). -/
def Stream.writeTail (t : Stream) (v : W32) : Stream := { t with tail := v.toNat % t.slots }

/-- STASH.CTL: DIRSZ only while there is no entry (R181). -/
def Stash.writeCtl (t : Stash) (v : W32) : Stash :=
  let w := v &&& 0x7FFF00BF
  let same := fld w 0 3 == fld t.ctl 0 3
  if t.entries.isEmpty ∨ same then { t with ctl := w }
  else { t with ctl := (w &&& 0xFFFFFFF8) ||| (t.ctl &&& 0x7), cfgrej := true }

/-- STASH.BASE and STASH.SIZE, in units of 64 KiB (Table 7-14). A size beyond 2 MiB is ignored. -/
def Stash.writeBase (t : Stash) (v : W32) : Stash :=
  if t.entries.isEmpty then { t with base := v &&& 0x3F0000 } else { t with cfgrej := true }
def Stash.writeSize (t : Stash) (v : W32) : Stash :=
  if t.entries.isEmpty ∧ v.toNat / 65536 ≤ 32 then { t with size := v &&& 0x3F0000 } else { t with cfgrej := true }

/-- STASH.SPILLBASE: also ignored when it enables a spill area outside the core's district or past the end of the stack (R181). -/
def Stash.writeSpill (t : Stash) (c : CoreId) (v : W64) : Stash :=
  let w := v &&& 0xFFFFFF0001
  let bad := bitAt w 0 && (decide (fldN w 36 4 ≠ districtOf c) || decide (2 ^ 36 < fldN w 16 20 * 65536 + 65536 * stDir t))
  if t.entries.isEmpty ∧ !bad then { t with spillbase := w } else { t with cfgrej := true }

/-- A half of SPILLBASE written alone. -/
def Stash.spillHalf (t : Stash) (o : Nat) (v : W32) : W64 :=
  if o = 0x14 then v ++ fld t.spillbase 0 32 else (fld t.spillbase 32 32 : W32) ++ v

def Stash.write (t : Stash) (c : CoreId) (o : Nat) (v : W32) : Stash :=
  match o with
  | 0x00 => t.writeCtl v
  | 0x04 => t.writeBase v
  | 0x08 => t.writeSize v
  | 0x10 => t.writeSpill c (t.spillHalf o v)
  | 0x14 => t.writeSpill c (t.spillHalf o v)
  | 0x20 => { t with cfgrej := t.cfgrej && !bitAt v 0, spillfull := t.spillfull && !bitAt v 1, handleerr := t.handleerr && !bitAt v 2 }
  | _ => t

/-- STA.CFGn: bits [63:32] set the slot to its identity and clear PSN; bits [31:0] are TAG (R146). -/
def StaSlot.writeHigh (t : StaSlot) (v : W32) : StaSlot :=
  { t with amaxen := bitAt v 1, kind := fld v 2 2, psn := false, val := staIdent (fld v 2 2) }
def StaSlot.writeLow (t : StaSlot) (v : W32) : StaSlot := { t with tag := v }

def Ctx.writeSta (k : Ctx) (o : Nat) (v : W32) : Ctx :=
  let n := o % 0x400 / 16
  if o < 0x400 ∧ o % 16 = 0 then k.setSta n ((k.staOf n).writeLow v)
  else if o < 0x400 ∧ o % 16 = 4 then k.setSta n ((k.staOf n).writeHigh v)
  else k

/-- Write one word of the window, under the register's access code (Table 0-3). -/
def State.winPut (s : State) (c : CoreId) (r : WReg) (v : W32) : State :=
  match r with
  | .ctx x 0x00 => s.writeCtl c x v
  | .ctx x 0x10 => s.writeResume c x v
  | .ctx .filler 0x1C => s.modCtx c .filler (fun k => { k with filldelay := v })
  | .strm st 0x00 => s.modStream c st (fun t => t.writeCtl v)
  | .strm st 0x04 => s.modStream c st (fun t => t.writeBase v)
  | .strm st 0x10 => (s.modStream c st (fun t => t.writeTail v)).fetchXd c st
  | .dq 0x04 => s.modCore c (fun k => { k with dq := { k.dq with idlethr := v } })
  | .stash o => (s.modStash c (fun t => t.write c o v)).stServe c
  | .qnt x 0x00 => s.modCtx c x (fun k => { k with qnt := k.qnt.w1c v })
  | .ten x 0x00 => s.modCtx c x (fun k => { k with ten := k.ten.w1c v })
  | .vec x 0x00 => s.modCtx c x (fun k => { k with vec := k.vec.w1c v })
  | .sta x o => s.modCtx c x (fun k => k.writeSta o v)
  | _ => s

/-! ## Requests -/

/-- Core and window offset of an address of SPACE 0x4. -/
def winCore (a : W64) : CoreId := coreOf (aOff a / 2 ^ 22)
def winOff (a : W64) : Nat := aOff a % 2 ^ 22

/-- Checks of a request for `n` bytes of the window: the address (R17), then the partition of every register it names (R19, R179). -/
def State.winCheck (s : State) (c : CoreId) (p : PartId) (off n : Nat) (write : Bool) : Chk :=
  if !s.offered c ∨ 2 ^ 22 < off + n ∨ off % 4 ≠ 0 then .addr
  else if (List.range ((n + 3) / 4)).all (fun i => s.winAllowed c p (wReg (off + 4 * i)) write) then .ok else .part

/-- Read `n` bytes of the window. -/
def State.winRead (s : State) (c : CoreId) (off n : Nat) : List Byte :=
  (List.range (n / 4)).flatMap (fun i => leBytes 4 (s.winWord c (wReg (off + 4 * i))).toNat)

/-- Write words of the window in ascending order; a 64-bit SPILLBASE written whole is one write. -/
def winWriteGo (c : CoreId) : Nat → List W32 → State → State
  | _, [], s => s
  | off, v :: t, s =>
    match t with
    | w :: t' =>
      if off = 0x2010 then winWriteGo c (off + 8) t' ((s.modStash c (fun k => k.writeSpill c (w ++ v))).stServe c)
      else winWriteGo c (off + 4) (w :: t') (s.winPut c (wReg off) v)
    | [] => s.winPut c (wReg off) v

def State.winWrite (s : State) (c : CoreId) (off : Nat) (l : List Byte) : State :=
  winWriteGo c off ((elemsLe 4 (l.length / 4) l).map (BitVec.ofNat 32)) s

/-- A write to the window arrives: refused and counted, or performed. -/
def State.winStore (s : State) (c : CoreId) (p : PartId) (off : Nat) (l : List Byte) : State × Chk :=
  match s.winCheck c p off l.length true with
  | .ok => ((s.winWrite c off l).settle, .ok)
  | k => (s.refuse k, k)

/-! ## Commands that are writes of one register -/

def strmBase : StreamId → Nat
  | .s0 => 0x200
  | .s1 => 0x240
  | .s2 => 0x280

def ctxBase : CtxId → Nat
  | .primary => 0x100
  | .filler => 0x180

def staBase : CtxId → Nat
  | .primary => 0x3400
  | .filler => 0x4400

/-- TAIL_WRITE (R155). -/
def execTailWrite (core : CoreId) (st : StreamId) (part : PartId) (v : W32) (s : State) : Host.Outcome State Fault Refusal :=
  .next (s.winStore core part (strmBase st + 0x10) (leBytes 4 v.toNat)).1

/-- STREAM_ENABLE (R180). -/
def execStreamEnable (core : CoreId) (st : StreamId) (part : PartId) (v : W32) (s : State) : Host.Outcome State Fault Refusal :=
  .next (s.winStore core part (strmBase st) (leBytes 4 v.toNat)).1

/-- CONTEXT_ENABLE (R258). -/
def execContextEnable (core : CoreId) (ctx : CtxId) (part : PartId) (v : W32) (s : State) : Host.Outcome State Fault Refusal :=
  .next (s.winStore core part (ctxBase ctx) (leBytes 4 v.toNat)).1

/-- RESUME (R167). -/
def execResume (core : CoreId) (ctx : CtxId) (part : PartId) (v : W32) (s : State) : Host.Outcome State Fault Refusal :=
  .next (s.winStore core part (ctxBase ctx + 0x10) (leBytes 4 v.toNat)).1

/-- STA_CFG_WRITE (R146): of the whole register or of one of its words. -/
def execStaCfgWrite (core : CoreId) (ctx : CtxId) (part : PartId) (slot : Fin 64) (span : CfgSpan) (v : W64) (s : State) :
    Host.Outcome State Fault Refusal :=
  let off := staBase ctx + 16 * slot.val
  match span with
  | .whole => .next (s.winStore core part off (leBytes 8 v.toNat)).1
  | .low => .next (s.winStore core part off (leBytes 4 v.toNat)).1
  | .high => .next (s.winStore core part (off + 4) (leBytes 4 (v.toNat / 2 ^ 32))).1

/-- STASH_CONFIG_WRITE (R181): of the register at a window offset. SPILLBASE is 64 bits wide. -/
def execStashConfigWrite (core : CoreId) (part : PartId) (off : BitVec 22) (v : W64) (s : State) : Host.Outcome State Fault Refusal :=
  if off = 0x2000 ∨ off = 0x2004 ∨ off = 0x2008 then .next (s.winStore core part off.toNat (leBytes 4 v.toNat)).1
  else if off = 0x2010 then .next (s.winStore core part off.toNat (leBytes 8 v.toNat)).1
  else .next s

/-- REGISTER_WRITE (R6): of any word of the window. -/
def execRegisterWrite (core : CoreId) (part : PartId) (off : BitVec 22) (v : W32) (s : State) : Host.Outcome State Fault Refusal :=
  .next (s.winStore core part off.toNat (leBytes 4 v.toNat)).1

end Sys2Proof.Machine
end

