-- ==== Sys2Proof/Machine/CollShape.lean ====
section
/-!
DEFINITION. How a collective runs, before any message: the paths that chunks take among the members under each algorithm (R266, R272 to
R276), one addition of the element format (R273), and carry formats (R278, R279).
-/
namespace Sys2Proof.Machine

/-! ## Members (R262) -/

def memberKind (m : W32) : Nat := fldN m 14 2
def memberUnit (m : W32) : Nat := fldN m 0 8
def coreMember (dev : W16) (c : CoreId) : W32 := BitVec.ofNat 32 (dev.toNat * 65536 + c.val)

/-- Member indices by rack, racks in ascending order of their lowest index (R276). -/
def rackGroups (ms : List W32) : List (List Nat) :=
  let racks := (ms.map (fun m => rackOf (memberDev m))).eraseDups
  racks.map (fun r => (List.range ms.length).filter (fun j => rackOf (memberDev (ms.getD j 0)) == r))

/-! ## Paths -/

/-- A call as its algorithm sees it: members, own index, algorithm (0 for moves), operation, root, elements and their size, and the
members of each rack. -/
structure Shape where
  n : Nat
  me : Nat
  alg : Nat
  op : Nat
  root : Nat
  count : Nat
  ebytes : Nat
  racks : List (List Nat)
  deriving DecidableEq, Repr

/-- A path of a chunk [lo, hi) of elements: it starts at member `mem 0` and takes `hops` hops, of which the first `adds` add at the
member they reach and the others hand the result on. `base` is the start of the ring chunk it belongs to, from which its segments and
carry groups are counted (R278). -/
structure CPath where
  stage : Nat
  base : Nat
  lo : Nat
  hi : Nat
  hops : Nat
  adds : Nat
  mem : Nat → Nat

/-- Elements that are reduced. -/
def Shape.total (h : Shape) : Nat := if h.op = 1 then h.n * h.count else h.count

def Shape.hier (h : Shape) : Bool := h.alg == 4 || h.alg == 5

/-- Members of a rack that take part in the stage across racks. -/
def Shape.k (h : Shape) : Nat :=
  match h.racks with
  | [] => 1
  | a :: t => t.foldl (fun m r => Nat.min m r.length) a.length

/-- Bounds of part c of n of a range (R266). -/
def cutRange (lo hi n c : Nat) : Nat × Nat := (lo + c * (hi - lo) / n, lo + (c + 1) * (hi - lo) / n)

/-- Number of a path: stage, and two indices of the stage. -/
def pathId (stage a b : Nat) : Nat := stage * 2 ^ 60 + a * 2 ^ 30 + b

/-- Ring chunk c, or half of it, reduced round the ring and then handed on (R273, R274). `dir` is 0 for the whole chunk, 1 and 2 for the
halves of the bidirectional ring; the second half travels backwards. -/
def Shape.ringPath (h : Shape) (c dir : Nat) : CPath :=
  let r := if h.op = 1 then (c * h.count, (c + 1) * h.count) else cutRange 0 h.total h.n c
  let cut := r.1 + (r.2 - r.1 + 1) / 2
  let b := if dir = 0 then r else if dir = 1 then (r.1, cut) else (cut, r.2)
  let back := dir = 2
  let toRoot := if back then (c + h.n - h.root) % h.n else (h.root + h.n - c) % h.n
  let hops := if h.op = 1 then h.n - 1 else if h.op = 4 then h.n - 1 + toRoot else 2 * (h.n - 1)
  ⟨0, r.1, b.1, b.2, hops, h.n - 1, fun p => if back then (c + 2 * h.n - 1 - p % h.n) % h.n else (c + 1 + p) % h.n⟩

/-- Paths of the hierarchical algorithm (R276): stage 0 reduces local chunk b in rack a, stage 1 runs part b of local chunk a across the
racks, and stage 2 gathers local chunk b in rack a. -/
def Shape.hierPath (h : Shape) (stage a b : Nat) : CPath :=
  let rack (q : Nat) : List Nat := h.racks.getD q []
  let r := cutRange 0 h.total h.k (if stage = 1 then a else b)
  match stage with
  | 0 =>
    let m := rack a
    ⟨0, r.1, r.1, r.2, m.length - 1, m.length - 1, fun p => m.getD ((b + 1 + p) % m.length) 0⟩
  | 1 =>
    let n := h.racks.length
    let c := cutRange r.1 r.2 n b
    ⟨1, c.1, c.1, c.2, 2 * (n - 1), n - 1, fun p => (rack ((b + 1 + p) % n)).getD a 0⟩
  | _ =>
    let m := rack a
    ⟨2, r.1, r.1, r.2, m.length - 1, 0, fun p => m.getD ((b + p) % m.length) 0⟩

/-- Paths of operations that only move data (Table 11-4): ALLGATHER round the ring, BCAST along it, ALLTOALL directly; [lo, hi) is the
place in DST. -/
def Shape.movePath (h : Shape) (a b : Nat) : CPath :=
  match h.op with
  | 2 => ⟨0, a * h.count, a * h.count, (a + 1) * h.count, h.n - 1, 0, fun p => (a + p) % h.n⟩
  | 3 => ⟨0, 0, 0, h.count, h.n - 1, 0, fun p => (h.root + p) % h.n⟩
  | _ => ⟨0, a * h.count, a * h.count, (a + 1) * h.count, if a = b then 0 else 1, 0, fun p => if p = 0 then a else b⟩

def Shape.path (h : Shape) (id : Nat) : CPath :=
  let st := id / 2 ^ 60
  let a := id / 2 ^ 30 % 2 ^ 30
  let b := id % 2 ^ 30
  if h.alg = 0 then h.movePath a b
  else if h.hier then h.hierPath st a b
  else h.ringPath a b

/-- The rack of the own member. -/
def Shape.myRack (h : Shape) : Nat := ((List.range h.racks.length).find? (fun q => (h.racks.getD q []).contains h.me)).getD 0
def Shape.myPlace (h : Shape) : Nat :=
  let r := h.racks.getD h.myRack []
  ((List.range r.length).find? (fun i => r.getD i 0 == h.me)).getD 0

/-- Paths that the own member may lie on, of one stage. -/
def Shape.ids (h : Shape) (stage : Nat) : List Nat :=
  if h.alg = 3 then []
  else if h.hier then
    match stage with
    | 0 => if h.alg = 5 then [] else (List.range h.k).map (fun l => pathId 0 h.myRack l)
    | 1 => if h.myPlace < h.k then (List.range h.racks.length).map (fun r => pathId 1 h.myPlace r) else []
    | 2 => (List.range h.k).map (fun l => pathId 2 h.myRack l)
    | _ => []
  else if stage ≠ 0 then []
  else if h.alg = 0 then
    match h.op with
    | 2 => (List.range h.n).map (fun j => pathId 0 j 0)
    | 3 => [pathId 0 0 0]
    | _ => (List.range h.n).map (fun i => pathId 0 h.me ((h.me + i) % h.n)) ++
        ((List.range h.n).filter (· ≠ h.me)).map (fun i => pathId 0 i h.me)
  else if h.alg = 2 then (List.range h.n).flatMap (fun c => [pathId 0 c 1, pathId 0 c 2])
  else (List.range h.n).map (fun c => pathId 0 c 0)

def Shape.stages (h : Shape) : Nat := if h.hier then 3 else 1

/-- Elements of a segment of 64 KiB (R269). -/
def Shape.segElems (h : Shape) : Nat := 65536 / h.ebytes

def Shape.segs (h : Shape) (lo hi : Nat) : Nat := (hi - lo + h.segElems - 1) / h.segElems

/-- The first segment of a path, counted from the start of its ring chunk, and how many it has. They are cut there, so that no carry group
lies in two of them. -/
def Shape.firstSeg (h : Shape) (q : CPath) : Nat := (q.lo - q.base) / h.segElems
def Shape.pathSegs (h : Shape) (q : CPath) : Nat := if q.hi ≤ q.lo then 0 else h.segs q.base q.hi - h.firstSeg q

/-- Elements [lo, hi) of a segment of a path. -/
def Shape.segRange (h : Shape) (q : CPath) (g : Nat) : Nat × Nat :=
  let at' := q.base + (h.firstSeg q + g) * h.segElems
  (Nat.max q.lo at', Nat.min q.hi (at' + h.segElems))

/-- Place of the own member on the ring of a stage (R269). -/
def Shape.ringPos (h : Shape) (stage : Nat) : Nat := if !h.hier then h.me else if stage = 1 then h.myRack else h.myPlace

/-- Places of the own member on a path. -/
def Shape.places (h : Shape) (q : CPath) : List Nat := (List.range (q.hops + 1)).filter (fun p => q.mem p == h.me)

/-- Segments of a stage that reach the own member, and those that it sends. -/
def Shape.inCount (h : Shape) (stage : Nat) : Nat :=
  (h.ids stage).foldl (fun a i => let q := h.path i; a + h.pathSegs q * ((h.places q).filter (0 < ·)).length) 0
def Shape.outCount (h : Shape) (stage : Nat) : Nat :=
  (h.ids stage).foldl (fun a i => let q := h.path i; a + h.pathSegs q * ((h.places q).filter (· < q.hops)).length) 0

/-- Peers that send to the own member with the segments each sends, in order of first use. -/
def Shape.senders (h : Shape) : List (Nat × Nat) :=
  let l := (List.range h.stages).flatMap (fun st => (h.ids st).flatMap (fun i =>
    let q := h.path i
    let g := h.pathSegs q
    if g = 0 then [] else ((h.places q).filter (0 < ·)).map (fun p => (q.mem (p - 1), g))))
  (l.map (·.1)).eraseDups.map (fun m => (m, l.foldl (fun a e => if e.1 = m then a + e.2 else a) 0))

/-- Peers to which the own member sends. -/
def Shape.receivers (h : Shape) : List Nat :=
  ((List.range h.stages).flatMap (fun st => (h.ids st).flatMap (fun i =>
    let q := h.path i
    if h.pathSegs q = 0 then [] else ((h.places q).filter (· < q.hops)).map (fun p => q.mem (p + 1))))).eraseDups

/-- Segments of a switch reduction (R275). -/
def Shape.redSegs (h : Shape) : Nat := if h.alg = 3 ∨ h.alg = 5 then h.segs 0 h.total else 0

/-- Peers the own member awaits (R285): those it exchanges segments with, and under switch reduce every other member of the rack. -/
def Shape.awaited (h : Shape) : List Nat :=
  let rack := if h.alg = 3 ∨ h.alg = 5 then (h.racks.getD h.myRack []).filter (· ≠ h.me) else []
  (h.senders.map (·.1) ++ h.receivers ++ rack).eraseDups.filter (· ≠ h.me)

/-! ## One addition (R273) -/

def efFmt (ef : Nat) : Fmt := if ef = 0 then fp32 else if ef = 1 then bf16 else fp16

/-- The larger or smaller of two codes, every NaN being the positive canonical one. -/
def collMax (f : Fmt) (isMax : Bool) (x y : Nat) : Nat :=
  match unpack f x, unpack f y with
  | .nan _ _ _, _ => f.qnan false
  | _, .nan _ _ _ => f.qnan false
  | _, _ => (maxMin f isMax x y).1

/-- p ⊕ x: `pf` is the format of p, which is FP32 after a carry. -/
def collOp (ef red : Nat) (pf : Fmt) (p x : Nat) : Nat :=
  if ef = 3 then
    match red with
    | 0 => (p + x) % 2 ^ 64
    | 1 => Nat.max p x
    | _ => Nat.min p x
  else
    match red with
    | 0 => (addF (efFmt ef) (unpack pf p) (unpack (efFmt ef) x)).1
    | 1 => collMax (efFmt ef) true p x
    | _ => collMax (efFmt ef) false p x

/-! ## Carry (R278, R279) -/

/-- What an encoding depends on besides the values: CARRY, CGSZ, CRND, CTEXP, TENSOR, the seed, the step. -/
structure CarryCtl where
  kind : Nat
  cgsz : Nat
  rnd : BitVec 3
  texp : Byte
  tensor : W32
  sr : W64
  step : W32
  deriving DecidableEq, Repr

def CarryCtl.rand (k : CarryCtl) (row col : Nat) : Nat :=
  if k.rnd = 4 then rng32 2 k.sr k.step k.tensor (BitVec.ofNat 32 row) (BitVec.ofNat 32 col) else 0

/-- Elements of a carry group. -/
def CarryCtl.group (k : CarryCtl) : Nat := if k.kind = 2 then gsize k.cgsz else 128
/-- Bytes of a carry group on the wire: its metadata word and codes, or its scale and codes (the module's own layout). -/
def CarryCtl.gbytes (k : CarryCtl) : Nat := if k.kind = 2 then 2 + k.group / 2 else 132

/-- Encode one group; the flag says that it is a CLIP group. -/
def CarryCtl.encGroup (k : CarryCtl) (row col : Nat) (y : List W32) : List Byte × Bool :=
  let y := y ++ List.replicate (k.group - y.length) 0
  if k.kind = 2 then
    let q := quantGroup 0 k.texp 0 (rndShort k.rnd).1 (fun j => k.rand row (col + j)) 0 y
    (leBytes 2 q.word ++ packCodes 0 q.codes, q.flags == 3)
  else
    let e := rowExp 5 (v149 (amaxOf y)).natAbs
    let cs := ((List.range y.length).zip y).map (fun x => (fp8Elem e4m3 (rndIeee k.rnd).1 false (k.rand row (col + x.1)) e x.2).1)
    (leBytes 4 (pow2w e).toNat ++ cs.map (BitVec.ofNat 8), false)

/-- Decode one group to FP32 codes; every element of a CLIP group is a qNaN (R279). -/
def CarryCtl.decGroup (k : CarryCtl) (l : List Byte) : List Nat :=
  if k.kind = 2 then
    let w := ofLe (l.take 2)
    if w / 2 ^ 14 = 3 then List.replicate k.group (fp32.qnan false)
    else (dequantGroup 0 k.texp (metaOf w) (unpackCodes 0 (l.drop 2)) []).map (fun v => v.1.toNat)
  else
    let sigma := BitVec.ofNat 32 (ofLe (l.take 4))
    (l.drop 4).map (fun b => (fp8Scaled e4m3 b.toNat sigma).1.toNat)

/-- Encode the elements from `col` on, `off` of them before the first having gone elsewhere with its group (R278: groups are counted from
the start of the ring chunk); CLIP groups are counted. -/
def CarryCtl.encode (k : CarryCtl) (row : Nat) : Nat → Nat → Nat → List W32 → List Byte × Nat
  | 0, _, _, _ => ([], 0)
  | n + 1, off, col, y =>
    if y.isEmpty then ([], 0)
    else
      let m := k.group - off
      let (b, c) := k.encGroup row col (y.take m)
      let (r, d) := CarryCtl.encode k row n 0 (col + m) (y.drop m)
      (b ++ r, b2n c + d)

/-- A segment as it travels: element values, or carry groups. -/
def wireOf (ef : Nat) (k : CarryCtl) (row off col : Nat) (vals : List Nat) : List Byte × Nat :=
  if k.kind = 0 then (vals.flatMap (leBytes (efBytes ef)), 0)
  else k.encode row vals.length off col (vals.map (fun v => (widen (efFmt ef) v).1))

/-- The values of a segment that has arrived: element codes, or FP32 codes after a carry. The first group holds no more than what is left of
it. -/
def wireVals (ef : Nat) (k : CarryCtl) (off n : Nat) (l : List Byte) : List Nat :=
  if k.kind = 0 then elemsLe (efBytes ef) n l
  else match (chunksOf k.gbytes ((off + n + k.group - 1) / k.group) l).map k.decGroup with
    | [] => []
    | g :: t => (g.take (k.group - off) ++ t.flatten).take n

/-- Bytes of a segment's wire form that element i takes part in. -/
def wireSpan (ef : Nat) (k : CarryCtl) (off i : Nat) : Nat × Nat :=
  if k.kind = 0 then (i * efBytes ef, efBytes ef) else ((off + i) / k.group * k.gbytes, k.gbytes)

/-- Poison of the 64-byte units of a segment of `n` bytes from that of its elements, and back. -/
def wireFlags (ef : Nat) (k : CarryCtl) (off n : Nat) (ps : List Bool) : List Bool :=
  if !ps.any id then List.replicate ((n + 63) / 64) false
  else (List.range ((n + 63) / 64)).map (fun u => (List.range ps.length).any (fun i =>
    let w := wireSpan ef k off i
    ps.getD i false && decide (w.1 < 64 * u + 64 ∧ 64 * u < w.1 + w.2)))
def elemFlags (ef : Nat) (k : CarryCtl) (off n : Nat) (us : List Bool) : List Bool :=
  if !us.any id then List.replicate n false
  else (List.range n).map (fun i =>
    let w := wireSpan ef k off i
    (List.range us.length).any (fun u => us.getD u false && decide (w.1 < 64 * u + 64 ∧ 64 * u < w.1 + w.2)))

/-- Poison of elements, given to the whole of each carry group that holds one: its scale comes from all of its elements. -/
def spreadFlags (k : CarryCtl) (off : Nat) (ps : List Bool) : List Bool :=
  if k.kind = 0 ∨ !ps.any id then ps
  else (chunksOf k.group ((off + ps.length + k.group - 1) / k.group) (List.replicate off false ++ ps)).flatMap
    (fun c => List.replicate c.length (c.any id)) |>.drop off

/-- Indices of the poisoned elements. -/
def markedElems (ps : List Bool) : List Nat := (List.range ps.length).filter (fun i => ps.getD i false)

/-- Poison of the elements of a segment that has arrived: those its segment-end lists, and those in poisoned units that hold no listed
element, whose poison arose on the way. -/
def arrivedFlags (ef : Nat) (k : CarryCtl) (off n : Nat) (us : List Bool) (listed : List Nat) : List Bool :=
  let told := (List.range n).map listed.contains
  let known := wireFlags ef k off (64 * us.length) told
  List.zipWith (· || ·) told (elemFlags ef k off n (List.zipWith (fun u w => u && !w) us known))

/-- Elements of a group before `lo`, counted from the start of the ring chunk. -/
def CPath.groupOff (q : CPath) (k : CarryCtl) (lo : Nat) : Nat := (lo - q.base) % k.group

/-- A value in EFMT from an FP32 code, rounded once, NaNs canonical (R273). -/
def toEfmt (ef : Nat) (v : Nat) : Nat :=
  match unpack fp32 v with
  | .nan _ _ _ => (efFmt ef).qnan false
  | _ => (convert fp32 (efFmt ef) .rne true 0 v).1

end Sys2Proof.Machine
end

