-- ==== Sys2Proof/Machine/Coll.lean ====
section
/-!
DEFINITION. Collective calls at a member (R265 to R271, R273 to R279, R285, R286): accepting a call, READY and segment-end messages,
additions, sending, completion and timeouts. READY, segment-end and data between members of this module are delivered at once; to
other modules they leave as requests of the district's collective engine.
-/
namespace Sys2Proof.Machine

def ckColl (p : PartId) (sub : Nat) : Nat := dkx 0x2640 p sub

/-! ## Groups in use (R263, R325) -/

/-- A group as a table gives it, with the complements of its directory value and members, reserved bits as zero. -/
def Group.dirValue (gid : W16) (force : BitVec 3) (n list : Nat) : W128 :=
  BitVec.ofNat 128 (gid.toNat * 2 ^ 112 + force.toNat * 2 ^ 109 + n % 2 ^ 32 * 2 ^ 64 + list % 2 ^ 64)

def Group.ofTable (gid : W16) (force : BitVec 3) (list : Nat) (ms : List W32) : Group :=
  ⟨gid, force, ms, 0, 0, 0, 0, [], [], BitVec.ofNat 64 list, ~~~(Group.dirValue gid force ms.length list), ms.map (fun m => ~~~m)⟩

/-- The directory value and the members match their complements. -/
def Group.intact (g : Group) : Bool :=
  g.dirNot == ~~~(Group.dirValue g.gid g.force g.members.length g.list.toNat) && g.memNot == g.members.map (~~~ ·)

/-! ## Calls -/

/-- BARRIER runs as an ALLREDUCE of one U64 of value 0 (R266). -/
def collEf (d : BitVec 512) : Nat := if cdOp d = 6 then 3 else cdEfmt d
/-- A BARRIER runs with SUM (R266). -/
def collRed (d : BitVec 512) : Nat := if cdOp d = 6 then 0 else cdRed d
def collCarryKind (d : BitVec 512) : Nat := if cdOp d = 6 then 0 else cdCarry d

/-- Algorithm of a call: 0 for operations that only move data (R272). -/
def Group.alg (g : Group) (d : BitVec 512) : Nat :=
  if !cdReducing d then 0 else if collCarryKind d ≠ 0 then g.algCarry else g.algPlain

def Group.shape (g : Group) (me : Nat) (d : BitVec 512) : Shape :=
  let bar := cdOp d = 6
  ⟨g.members.length, me, g.alg d, cdOp d, cdRoot d, if bar then 1 else cdCount d, if bar then 8 else efBytes (cdEfmt d),
    rackGroups g.members⟩

def Call.same (a b : Call) : Bool := a.core == b.core && a.ctx == b.ctx && a.job == b.job
def Call.is (k : Call) (c : CoreId) (gid : W16) : Bool := k.core == c && k.gid == gid

def State.setCall (s : State) (p : PartId) (k : Call) : State :=
  s.modPart p (fun q => { q with calls := q.calls.map (fun x => if x.same k then k else x) })
def State.dropCall (s : State) (p : PartId) (k : Call) : State :=
  s.modPart p (fun q => { q with calls := q.calls.filter (fun x => !x.same k) })

def callKey (c : CoreId) (gid : W16) : Nat := c.val * 65536 + gid.toNat
def Part.nextCall (q : Part) (c : CoreId) (gid : W16) : W64 := SMap.get (fun _ => 0) q.callNo (callKey c gid)

/-- The call of a group in progress at a member is the oldest not complete (R270). -/
def Part.current (q : Part) (c : CoreId) (gid : W16) : Option Call := q.calls.find? (fun k => k.is c gid)
def Part.currentNo (q : Part) (c : CoreId) (gid : W16) : W64 :=
  match q.current c gid with
  | some k => k.call
  | none => q.nextCall c gid

def cget (m : SMap Nat) (k : Nat) : Nat := SMap.get (fun _ => 0) m k
def cinc (m : SMap Nat) (k : Nat) : SMap Nat := SMap.set (fun _ => 0) m k (cget m k + 1)

/-- The call signature (Table 11-2a). -/
def callSig (d : BitVec 512) (call : W64) : W64 :=
  sha64 (leBytes 2 (cdGid d).toNat ++ leBytes 8 call.toNat ++ leBytes 1 (cdOp d) ++ leBytes 1 (cdRed d) ++ leBytes 1 (cdEfmt d) ++
    leBytes 1 (cdCarry d) ++ leBytes 1 (cdCgsz d) ++ leBytes 1 (cdCrnd d).toNat ++ leBytes 1 (cdCtexp d).toNat ++
    leBytes 8 (cdCount d) ++ leBytes 4 (cdRoot d))

/-- Former of results and requests: the district's collective engine (R239, R310). -/
def Former.engine (c : CoreId) : Former := ⟨1, districtOf c⟩

/-! ## Ending a call -/

/-- A call ends with a status; its command completes with it. -/
def State.endCall (s : State) (p : PartId) (k : Call) (status : Byte) : State :=
  let s := s.dropCall p k
  let s := s.modPart p (fun q => { q with
    retries := q.retries.filter (fun r => !(r.2.peer == k.me && r.2.gid == k.gid && r.2.call == k.call))
    mailbox := q.mailbox.filter (fun m => !(m.core == k.core && m.gid == k.gid && m.call == k.call)) })
  let s := if status = stPart then s.partFault k.core k.ctx k.step else s
  s.setStatus k.core k.ctx k.job status

/-- A use of a call's group finds a complement that does not match (R325 kind 0x04). -/
def State.groupFault (s : State) (p : PartId) (k : Call) : State :=
  ((s.raise p 0x04 k.step k.core.val (ctxBit k.ctx) 4).raise p 0x0B k.step k.core.val (ctxBit k.ctx) 6).endCall p k stColl

/-- The members find different signatures: PLAN_MISMATCH and status 0x09 (R268). -/
def State.sigFail (s : State) (p : PartId) (k : Call) : State :=
  ((s.incD (ckColl p 0x0C)).raise p 0x0A k.step k.core.val (ctxBit k.ctx) k.gid.toNat).endCall p k stColl

/-! ## Lateness (R285) -/

def lateAdd (l : List Late) (gid : W16) (m : Nat) (ns : W64) (last : Nat) : List Late :=
  if l.any (fun e => e.gid == gid && e.member == m) then
    l.map (fun e => if e.gid == gid && e.member == m then { e with ns := e.ns + ns, lastCount := e.lastCount + last } else e)
  else l ++ [⟨gid, m, ns, last⟩]

/-- First arrival from a peer. -/
def State.hear (s : State) (p : PartId) (k : Call) (peer : Nat) : State × Call :=
  if k.heard.contains peer then (s, k)
  else
    let k := { k with heard := k.heard ++ [peer] }
    if s.now.toNat ≤ k.start.toNat then (s, k)
    else (s.modPart p (fun q => { q with late := lateAdd q.late k.gid peer (s.now - k.start) 0 }), { k with lastLate := some peer })

/-! ## READY and segment-end (R268, R269) -/

/-- A READY is applied to the call it names. -/
def State.applyReady (s : State) (p : PartId) (k : Call) (m : CollReady) : State :=
  if m.sig ≠ callSig k.desc k.call then s.sigFail p k
  else
    let (s, k) := s.hear p k m.peer
    let first := if cdReducing k.desc then 2 else 2 ^ 64
    let n := if m.grant = 0 then first else m.grant + 1
    let rs := match k.ready.find? (fun r => r.1 == m.peer) with
      | some _ => k.ready.map (fun r => if r.1 = m.peer then (r.1, r.2.1, Nat.max r.2.2 n) else r)
      | none => k.ready ++ [(m.peer, m.addr, n)]
    s.setCall p { k with ready := rs }

/-- A READY arrives at a mailbox; true when it finds no room (R268). One for a call that has not begun waits there. -/
def State.takeReady (s : State) (m : CollReady) : State × Bool :=
  let p := m.part
  let q := s.part p
  if q.failed.contains (m.core, m.gid) then (s.incD (ckColl p 0x0B), false)
  else
    let cur := q.currentNo m.core m.gid
    if m.call.toNat < cur.toNat then (s, false)
    else match q.calls.find? (fun k => k.is m.core m.gid && k.call == m.call) with
      | some k =>
        if k.begun ≠ 0 then (s.applyReady p k m, false)
        else
          let (s, k) := s.hear p k m.peer
          ((s.setCall p k).modPart p (fun q => { q with mailbox := q.mailbox ++ [m] }), false)
      | none =>
        if cur.toNat + 3 ≤ m.call.toNat then (s, true)
        else (s.modPart p (fun q => { q with mailbox := q.mailbox ++ [m] }), false)

/-- A segment-end message arrives: its segment waits to be processed. -/
def State.takeSegEnd (s : State) (m : CollSegEnd) : State :=
  let p := m.part
  let q := s.part p
  match q.calls.find? (fun k => k.is m.core m.gid && k.call == m.call) with
  | some k =>
    let (s, k) := s.hear p k m.peer
    s.setCall p { k with inq := k.inq ++ [(cget k.recv m.peer, m)], recv := cinc k.recv m.peer }
  | none => if q.failed.contains (m.core, m.gid) then s.incD (ckColl p 0x0B) else s

/-! ## Requests of a collective engine -/

/-- Requests that a collective engine has outstanding (R239). -/
def State.engineOut (s : State) (c : CoreId) : Nat :=
  (s.reqs.filter (fun e => decide (reqKey 1 (districtOf c) 0 ≤ e.1 ∧ e.1 < reqKey 1 (districtOf c) 4096))).length

/-- The mailbox of a member (R268). -/
def mailAddr (dest : W32) : W64 :=
  BitVec.ofNat 64 ((memberDev dest).toNat * 2 ^ 48 + 4 * 2 ^ 44 + memberUnit dest * 2 ^ 22 + 0x3FF000)

/-- A mailbox message of a member leaves for another module: a one-unit WR on TC-COL, and in the model's record what its unit says. -/
def State.sendMail (s : State) (p : PartId) (k : Call) (pl : Option PathPlan) (dest : W32) (words : List Nat) (sink : Sink)
    (mk : BitVec 12 → Out) : State :=
  let d := districtOf k.core
  let a := mailAddr dest
  match s.freeTag 1 d, s.sendReq 1 d (routeNo 1 d) pl (s.reqPkt p 0x01 1 0 0 false a [Config.mailUnit words]) ⟨k.core, k.ctx, k.job, a, sink⟩ with
  | some t, some s => (s.modJob k.core k.ctx k.job (fun j => { j with outst := j.outst + 1 })).emit (mk (BitVec.ofNat 12 t))
  | _, _ => s

/-- What a READY says, and what a segment-end message says. -/
def readyWords (m : CollReady) : List Nat := [0, m.gid.toNat, m.peer, m.call.toNat, m.sig.toNat, m.addr.toNat, m.grant]
def segEndWords (m : CollSegEnd) : List Nat := [1, m.gid.toNat, m.peer, m.call.toNat, m.path, m.hop, m.seg, m.len] ++ m.psn

/-- Send a READY to a member. -/
def State.sendReady (s : State) (p : PartId) (k : Call) (dest : W32) (addr : W64) (grant : Nat) : State :=
  let m : CollReady := ⟨p, coreOf (memberUnit dest), k.gid, k.me, k.call, callSig k.desc k.call, addr, grant⟩
  if memberDev dest = s.ownDev then
    let (s, full) := s.takeReady m
    if full then s.modPart p (fun q => { q with retries := q.retries ++ [(memberDev dest, m)] }) else s
  else s.sendMail p k (s.planOf p) dest (readyWords m) (.collReady (memberDev dest) m) (fun t => .coll (memberDev dest) t m)

/-- Write packets for the bytes of a segment (R238, R241). -/
def State.bytePackets (s : State) (p : PartId) (dst : W64) (l : List Byte) (ps : List Bool) : List (Packet × Sink) :=
  (piecesOf (maxPkt (s.pver p)) (aOff dst) l.length).map (fun e =>
    let bs := (l.drop e.1).take e.2
    (s.reqPkt p 0x01 1 (e.2 / 16 - 1) (mkPsn (s.pver p) e.2 ((ps.drop (e.1 / 64)).take ((e.2 + 63) / 64))) false
      (dst + BitVec.ofNat 64 e.1) (unitsOfBytes bs), Sink.ack))

/-- Segments that the member has sent in the call. -/
def Call.sentAll (k : Call) : Nat := k.sent.foldl (fun a e => a + e.2) 0

/-- The partition's planes, and the one that segment s of the member at place i takes (R269). -/
def State.segPlan (s : State) (p : PartId) (g i : Nat) : Option PathPlan :=
  (s.planOf p).map (fun pl => { pl with planes := if pl.planes.isEmpty then [] else [pl.planes.getD ((g + i) % pl.planes.length) 0] })

/-- Send the packets of a segment. One without a path is lost. -/
def State.sendSeg (s : State) (k : Call) (pl : Option PathPlan) (ps : List (Packet × Sink)) : State :=
  ps.foldl (fun s e =>
    let d := districtOf k.core
    let s' := (s.sendReq 1 d (routeNo 1 d) pl e.1 ⟨k.core, k.ctx, k.job, pAddr e.1.hdr, e.2⟩).getD s
    s'.modJob k.core k.ctx k.job (fun j => { j with outst := j.outst + 1 })) s

/-! ## Values -/

def State.carryCtl (s : State) (p : PartId) (k : Call) : CarryCtl :=
  ⟨collCarryKind k.desc, cdCgsz k.desc, cdCrnd k.desc, cdCtexp k.desc, cdTensor k.desc, (s.seeds p k.step).1, k.step.setWidth 32⟩

/-- The carry in force in a stage: the gather within racks hands results on as they are. -/
def CarryCtl.inStage (k : CarryCtl) (stage : Nat) : CarryCtl := if stage = 2 then { k with kind := 0 } else k

/-- POISON_CONSUMED once for a call: its engine adds an operand from a poisoned unit, or checks a block that holds one (R271, R313). -/
def State.collPoison (s : State) (p : PartId) (k : Call) (a : W64) : State × Call :=
  if k.raised then (s, k) else (s.raise p 0x01 k.step k.core.val (ctxBit k.ctx) a.toNat, { k with raised := true })

/-- Check the blocks of a range: the failing ones, and the first poisoned unit outside the range's own units (R271, R313). -/
def State.collCheck (s : State) (key len : Nat) : State × List Nat × Option Nat :=
  let s := s.addD (dk 0x2500 4) (fillBytes [(key, len)])
  let own (a : Nat) : Bool := decide (key / 64 ≤ a / 64 ∧ a / 64 ≤ (key + len - 1) / 64)
  (blocksOf key len).foldl (fun (a : State × List Nat × Option Nat) b =>
    let (s, r) := a.1.checkBlock b
    let out := ((List.range 64).map (fun i => b * 4096 + 64 * i)).find? (fun u => !own u && s.mem.unitPoison (u / 64))
    (s, if r.mismatch.isSome then a.2.1 ++ [b] else a.2.1, a.2.2 <|> out)) (s, [], none)

/-- What a member reads of its own elements: values, whether each is taken from a poisoned unit or a failing block, the first poisoned
unit, and the call with a failure noted. A failing block raises CHECK_MISMATCH once (R271). -/
def State.collOwn (s : State) (p : PartId) (h : Shape) (k : Call) (lo hi : Nat) : State × Call × List Nat × List Bool × Option Nat :=
  let n := hi - lo
  if cdOp k.desc = 6 then (s, k, List.replicate n 0, List.replicate n false, none)
  else
    let key := aKey (cdSrc k.desc) + lo * h.ebytes
    let (s, bad, out) := s.collCheck key (n * h.ebytes)
    let (s, k) := match out with
      | some u => s.collPoison p k (s.faultAddr u)
      | none => (s, k)
    let s := match bad with
      | b :: _ => if k.checkFail then s else s.raise p 0x05 k.step k.core.val (ctxBit k.ctx) (s.faultAddr (b * 4096)).toNat
      | [] => s
    let k := if bad.isEmpty then k else { k with checkFail := true }
    let (s, bs, us) := s.readMem key (n * h.ebytes)
    let pu := (List.range us.length).find? (fun i => us.getD i false)
    let flags := if pu.isNone && bad.isEmpty then List.replicate n false
      else (List.range n).map (fun i =>
        let a := key + i * h.ebytes
        us.getD (a / 64 - key / 64) false || bad.contains (a / 4096))
    (s, k, elemsLe h.ebytes n bs, flags, pu.map (fun i => (key / 64 + i) * 64))

def mapRange (m : SMap W64) (lo hi : Nat) : List Nat := (SMap.range (fun _ => 0) m lo (hi - lo)).map (·.toNat)
def flagRange (m : SMap Bool) (lo hi : Nat) : List Bool := SMap.range (fun _ => false) m lo (hi - lo)
def putVals (m : SMap W64) (lo : Nat) (vs : List Nat) : SMap W64 := SMap.setRange (fun _ => 0) m lo (vs.map (BitVec.ofNat 64))
def putFlags (m : SMap Bool) (lo : Nat) (ps : List Bool) : SMap Bool := SMap.setRange (fun _ => false) m lo ps

/-- The values a stage starts from or adds: SRC, the rack's sums, or the results. -/
def State.collX (s : State) (p : PartId) (h : Shape) (k : Call) (stage lo hi : Nat) : State × Call × List Nat × List Bool × Option Nat :=
  match stage with
  | 0 => s.collOwn p h k lo hi
  | 1 => (s, k, mapRange k.mid lo hi, flagRange k.midPsn lo hi, none)
  | _ => (s, k, mapRange k.res lo hi, flagRange k.resPsn lo hi, none)

/-- Queue a segment of values for hop `hop` of a path (R273, R278). -/
def State.collQueue (s : State) (p : PartId) (k : Call) (q : CPath) (id hop g lo : Nat) (vs : List Nat) (ps : List Bool) : State × Call :=
  let cc := (s.carryCtl p k).inStage q.stage
  let ef := collEf k.desc
  let off := q.groupOff cc lo
  let (w, clips) := wireOf ef cc hop off lo vs
  (s.addD (ckColl p 0x0E) clips,
    { k with outq := k.outq ++ [⟨q.mem hop, id, hop, g, w, wireFlags ef cc off w.length ps, markedElems (spreadFlags cc off ps)⟩] })

/-- The last addition of a segment is done: its sum is the rack's, or the result; a result that is handed on is encoded first under a
carry, and every member takes the decoded value (R273, R276). -/
def State.collFinal (s : State) (p : PartId) (h : Shape) (k : Call) (q : CPath) (id g lo : Nat) (vs : List Nat) (ps : List Bool) :
    State × Call :=
  if h.hier ∧ q.stage = 0 then (s, { k with mid := putVals k.mid lo vs, midPsn := putFlags k.midPsn lo ps })
  else
    let cc := (s.carryCtl p k).inStage q.stage
    let ef := collEf k.desc
    let enc := cc.kind ≠ 0 ∧ (h.hier ∨ h.op ≠ 1)
    let off := q.groupOff cc lo
    let (w, clips) := if enc then wireOf ef cc (q.adds + 1) off lo vs else wireOf ef { cc with kind := 0 } 0 0 lo vs
    let vs := if enc then (wireVals ef cc off vs.length w).map (toEfmt ef) else vs
    let s := s.addD (ckColl p 0x0E) clips
    let cc : CarryCtl := if enc then cc else { cc with kind := 0 }
    let ps := spreadFlags cc off ps
    let k := { k with res := putVals k.res lo vs, resPsn := putFlags k.resPsn lo ps }
    if q.adds < q.hops then
      (s, { k with outq := k.outq ++ [⟨q.mem (q.adds + 1), id, q.adds + 1, g, w, wireFlags ef cc off w.length ps, markedElems ps⟩] })
    else (s, k)

/-! ## Starting stages -/

/-- Start a path at its first member. -/
def State.startPath (s : State) (p : PartId) (h : Shape) (k : Call) (id : Nat) : State × Call :=
  let q := h.path id
  if q.mem 0 ≠ h.me then (s, k)
  else (List.range (h.pathSegs q)).foldl (fun (a : State × Call) g =>
    let (lo, hi) := h.segRange q g
    if h.alg = 0 then
      if q.hops = 0 then a else (a.1, { a.2 with outq := a.2.outq ++ [⟨q.mem 1, id, 1, g, [], [], []⟩] })
    else
      let (s, k, vs, ps, _) := a.1.collX p h a.2 q.stage lo hi
      if q.adds = 0 then
        if q.stage = 2 then (if q.hops = 0 then (s, k) else s.collQueue p k q id 1 g lo vs ps) else s.collFinal p h k q id g lo vs ps
      else s.collQueue p k q id 1 g lo vs ps) (s, k)

def State.startStage (s : State) (p : PartId) (h : Shape) (k : Call) (stage : Nat) : State × Call :=
  (h.ids stage).foldl (fun (a : State × Call) id => a.1.startPath p h a.2 id) (s, { k with begun := stage + 1 })

/-- Receive area of a peer's segment t: two segments per peer in scratch (R269). -/
def collSlot (k : Call) (h : Shape) (peer t : Nat) : W64 :=
  let i := ((List.range h.senders.length).find? (fun i => (h.senders.getD i (0, 0)).1 == peer)).getD 0
  cdScr k.desc + BitVec.ofNat 64 (131072 * (i % 2) + 65536 * (t % 2))

/-- The member's own chunk goes to its DST within the module: ALLGATHER, and ALLTOALL's own (Table 11-3). -/
def State.ownCopy (s : State) (p : PartId) (h : Shape) (k : Call) : State × Chk :=
  let len := h.count * h.ebytes
  let (so, dof) := match h.op with
    | 2 => (0, h.me * len)
    | _ => (h.me * len, h.me * len)
  if h.alg ≠ 0 ∨ h.op = 3 then (s, .ok)
  else
    let m := s.move (Former.engine k.core) p (cdSrc k.desc + BitVec.ofNat 64 so) (cdDst k.desc + BitVec.ofNat 64 dof) len
    (m.st, m.chk)

/-- A call begins: READY to every peer that will send, then its first stage; the READY messages that wait at its mailbox are then read
(R268). -/
def State.beginCall (s : State) (p : PartId) (g : Group) (h : Shape) (k : Call) : State :=
  let (s, c) := s.ownCopy p h k
  if c ≠ .ok then s.endCall p k c.status
  else
    let (s, k) := s.startStage p h k 0
    let s := s.setCall p k
    let s := h.senders.foldl (fun s e =>
      if e.1 = h.me then s
      else s.sendReady p k (g.members.getD e.1 0) (if h.alg = 0 then cdDst k.desc else collSlot k h e.1 0) 0) s
    let mine (m : CollReady) : Bool := m.core == k.core && m.gid == k.gid && m.call == k.call
    let ms := (s.part p).mailbox.filter mine
    ms.foldl (fun s m => (s.takeReady m).1) (s.modPart p (fun q => { q with mailbox := q.mailbox.filter (fun m => !mine m) }))

/-! ## Processing a segment -/

/-- Process one segment that has arrived (R269, R273). -/
def State.processSeg (s : State) (p : PartId) (g : Group) (h : Shape) (k : Call) (t : Nat) (m : CollSegEnd) : State :=
  let q := h.path m.path
  let (lo, hi) := h.segRange q m.seg
  let n := hi - lo
  let k := { k with inq := k.inq.filter (fun e => !(e.1 == t && e.2.peer == m.peer)), nIn := cinc k.nIn q.stage }
  if h.alg = 0 then
    let k := if m.hop < q.hops then { k with outq := k.outq ++ [⟨q.mem (m.hop + 1), m.path, m.hop + 1, m.seg, [], [], []⟩] } else k
    s.setCall p k
  else
    let slot := collSlot k h m.peer t
    let ef := collEf k.desc
    let cc0 := (s.carryCtl p k).inStage q.stage
    let plain := q.adds < m.hop ∧ !h.hier ∧ h.op = 1
    let cc := if plain then { cc0 with kind := 0 } else cc0
    let (s, bs, us) := s.readMem (aKey slot) m.len
    let off := q.groupOff cc lo
    let vs := wireVals ef cc off n bs
    let ps := arrivedFlags ef cc off n us m.psn
    let (s, k) :=
      if m.hop ≤ q.adds then
        let (s, k, xs, xp, pu) := s.collX p h k q.stage lo hi
        let pf := if cc.kind = 0 then efFmt ef else fp32
        let rs := List.zipWith (collOp ef (collRed k.desc) pf) vs xs
        let rp := List.zipWith (· || ·) ps xp
        let (s, k) := match pu with
          | some u => s.collPoison p k (s.faultAddr u)
          | none => if ps.any id then s.collPoison p k (s.faultAddr (aKey slot / 64 * 64 + 64 * (us.takeWhile (!·)).length)) else (s, k)
        if m.hop < q.adds then s.collQueue p k q m.path (m.hop + 1) m.seg lo rs rp else s.collFinal p h k q m.path m.seg lo rs rp
      else
        let rs := if cc.kind = 0 then vs else vs.map (toEfmt ef)
        let k := { k with res := putVals k.res lo rs, resPsn := putFlags k.resPsn lo ps }
        (s, if m.hop < q.hops then { k with outq := k.outq ++ [⟨q.mem (m.hop + 1), m.path, m.hop + 1, m.seg, bs, us, markedElems ps⟩] } else k)
    let s := s.setCall p k
    let total := ((h.senders.find? (fun e => e.1 == m.peer)).map (·.2)).getD 0
    if t + 2 < total then s.sendReady p k (g.members.getD m.peer 0) (collSlot k h m.peer t) (t + 2) else s

/-- The first segment that can be processed: in order from each peer, and only once what it adds to is there. -/
def Call.nextIn (k : Call) (h : Shape) : Option (Nat × CollSegEnd) :=
  k.inq.find? (fun e =>
    decide (e.1 = (k.inq.filter (fun x => x.2.peer == e.2.peer)).foldl (fun a x => Nat.min a x.1) e.1) &&
      decide ((h.path e.2.path).stage = 1 → 2 ≤ k.begun))

/-! ## Sending a segment -/

/-- Source and destination offsets of a moved segment, in bytes. -/
def moveOffs (h : Shape) (id hop lo : Nat) : Nat × Nat :=
  let q := h.path id
  let base := if h.op = 5 then id % 2 ^ 30 * h.count else 0
  (if hop ≤ 1 then (base + (lo - q.lo)) * h.ebytes else lo * h.ebytes, lo * h.ebytes)

/-- Note a refusal of a request of the call (R240). -/
def State.callErr (s : State) (k : Call) (c : Chk) : State :=
  s.modJob k.core k.ctx k.job (fun j => { j with errs := j.errs ++ [if c = .part then 2 else 1] })

/-- The block that a moved segment ends and an earlier segment of its chunk began, where the call moves it whole: its place at the
destination and the header that goes with it (R311). -/
def State.spanHeader (s : State) (h : Shape) (q : CPath) (x : CollSeg) (lo : Nat) (src dst : W64) : List (Nat × W64) :=
  let (_, hi) := h.segRange q x.seg
  let before := (lo - q.lo) * h.ebytes
  let back := aOff src % 4096
  if back ≠ 0 ∧ back = aOff dst % 4096 ∧ back ≤ before ∧ 4096 ≤ back + (hi - lo) * h.ebytes then
    [(aKey dst / 4096, s.mem.header (aKey src / 4096))]
  else []

/-- Send one segment to a peer that has granted it, its packets first, then its segment-end (R269). -/
def State.sendOut (s : State) (p : PartId) (g : Group) (h : Shape) (k : Call) (x : CollSeg) (addr : W64) : State :=
  let q := h.path x.path
  let dest := g.members.getD x.dest 0
  let (lo, hi) := h.segRange q x.seg
  let t := cget k.sent x.dest
  let no := k.sentAll
  let k := { k with outq := k.outq.filter (fun y => !(y.path == x.path && y.hop == x.hop && y.seg == x.seg)), sent := cinc k.sent x.dest,
                    nOut := cinc k.nOut q.stage }
  let pad := (16 - x.data.length % 16) % 16
  let wire := x.data ++ List.replicate pad 0
  let len := if h.alg = 0 then (hi - lo) * h.ebytes else x.data.length
  let m : CollSegEnd := ⟨p, coreOf (memberUnit dest), k.gid, k.me, k.call, x.path, x.hop, x.seg, len, x.elems⟩
  let (so, dof) := moveOffs h x.path x.hop lo
  let src := (if x.hop ≤ 1 then cdSrc k.desc else cdDst k.desc) + BitVec.ofNat 64 so
  let dst := if h.alg = 0 then addr + BitVec.ofNat 64 dof else addr + BitVec.ofNat 64 (65536 * (t % 2))
  let s := s.setCall p k
  if memberDev dest = s.ownDev then
    if h.alg = 0 then
      let r := s.move (Former.engine k.core) p src dst len
      let t := match r.st.spanHeader h q x lo src dst with
        | e :: _ => { r.st with mem := r.st.mem.setHeader e.1 e.2 }
        | [] => r.st
      if r.chk ≠ .ok then r.st.callErr k r.chk else t.takeSegEnd m
    else match s.check p dst wire.length with
      | .ok => (s.writeMerge (Former.engine k.core) (aKey dst) wire x.psn).takeSegEnd m
      | c => (s.refuse c).callErr k c
  else
    let full := (memberDev dest).zeroExtend 64 <<< (48 : Nat) ||| (dst &&& 0xFFFFFFFFFFFF)
    let (s, c, ps) := if h.alg = 0 then s.putPackets p 1 false src full len else (s, .ok, s.bytePackets p full wire x.psn)
    let ps := if h.alg = 0 then ps ++ (s.spanHeader h q x lo src full).map (fun e =>
        (s.reqPkt p 0x01 1 0 0xFE false (full - BitVec.ofNat 64 (aOff full % 4096)) [e.2.zeroExtend 128], Sink.ack)) else ps
    let pl := s.segPlan p no (h.ringPos q.stage)
    let s := s.sendSeg k pl ps
    if c ≠ .ok then s.callErr k c else s.sendMail p k pl dest (segEndWords m) .ack (fun tag => .seg (memberDev dest) tag m)

/-- The first segment that may leave: in order to each peer, granted, and with TAGs free. -/
def State.nextOut (s : State) (k : Call) : Option (CollSeg × W64) :=
  k.outq.findSome? (fun x =>
    match k.ready.find? (fun r => r.1 == x.dest) with
    | some r =>
      if cget k.sent x.dest < r.2.2 ∧ s.engineOut k.core + 300 ≤ 4096 ∧
          (k.outq.find? (fun y => y.dest == x.dest)).map (fun y => (y.path, y.hop, y.seg)) = some (x.path, x.hop, x.seg) then some (x, r.2.1)
      else none
    | none => none)

/-! ## Switch reduction (R275, R281) -/

/-- Handle of a group on a plane of the own rack. -/
def Group.handle (g : Group) (rack plane : Nat) : W16 :=
  ((g.handles.find? (fun e => e.1 == rack && e.2.1 == plane)).map (·.2.2)).getD 0

/-- ADDR of RED and REDR. -/
def redAddr (handle : W16) (last rop ef off : Nat) : W64 :=
  BitVec.ofNat 64 (handle.toNat * 2 ^ 48 + last % 64 * 2 ^ 42 + rop % 4 * 2 ^ 40 + ef % 8 * 2 ^ 37 + off % 2 ^ 32)

/-- The plane of segment s under switch reduce, the same at every member. -/
def State.redPlane (s : State) (p : PartId) (g : Nat) : Nat :=
  match s.planOf p with
  | some pl => pl.planes.getD (g % Nat.max 1 pl.planes.length) 0
  | none => 0

/-- Send the contribution to the next segment as RED packets. -/
def State.sendRed (s : State) (p : PartId) (g : Group) (h : Shape) (k : Call) : State :=
  let n := k.redNext
  let lo := n * h.segElems
  let hi := Nat.min h.total (lo + h.segElems)
  let (s, k, vs, ps, _) := s.collOwn p h k lo hi
  let ef := collEf k.desc
  let cc : CarryCtl := { s.carryCtl p k with kind := 0 }
  let (w, _) := wireOf ef cc 0 0 lo vs
  let us := wireFlags ef cc 0 w.length ps
  let wire := w ++ List.replicate ((16 - w.length % 16) % 16) 0
  let plane := s.redPlane p n
  let hd := g.handle (rackOf s.ownDev) plane
  let s := s.setCall p { k with redNext := n + 1, red := k.red ++ [⟨n, w.length, false⟩] }
  (piecesOf (maxPkt (s.pver p)) 0 wire.length).foldl (fun s e =>
    let bs := (wire.drop e.1).take e.2
    let psn := mkPsn (s.pver p) e.2 ((us.drop (e.1 / 64)).take ((e.2 + 63) / 64))
    let hdr := mkHdr s.ownDev (BitVec.ofNat 12 s.nextTag) psn (e.2 / 16 - 1) 0x08 1 0 p false
      (redAddr hd 0 (collRed k.desc) ef (n % 2 * 65536 + e.1))
    ({ s with nextTag := (s.nextTag + 1) % 4096 }).toPort (portN plane) ⟨hdr, unitsOfBytes bs, none⟩) s

def Call.redReady (k : Call) (h : Shape) : Bool :=
  decide (k.redNext < h.redSegs) && k.red.all (fun r => decide (k.redNext < r.seg + 2))

/-- Stage 0 of a call is done: every segment in, every reduction back. -/
def Call.stageDone (k : Call) (h : Shape) (st : Nat) : Bool :=
  decide (cget k.nIn st = h.inCount st) && (st != 0 || (decide (k.redNext = h.redSegs) && k.red.isEmpty))

/-! ## Completion -/

/-- Elements that DST receives (Table 11-3). -/
def Shape.output (h : Shape) : Nat × Nat :=
  match h.op with
  | 0 => (0, h.total)
  | 1 => (h.me * h.count, (h.me + 1) * h.count)
  | 4 => if h.me = h.root then (0, h.total) else (0, 0)
  | _ => (0, 0)

/-- Bytes of DST that a move fills. -/
def Shape.moved (h : Shape) : Nat :=
  match h.op with
  | 3 => if h.me = h.root then 0 else h.count * h.ebytes
  | _ => h.n * h.count * h.ebytes

/-- The version pair of one arrived shard (R193). -/
def State.shardCheck (s : State) (p : PartId) (h : Shape) (k : Call) (j : Nat) : State :=
  let hd := s.mem.word (aKey (cdDst k.desc) + j * h.count) 16
  let ver := hd % 2 ^ 32
  let nver := hd / 2 ^ 32 % 2 ^ 32
  let step := k.step.toNat % 2 ^ 32
  let rec' := aKey (cdVrec k.desc) + 16 * j
  let bad (v n : Nat) : Bool := decide (v + n ≠ 2 ^ 32 - 1)
  let compl (s : State) : State := s.raise p 0x04 k.step k.core.val (ctxBit k.ctx) 0x06
  if cdShk k.desc = 1 then
    let s := if bad ver nver then compl s else s
    s.writeMerge (Former.engine k.core) rec' (leBytes 4 ver ++ leBytes 4 nver ++ leBytes 4 step ++ leBytes 4 (2 ^ 32 - 1 - step)) []
  else
    let r := s.mem.word rec' 16
    let rv := r % 2 ^ 32
    let rs := r / 2 ^ 64 % 2 ^ 32
    let s := if bad ver nver ∨ bad rv (r / 2 ^ 32 % 2 ^ 32) ∨ bad rs (r / 2 ^ 96 % 2 ^ 32) then compl s else s
    if ver ≠ rv ∨ rs ≠ step then
      (s.incD (dkp p 0x2450 7)).raise p 0x02 k.step k.core.val (ctxBit k.ctx) (hd / 2 ^ 64 % 2 ^ 32 * 2 ^ 32 + j % 65536)
    else s

/-- A call has every segment and every acknowledgement: results are written, and its command completes (R270, R271). -/
def State.completeCall (s : State) (p : PartId) (h : Shape) (k : Call) : State :=
  let s := match k.lastLate with
    | some m => s.modPart p (fun q => { q with late := lateAdd q.late k.gid m 0 1 })
    | none => s
  let bad := if k.checkFail then stCheck else stPoison
  if h.alg = 0 then
    let s := if cdShk k.desc = 0 then s else (List.range h.n).foldl (fun s j => s.shardCheck p h k j) s
    let dirty := decide (h.moved ≠ 0) && (unitsOf (aKey (cdDst k.desc)) h.moved).any s.mem.unitPoison
    s.endCall p k (if dirty then bad else stOk)
  else
    let (lo, hi) := h.output
    if hi ≤ lo then s.endCall p k stOk
    else
      let l := (mapRange k.res lo hi).flatMap (leBytes h.ebytes)
      let ps := flagRange k.resPsn lo hi
      let us := wireFlags (collEf k.desc) { s.carryCtl p k with kind := 0 } 0 l.length ps
      match s.check p (cdDst k.desc) l.length with
      | .ok => (s.writeFresh (Former.engine k.core) (aKey (cdDst k.desc)) l us).endCall p k (if ps.any id then bad else stOk)
      | c => (s.refuse c).endCall p k c.status

def Call.allDone (k : Call) (h : Shape) : Bool :=
  decide (k.begun = h.stages) && (List.range h.stages).all (fun st => k.stageDone h st && decide (cget k.nOut st = h.outCount st))

/-! ## Running calls -/

/-- One thing that a call can do now. -/
def State.callStep (s : State) (p : PartId) (k : Call) : Option State :=
  match s.groupOf p k.gid, s.job k.core k.ctx k.job with
  | some g, some j =>
    let h := g.shape k.me k.desc
    if !g.intact then some (s.groupFault p k)
    else if !j.errs.isEmpty ∨ j.timedOut then
      if j.outst = 0 then
        let s := if j.errs.contains 2 ∧ j.reqStatus ≠ stPart then s.partFault k.core k.ctx k.step else s
        some (s.endCall p k j.reqStatus)
      else none
    else if k.begun = 0 then some (s.beginCall p g h k)
    else match k.nextIn h with
      | some (t, m) => some (s.processSeg p g h k t m)
      | none =>
        if k.begun < h.stages ∧ k.stageDone h (k.begun - 1) then
          let (s, k) := s.startStage p h k k.begun
          some (s.setCall p k)
        else if k.redReady h then some (s.sendRed p g h k)
        else match s.nextOut k with
          | some (x, a) => some (s.sendOut p g h k x a)
          | none => if k.allDone h ∧ j.outst = 0 then some (s.completeCall p h k) else none
  | _, _ => none

/-- Calls that run: the current one of each group and member. -/
def Part.running (q : Part) : List Call :=
  q.calls.filter (fun k => match q.current k.core k.gid with
    | some c => c.same k
    | none => false)

/-- The calls that run, those of primary contexts before those of filler contexts (R270). -/
def State.runningCalls (s : State) : List (PartId × Call) :=
  let l := allParts.flatMap (fun p => (s.part p).running.map (fun k => (p, k)))
  l.filter (fun e => e.2.ctx == .primary) ++ l.filter (fun e => e.2.ctx == .filler)

/-- Each call does one thing at a time, a segment at most, and the order of the calls is looked at again after it. -/
def collGo : Nat → State → State
  | 0, s => s
  | n + 1, s =>
    match s.runningCalls.findSome? (fun e => s.callStep e.1 e.2) with
    | some s' => collGo n s'
    | none => s

/-- Bound on what the calls of a partition can still do. -/
def State.collWork (s : State) (p : PartId) : Nat :=
  (s.part p).calls.foldl (fun a k => match s.groupOf p k.gid with
    | some g =>
      let h := g.shape k.me k.desc
      a + 8 + h.redSegs + (List.range h.stages).foldl (fun b st => b + h.inCount st + h.outCount st) 0
    | none => a) 0

/-- Let every call go as far as it can. -/
def State.collPump (s : State) : State := collGo (allParts.foldl (fun a p => a + s.collWork p) 0) s

/-! ## COLL (R265, R267) -/

/-- A buffer in the own module's SPACE 0x0 or 0x1, 64-byte aligned. -/
def State.collBuf (s : State) (a : W64) (len : Nat) : Bool := decide (len = 0) || (s.ownMem a len && decide (aOff a % 64 = 0))

/-- Buffers of a call with their lengths: SRC, DST, SCR, VREC. -/
def collBufs (n : Nat) (d : BitVec 512) : List (W64 × Nat) :=
  let cb := cdCount d * efBytes (cdEfmt d)
  let src := match cdOp d with
    | 1 => n * cb
    | 5 => n * cb
    | 6 => 0
    | _ => cb
  let dst := match cdOp d with
    | 2 => n * cb
    | 5 => n * cb
    | 6 => 0
    | _ => cb
  [(cdSrc d, src), (cdDst d, dst), (cdScr d, if cdReducing d then 262144 else 0), (cdVrec d, if cdShk d = 0 then 0 else 16 * n)]

/-- Refusals of R267; `n` is the number of members when the issuer is one. -/
def State.collBad (s : State) (n : Option Nat) (d : BitVec 512) : Bool :=
  match n with
  | none => true
  | some n =>
    decide (7 ≤ cdOp d ∨ cdRed d = 3 ∨ 5 ≤ cdEfmt d ∨ cdCarry d = 3 ∨ cdCgsz d = 3 ∨ cdShk d = 3 ∨
      cdCount d = 0) ||
    !((collBufs n d).all (fun b => s.collBuf b.1 b.2)) ||
    (cdReducing d && (cdEfmt d == 4 || (cdEfmt d == 3 && cdCarry d != 0))) ||
    (cdCarry d != 0 && (cdRed d != 0 || !cdReducing d)) ||
    (cdShk d != 0 && (cdOp d != 2 || cdEfmt d != 4 || decide (cdCount d < 64))) ||
    ((cdOp d == 3 || cdOp d == 4) && decide (n ≤ cdRoot d))

/-- The member index of a core in an installed group. -/
def State.memberOf (s : State) (p : PartId) (gid : W16) (c : CoreId) : Option (Nat × Nat) :=
  if s.dN (ckColl p 3) ≠ 2 then none
  else match s.groupOf p gid with
    | none => none
    | some g => ((List.range g.members.length).find? (fun j => g.members.getD j 0 == coreMember s.ownDev c)).map (fun j => (j, g.members.length))

/-- The ranges a call reads and writes, as its operation uses them: first refusal under the partition's ID (R19). -/
def State.collAccess (s : State) (p : PartId) (me n : Nat) (d : BitVec 512) : Chk :=
  let use : List (W64 × Nat) := match collBufs n d with
    | [a, b, c, v] =>
      [if cdOp d = 3 ∧ me ≠ cdRoot d then (a.1, 0) else a,
       if (cdOp d = 3 ∧ me = cdRoot d) ∨ (cdOp d = 4 ∧ me ≠ cdRoot d) then (b.1, 0) else b, c, v]
    | l => l
  use.foldl (fun k b => if k ≠ .ok ∨ b.2 = 0 then k else s.check p b.1 b.2) .ok

/-- A call is accepted (R268, R270). -/
def State.acceptCall (s : State) (i : Issued) (p : PartId) (me : Nat) (d : BitVec 512) : State :=
  let gid := cdGid d
  let no := (s.part p).nextCall i.core gid
  let s := s.modPart p (fun q => { q with callNo := SMap.set (fun _ => 0) q.callNo (callKey i.core gid) (no + 1) })
  if (s.part p).failed.contains (i.core, gid) then s.work i stColl
  else
    let early := ((s.part p).mailbox.filter (fun m => m.core == i.core && m.gid == gid && m.call == no)).map (fun m => m.peer)
    let k : Call := ⟨i.core, i.ctx, i.id, gid, me, no, d, i.step, s.now, 0, [], early, none, [], [], [], [], [], [], [], 0, [], [], [], [],
      false, false⟩
    (s.modPart p (fun q => { q with calls := q.calls ++ [k] })).collPump

/-- Reserved-bit events of a COLL descriptor: its reserved bits, and a CRND that its carry format does not accept, which executes as RNE
(R5, R30). -/
def cdEvents (d : BitVec 512) : Nat :=
  b2n (decide (fldN d 0 109 ≠ 0)) + b2n ((cdCarry d == 2 && (rndShort (cdCrnd d)).2) || (cdCarry d == 1 && (rndIeee (cdCrnd d)).2))

/-- The group that a COLL names does not match its complements (R325 kind 0x04). -/
def State.badGroup (s : State) (p : PartId) (gid : W16) : Bool :=
  match s.groupOf p gid with
  | some g => !g.intact
  | none => false

/-- Work of a COLL. -/
def State.collCmd (i : Issued) (s : State) : State :=
  let d : BitVec 512 := BitVec.ofNat 512 (s.coreWord i.core i.doff 64)
  let p := s.partD i.core i.ctx
  let s := s.modCtx i.core i.ctx (fun k => { k with rsvcnt := k.rsvcnt + BitVec.ofNat 32 (cdEvents d) })
  let m := s.memberOf p (cdGid d) i.core
  if s.badGroup p (cdGid d) then
    (((s.raise p 0x04 i.step i.core.val (ctxBit i.ctx) 4).raise p 0x0B i.step i.core.val (ctxBit i.ctx) 6)).work i stColl
  else if s.collBad (m.map (·.2)) d then s.work i stDesc
  else match m with
    | none => s.work i stDesc
    | some (me, n) =>
      match s.collAccess p me n d with
      | .ok => s.acceptCall i p me d
      | c => (s.refuse c).workChk i c.status

/-- COLL (R265). -/
def execColl (sl : Slot) (w : W256) (s : State) : Host.Outcome State Fault Refusal :=
  s.dispatch sl w 0x15 (withDesc 0x15 State.collCmd)

/-! ## Events -/

/-- A mailbox message arrives for a member of this module, in a WR on TC-COL (R268). -/
def State.mailFor (_ : State) (p : Packet) (part : PartId) (core : CoreId) : Bool :=
  isMail p && pPart p.hdr == part && coreOf (aOff (pAddr p.hdr) / 2 ^ 22) == core

/-- READY (R268): acknowledged, or answered with status 4 when the mailbox has no room. -/
def execReady (m : Packet × CollReady) (s : State) : Host.Outcome State Fault Refusal :=
  s.arrive m.1 (s.mailFor m.1 m.2.part m.2.core) (fun s =>
    let (s, full) := s.takeReady m.2
    ((s.respond m.1 0x04 (if full then 4 else 0) 0 []).collPump).settle)

/-- READY_RETRY (R268): a READY that found no room is sent again. -/
def execReadyRetry (m : CollReady) (s : State) : Host.Outcome State Fault Refusal :=
  match (s.part m.part).retries.find? (fun r => r.2 == m) with
  | none => .next s
  | some r =>
    let s := s.modPart m.part (fun q => { q with retries := q.retries.erase r })
    match (s.part m.part).calls.find? (fun k => k.gid == m.gid && k.me == m.peer && k.call == m.call) with
    | none => .next s
    | some k =>
      let s := s.incD (ckColl m.part 0x0F)
      if r.1 = s.ownDev then
        let (s, full) := s.takeReady m
        let s := if full then s.modPart m.part (fun q => { q with retries := q.retries ++ [r] }) else s
        .next s.collPump.settle
      else
        .next (s.sendMail m.part k (s.planOf m.part) (r.1 ++ BitVec.ofNat 16 m.core.val) (readyWords m) (.collReady r.1 m) (fun t => .coll r.1 t m))

/-- SEGMENT_END (R269). -/
def execSegmentEnd (m : Packet × CollSegEnd) (s : State) : Host.Outcome State Fault Refusal :=
  s.arrive m.1 (s.mailFor m.1 m.2.part m.2.core) (fun s => (((s.takeSegEnd m.2).sendAck m.1).collPump).settle)

/-- Where a call receives: its scratch area, or its destination (R268). -/
def Call.area (k : Call) (h : Shape) : Nat × Nat := if h.alg = 0 then (aKey (cdDst k.desc), h.moved) else (aKey (cdScr k.desc), 262144)

/-- A place where the segments of a peer of the call arrive. -/
def Call.takesFrom (k : Call) (h : Shape) (peer a : Nat) : Bool :=
  if h.alg = 0 then decide ((k.area h).1 ≤ a ∧ a < (k.area h).1 + (k.area h).2)
  else decide (aKey (collSlot k h peer 0) ≤ a ∧ a < aKey (collSlot k h peer 0) + 131072)

/-- The first data of a peer count as heard, as its first READY does (R285). A packet does not name the member that sent it: of a module's
members, it is the first one awaited there (DEDUCED, log 92). -/
def State.hearData (s : State) (p : Packet) : State :=
  let part := pPart p.hdr
  if pTc p.hdr ≠ 1 then s
  else (s.part part).running.foldl (fun s k =>
    match s.groupOf part k.gid with
    | none => s
    | some g =>
      let h := g.shape k.me k.desc
      match h.senders.find? (fun e => memberDev (g.members.getD e.1 0) == pSrc p.hdr && !k.heard.contains e.1 &&
          k.takesFrom h e.1 (aKey (pAddr p.hdr))) with
      | some e => let (s, k) := s.hear part k e.1; s.setCall part k
      | none => s) s

/-- Data for a call that has timed out (R286): they go to its receive area, which no running call has. -/
def State.lateData (s : State) (p : Packet) : Bool :=
  let q := s.part (pPart p.hdr)
  let a := aKey (pAddr p.hdr)
  pTc p.hdr == 1 && q.lost.any (fun r => decide (r.1 ≤ a ∧ a < r.1 + r.2)) &&
    !(q.running.any (fun k => match s.groupOf (pPart p.hdr) k.gid with
      | some g => let r := k.area (g.shape k.me k.desc); decide (r.1 ≤ a ∧ a < r.1 + r.2)
      | none => false))

/-- WR (R239). On TC-COL it carries data of a collective call. -/
def execWr (p : Packet) (s : State) : Host.Outcome State Fault Refusal :=
  s.arrive p (pOpc p.hdr == 0x01 && !isHeader p && !isMail p) (fun s =>
    if s.lateData p then (s.incD (ckColl (pPart p.hdr) 0x0B)).sendAck p else (s.hearData p).takeWrite p)

/-- The lowest-indexed peer still awaited by a call. -/
def Call.awaits (k : Call) (h : Shape) : Nat :=
  let more := (h.senders.filter (fun e => decide (cget k.recv e.1 < e.2))).map (·.1)
  let unready := h.receivers.filter (fun m => !(k.ready.any (fun r => r.1 == m)))
  let rest := h.awaited.filter (fun m => !k.heard.contains m)
  match (more ++ unready ++ rest).filter (· ≠ h.me) with
  | [] => 0
  | a :: t => t.foldl Nat.min a

/-- A call times out (R286): faults, then status 0x09 for it and for every later call of its group at the member. -/
def State.callTimeout (s : State) (p : PartId) (k : Call) : State :=
  let peer := match s.groupOf p k.gid with
    | some g => k.awaits (g.shape k.me k.desc)
    | none => 0
  let s := s.raise p 0x09 k.step k.core.val (ctxBit k.ctx) (k.gid.toNat * 2 ^ 32 + peer)
  let s := s.raise p 0x0B k.step k.core.val (ctxBit k.ctx) 3
  let areas := match s.groupOf p k.gid with
    | some g => ((s.part p).calls.filter (fun c => c.is k.core k.gid)).map (fun c => c.area (g.shape c.me c.desc))
    | none => []
  let s := s.modPart p (fun q => { q with failed := q.failed ++ [(k.core, k.gid)], lost := q.lost ++ areas })
  ((s.part p).calls.filter (fun c => c.is k.core k.gid)).foldl (fun s c => s.endCall p c stColl) s

/-- COLL_TIMEOUT (R286). -/
def execCollTimeout (core : CoreId) (ctx : CtxId) (gid : W16) (s : State) : Host.Outcome State Fault Refusal :=
  let p := s.partD core ctx
  match (s.part p).calls.find? (fun k => k.is core gid && k.ctx == ctx) with
  | none => .next s
  | some k => .next (s.callTimeout p k).collPump.settle

/-- The call to which a REDR belongs: group by its handle, segment by its offset. -/
def State.redCall (s : State) (p : PartId) (plane : Nat) (a : W64) : Option (Group × Call × RedSeg) :=
  let hd := fld a 48 16
  match (s.part p).groups.find? (fun g => g.handles.any (fun e => e.1 == rackOf s.ownDev && e.2.1 == plane && e.2.2 == hd)) with
  | none => none
  | some g => (s.part p).running.findSome? (fun k =>
      if k.gid ≠ g.gid then none
      else (k.red.find? (fun r => decide (r.seg % 2 = fldN a 16 1 ∧ s.redPlane p r.seg = plane))).map (fun r => (g, k, r)))

/-- A REDR arrives (R275, R281, R285). -/
def State.takeRedr (s : State) (p : Packet) : State :=
  let part := pPart p.hdr
  let a := pAddr p.hdr
  let plane := match p.port with
    | some n => n.val
    | none => 0
  match s.redCall part plane a with
  | none => if (s.part part).failed.isEmpty then s else s.incD (ckColl part 0x0B)
  | some (g, k, r) =>
    let h := g.shape k.me k.desc
    let off := fldN a 0 16
    let l := (bytesOfUnits p.data).take r.left
    let lo := r.seg * h.segElems + off / h.ebytes
    let vs := elemsLe h.ebytes (l.length / h.ebytes) l
    let us := psnUnits (s.pver part) (16 * p.data.length) (pPsn p.hdr)
    let ps := elemFlags (collEf k.desc) { s.carryCtl part k with kind := 0 } 0 vs.length us
    let late (s : State) (k : Call) : State × Call :=
      if r.first then (s, k)
      else
        let m := ((List.range g.members.length).find? (fun j =>
          rackOf (memberDev (g.members.getD j 0)) == rackOf s.ownDev && slotOf (memberDev (g.members.getD j 0)) == fldN a 42 6)).getD 0
        (s.modPart part (fun q => { q with late := lateAdd q.late k.gid m (s.now - k.start) 0 }), { k with lastLate := some m })
    let (s, k) := late s k
    let left := r.left - l.length
    let red := if left = 0 then k.red.filter (fun x => x.seg ≠ r.seg)
      else k.red.map (fun x => if x.seg = r.seg then { x with left := left, first := true } else x)
    let k := { k with red := red }
    let k := if h.hier then { k with mid := putVals k.mid lo vs, midPsn := putFlags k.midPsn lo ps }
      else { k with res := putVals k.res lo vs, resPsn := putFlags k.resPsn lo ps }
    s.setCall part k

/-- REDR (R281). Its ADDR names no device: it is for the module it reaches. -/
def execRedr (p : Packet) (s : State) : Host.Outcome State Fault Refusal :=
  if s.ownDev = 0xFFFF then .next s
  else if !hchkOk p.hdr then .next ((s.freeBuffer p).incD (dk 0x2300 5))
  else if pOpc p.hdr ≠ 0x09 then .next s
  else .next ((s.freeBuffer p).takeRedr p).collPump.settle

end Sys2Proof.Machine
end

