-- ==== Sys2Proof/Machine/Plan.lean ====
section
/-!
DEFINITION. Neighbour plans (R257 to R259, Table 10-9), the roles of trained ports (R249, R258), group tables (R262 to R264), switch
reservations (R280, R282), the choice of algorithms (R272) and the plan report (R283).
-/
namespace Sys2Proof.Machine

def ckPlan (p : PartId) (sub : Nat) : Nat := dkx 0x2330 p sub
def ckPort (n : Nat) (sub : Nat) : Nat := dk (0x2301 + n) sub

/-! ## Port records and the checks of a plan (R257, R258) -/

def prUse (r : W32) : Bool := bitAt r 6
def prOpt (r : W32) : Bool := bitAt r 7
def prPort (r : W32) : Nat := fldN r 8 4
def prRole (r : W32) : Nat := fldN r 12 4
def prId (r : W32) : Nat := fldN r 16 16

/-- Ports that a plan marks USE. -/
def planUses (pl : List Byte) : List Nat := (List.range 10).filter (fun n => prUse (planPort pl n))

/-- Check 1: a reserved encoding or a field outside its range. Reserved fields are ignored (R5). -/
def planFields (pl : List Byte) : Bool :=
  let nax := planNax pl
  let used := if planKind pl = 1 then nax else 1
  let axes := (List.range used).all (fun a => decide (planLo pl a ≤ planHi pl a) &&
    (planKind pl != 1 || (decide (planSize pl a ≠ 0) && decide (planHi pl a < planSize pl a))))
  let lists := (List.range 6).all (fun k =>
    let l := (pl.drop (96 + 192 * k)).take 192
    let cnt := ofLe (l.take 2)
    decide (cnt ≤ 64) && (List.range (Nat.min cnt 64)).all (fun i => ofLe ((l.drop (2 + 2 * i)).take 2) &&& 0xFEC0 == 0))
  decide (planId pl ≠ 0 ∧ planPlanes pl ≠ 0 ∧ 1 ≤ planPver pl ∧ planPver pl ≤ 3 ∧ planKind pl ≤ 2) &&
    (planKind pl != 1 || decide (1 ≤ nax ∧ nax ≤ 3 ∧ planFld pl 192 4 < 2 ^ nax)) &&
    (planKind pl != 2 || decide (2 ≤ planTreeK pl ∧ planTreeK pl ≤ 5)) && (planKind pl == 0 || axes) && lists &&
    (List.range 10).all (fun n => let r := planPort pl n; decide (prRole r ≤ 2 ∧ prPort r ≤ 9))

/-- Check 2: a wrap only where the slice spans the axis. -/
def planWraps (pl : List Byte) : Bool :=
  planKind pl != 1 || (List.range (planNax pl)).all (fun a =>
    !planWrap pl a || (planLo pl a == 0 && planHi pl a + 1 == planSize pl a))

/-- Directions that the slice needs from a rack. -/
def planDirs (pl : List Byte) (rack : Nat) : List Nat :=
  if planKind pl = 0 then []
  else (((List.range 768).filter (fun r => inSlice pl r && r != rack)).filterMap (fun r => (nextDir pl rack rack r).map (·.1))).eraseDups

/-- Check 3: every direction needed has a gateway. -/
def planGateways (pl : List Byte) (rack : Nat) : Bool := (planDirs pl rack).all (fun d => !(planGates pl d).isEmpty)

/-! ## Ports under plans (Table 10-9) -/

/-- A port has trained with a neighbour. -/
def State.portTrained (s : State) (n : Nat) : Bool := s.dN (ckPort n 1) == 2 || s.dN (ckPort n 1) == 3

/-- The switch's REACH shows the own slot and every slot the gateway lists name. -/
def State.reachOk (s : State) (pl : List Byte) (n : Nat) : Bool :=
  let m := (s.portSt (portN n)).reach
  bitAt m (slotOf s.ownDev) && (List.range 6).all (fun d => planKind pl == 0 || (planGates pl d).all (fun g => bitAt m g.1))

/-- A port has the neighbour its record expects. -/
def State.portMatch (s : State) (pl : List Byte) (n : Nat) : Bool :=
  let r := planPort pl n
  s.portTrained n && s.dN (ckPort n 3) == prId r && s.dN (ckPort n 4) == 16 * prRole r + prPort r && (decide (8 ≤ n) || s.reachOk pl n)

/-- Partitions whose accepted plan uses a port. -/
def State.portUsers (s : State) (n : Nat) : List PartId :=
  allParts.filter (fun p => s.dN (ckPlan p 3) == 2 && bitAt (s.d (ckPlan p 5)) n)

/-- A trained port is active when an accepted plan uses it, or none is accepted; else it is extra. OWNER of a G port is the partition
whose plan uses it (R249). -/
def State.portRoles (s : State) : State :=
  let any := allParts.any (fun p => s.dN (ckPlan p 3) == 2)
  (List.range 10).foldl (fun s n =>
    let u := s.portUsers n
    let s := if s.portTrained n then s.setDN (ckPort n 1) (if u.isEmpty && any then 3 else 2) else s
    if 8 ≤ n then s.setDN (ckPort n 9) (match u with
      | p :: _ => p.val
      | [] => 0xFF) else s) s

def State.planRefuse (s : State) (p : PartId) (cause : Nat) : State :=
  let s := ((s.setDN (ckPlan p 3) 3).setDN (ckPlan p 8) cause).portRoles
  if cause = 5 ∨ cause = 7 then s.raiseMgmt p 0x0A cause else s

def bitSet (l : List Nat) : Nat := l.foldl (fun a n => a + 2 ^ n) 0

/-- Decide a plan that passed checks 1 to 3: `final` says that its 500 ms are over (R258). -/
def State.planDecide (s : State) (p : PartId) (final : Bool) : State :=
  if s.dN (ckPlan p 3) ≠ 1 then s
  else
    let pl := (s.part p).plan
    let use := planUses pl
    let taken := use.any (fun n => decide (8 ≤ n) && (s.portUsers n).any (· != p))
    let ok := use.filter (s.portMatch pl)
    if taken then s.planRefuse p 4
    else if ok.any (fun n => decide (s.dN (ckPort n 2) < planPver pl)) then s.planRefuse p 5
    else if use.any (fun n => !ok.contains n && !prOpt (planPort pl n)) then (if final then s.planRefuse p 7 else s)
    else
      let planes := (planesOf (planPlanes pl)).filter (fun n => !(use.contains n) || ok.contains n)
      let s := (((s.setDN (ckPlan p 4) (planId pl)).setDN (ckPlan p 5) (bitSet ok)).setDN (ckPlan p 6) (bitSet planes)).setDN (ckPlan p 7) (planPver pl)
      (s.setDN (ckPlan p 3) 2).portRoles

/-- PLAN_LOAD (R258, R259). -/
def State.planLoad (s : State) (p : PartId) : State :=
  if s.anyEnabled p then s.setDN (ckPlan p 8) 6
  else
    let a := s.d (ckPlan p 1)
    let s := (s.setDN (ckPlan p 3) 1).portRoles
    if !(s.ownMem a 1280 && decide (aSpace a = 0) && decide (aOff a % 64 = 0)) then s.planRefuse p 1
    else match s.check p a 1280 with
      | .ok =>
        let (s, l, _) := s.readMem (aKey a) 1280
        let s := s.modPart p (fun q => { q with plan := l })
        if !planFields l then s.planRefuse p 1
        else if !planWraps l then s.planRefuse p 2
        else if !planGateways l (rackOf s.ownDev) then s.planRefuse p 3
        else s.planDecide p false
      | c => (s.mgmtRefuse p c).planRefuse p 1

/-! ## Group tables (R262 to R264) -/

/-- What parsing a table finds: its groups, and the causes met. -/
structure Parsed where
  groups : List Group
  causes : List Nat
  deriving DecidableEq, Repr

/-- A member entry of a table, its reserved bits ignored (R5, R262), and the causes it breaks. A core ID that this module does not offer is
outside the range (R9, R330). -/
def State.parseMember (s : State) (gid : W16) (w : W64) : W32 × List Nat :=
  let v : W32 := fld w 0 32
  let m := v &&& 0xFFFFC0FF
  let vote := gid = 0xFFFF
  (m, (if fld w 32 32 ≠ ~~~v then [2] else []) ++
    (if memberKind m = 1 ∨ memberKind m = 3 ∨ (memberKind m = 2 ∧ memberUnit m ≠ 0) ∨ 0xC000 ≤ (memberDev m).toNat ∨
        (memberKind m = 2 ∧ !vote) ∨ (memberKind m = 0 ∧ memberDev m = s.ownDev ∧ !s.offered (coreOf (memberUnit m))) then [1] else []) ++
    (if vote ∧ memberKind m ≠ 2 then [4] else []))

/-- Read a piece of a table under the partition's ID. -/
def State.tableRead (s : State) (p : PartId) (a : W64) (off len : Nat) : State × Option (List Byte) :=
  let b := a + BitVec.ofNat 64 off
  if aSpace b ≠ 0 then (s, none)
  else match s.check p b len with
    | .ok => let (s, l, _) := s.readMem (aKey b) len; (s, some l)
    | c => (s.mgmtRefuse p c, none)

/-- One directory entry with its members. -/
def State.parseGroup (s : State) (p : PartId) (a : W64) (l : List Byte) : State × Parsed :=
  let w : BitVec 256 := BitVec.ofNat 256 (ofLe l)
  let v : W128 := fld w 0 128
  let gid : W16 := fld v 112 16
  let force : BitVec 3 := fld v 109 3
  let n := fldN v 64 32
  let list := fldN v 0 64
  let range := if 4 < force.toNat ∨ n = 0 ∨ 16777215 < n ∨ list % 8 ≠ 0 then [1] else []
  let causes := range ++ (if fld w 128 128 ≠ ~~~v then [2] else [])
  if !causes.isEmpty then (s, ⟨[], causes⟩)
  else match s.tableRead p a list (8 * n) with
    | (s, none) => (s, ⟨[], [1]⟩)
    | (s, some bs) =>
      let ms := (elemsLe 8 n bs).map (fun x => s.parseMember gid (BitVec.ofNat 64 x))
      let mem := ms.map (·.1)
      let vote := gid = 0xFFFF ∧ !(mem.any (fun m => memberDev m == s.ownDev))
      (s, ⟨[Group.ofTable gid force list mem],
        ms.flatMap (·.2) ++ (if mem.eraseDups.length < mem.length then [3] else []) ++ (if vote then [4] else [])⟩)

/-- Parse a group table; the causes of R264 other than 5. -/
def State.parseTable (s : State) (p : PartId) (a : W64) : State × Parsed :=
  if !(s.isOwn a && decide (aOff a % 64 = 0)) then (s, ⟨[], [1]⟩)
  else match s.tableRead p a 0 32 with
    | (s, none) => (s, ⟨[], [1]⟩)
    | (s, some h) =>
      let n := ofLe (h.take 2)
      if n = 0 ∨ 1024 < n then (s, ⟨[], [1]⟩)
      else match s.tableRead p a 32 (32 * n) with
        | (s, none) => (s, ⟨[], [1]⟩)
        | (s, some ds) =>
          let (s, gs, cs) := (chunksOf 32 n ds).foldl (fun (acc : State × List Group × List Nat) l =>
            let (s, r) := acc.1.parseGroup p a l
            (s, acc.2.1 ++ r.groups, acc.2.2 ++ r.causes)) (s, [], [])
          let ids := gs.map (fun g => g.gid.toNat)
          let rising := (ids.zip (ids.drop 1)).all (fun e => decide (e.1 ≤ e.2))
          (s, ⟨gs, cs ++ (if ids.eraseDups.length < ids.length then [3] else []) ++ (if rising then [] else [1]) ++
            (if ids.contains 0xFFFF then [] else [4])⟩)

/-! ## Switch reservations (R280, R282) -/

def Group.racks (g : Group) : List (List Nat) := rackGroups g.members
def Group.devs (g : Group) (r : List Nat) : List W16 := r.map (fun j => memberDev (g.members.getD j 0))

/-- Members in at least two racks, the same number of at least two in each. -/
def Group.balanced (g : Group) : Bool :=
  match g.racks with
  | a :: b :: t => decide (2 ≤ a.length) && (b :: t).all (fun r => r.length == a.length)
  | _ => false

/-- The group could use switch reduce (Table 11-4). -/
def Group.couldSwitch (g : Group) (pver : Nat) : Bool :=
  decide (2 ≤ pver) && g.racks.all (fun r => let d := g.devs r; d.eraseDups.length == d.length) &&
    (decide (g.force = 4) || ((decide (g.force = 0) || decide (g.force = 3)) && g.racks.length == 1) || (decide (g.force = 0) && g.balanced))

/-- Slots of a group in a rack. -/
def Group.mask (g : Group) (r : List Nat) : Nat := ((g.devs r).map slotOf).eraseDups.foldl (fun a n => a + 2 ^ n) 0

/-- The RSV data unit. -/
def rsvUnit (mask : Nat) (gid : W16) (p : PartId) (release : Bool) : W128 :=
  BitVec.ofNat 128 (mask * 2 ^ 64 + 131072 * 2 ^ 32 + gid.toNat * 2 ^ 16 + p.val * 2 ^ 12 + b2n release * 2 ^ 11)

/-- Send one RSV on a plane. -/
def State.sendRsv (s : State) (p : PartId) (g : Group) (r : List Nat) (plane : Nat) (release : Bool) : State :=
  match s.freeTag 2 0 with
  | none => s
  | some t =>
    let s := { s with nextTag := (t + 1) % 4096 }
    let sink := if release then Sink.mgmt else Sink.reserve p g.gid plane
    let s := s.setReq (reqKey 2 0 t) (some ⟨0, .primary, 0, 0, sink⟩)
    s.toPort (portN plane) ⟨mkHdr s.ownDev (BitVec.ofNat 12 t) 0 0 0x0A 1 0 p false 0, [rsvUnit (g.mask r) g.gid p release], none⟩

def State.modGroup (s : State) (p : PartId) (gid : W16) (f : Group → Group) : State :=
  s.modPart p (fun q => { q with groups := q.groups.map (fun g => if g.gid = gid then f g else g) })

/-- The rack of a list of members, and whether this module is the lowest-indexed member module in it. -/
def Group.rackNo (g : Group) (r : List Nat) : Nat := rackOf (memberDev (g.members.getD (r.headD 0) 0))
def State.isReserver (s : State) (g : Group) (r : List Nat) : Bool := memberDev (g.members.getD (r.headD 0) 0) == s.ownDev

/-- Reserve for one group: every rack, every plane (R280). -/
def State.reserveGroup (s : State) (p : PartId) (planes : List Nat) (g : Group) : State :=
  let racks := g.racks.mergeSort (fun a b => decide (g.rackNo a ≤ g.rackNo b))
  let s := s.modGroup p g.gid (fun g => { g with pendingRes := racks.flatMap (fun r => planes.map (fun n => (g.rackNo r, n))) })
  racks.foldl (fun s r => if s.isReserver g r then planes.foldl (fun s n => s.sendRsv p g r n false) s else s) s

/-- Release what this module has been granted for a group (R282). -/
def State.releaseGroup (s : State) (p : PartId) (g : Group) : State :=
  let s := g.handles.foldl (fun s e =>
    match g.racks.find? (fun r => g.rackNo r == e.1) with
    | some r => if s.isReserver g r then s.sendRsv p g r e.2.1 true else s
    | none => s) s
  s.modGroup p g.gid (fun g => { g with handles := [] })

/-! ## Planning (R272, R283) -/

/-- Algorithms of a group once its reservations are known. -/
def Group.planned (g : Group) : Group :=
  let f := g.force.toNat
  let n := g.members.length
  let elig := g.racks.length == 1 && g.sw == 1
  let plain :=
    if f = 3 ∧ !elig then 1
    else if 1 ≤ f ∧ f ≤ 3 then f
    else if f = 4 then (if g.sw = 1 then 5 else 4)
    else if elig then 3
    else if g.balanced then (if g.sw = 1 then 5 else 4)
    else if 4 ≤ n then 2
    else 1
  let carry := if plain = 3 ∨ plain = 5 then (if g.balanced then 4 else 1) else plain
  { g with algPlain := plain, algCarry := carry, algMove := 1 }

/-- A record of the plan report. -/
def Group.record (g : Group) : List Byte :=
  leBytes 16 (g.gid.toNat + g.force.toNat * 2 ^ 16 + g.algPlain * 2 ^ 20 + g.algCarry * 2 ^ 24 + g.algMove * 2 ^ 28 + g.sw * 2 ^ 32 +
    g.members.length * 2 ^ 64 + g.racks.length * 2 ^ 96)

/-- Every outcome is known: the groups are planned and the report is written. -/
def State.planGroups (s : State) (p : PartId) : State :=
  let s := s.modPart p (fun q => { q with groups := q.groups.map Group.planned })
  let gs := (s.part p).groups
  let recs := gs.flatMap Group.record
  let digest := sha64 recs
  let head := leBytes 64 (s.dN (ckPlan p 4) + gs.length * 2 ^ 32 + s.dN (ckPlan p 7) * 2 ^ 48 + digest.toNat * 2 ^ 64)
  let s := s.addD (ckColl p 0x0D) (cnt (fun (g : Group) => g.sw == 2) gs)
  let a := s.d (ckColl p 5)
  let l := head ++ recs
  let s := if a ≠ 0 ∧ s.ownMem a l.length ∧ aOff a % 64 = 0 ∧ s.check p a l.length = .ok then
      s.writeMerge Former.mgmt (aKey a) l [] else s
  (s.setD (ckColl p 6) digest).setDN (ckColl p 3) 2

/-- Plan once no reservation is outstanding that could still decide a group. -/
def State.groupsAgain (s : State) (p : PartId) : State :=
  if s.dN (ckColl p 3) = 1 ∧ (s.part p).groups.all (fun g => g.pendingRes.isEmpty || g.sw == 2) then s.planGroups p else s

/-- Keep an outcome for which no group waits yet: another module of the group loaded its table first (DEDUCED, log 29). -/
def State.keepOutcome (s : State) (p : PartId) (gid : W16) (rack plane : Nat) (grant : Option W16) : State :=
  s.modPart p (fun q => { q with
    outcomes := q.outcomes.filter (fun e => !(e.1 == gid && e.2.1 == rack && e.2.2.1 == plane)) ++ [(gid, rack, plane, grant)] })

/-- The outcome of one reservation (R280, R282). -/
def State.reserved (s : State) (p : PartId) (gid : W16) (rack plane : Nat) (grant : Option W16) : State :=
  match s.groupOf p gid with
  | none => s.keepOutcome p gid rack plane grant
  | some g =>
    if !(g.pendingRes.contains (rack, plane)) then s.keepOutcome p gid rack plane grant
    else
      let left := g.pendingRes.filter (· ≠ (rack, plane))
      let s := s.modGroup p gid (fun g =>
        match grant with
        | some h => { g with pendingRes := left, handles := g.handles ++ [(rack, plane, h)], sw := if g.sw = 2 then 2 else if left.isEmpty then 1 else g.sw }
        | none => { g with pendingRes := left, sw := 2 })
      let s := match s.groupOf p gid with
        | some g => if g.sw = 2 then s.releaseGroup p g else s
        | none => s
      s.groupsAgain p

/-- An outcome as this model's MSG carries it to the other modules of a group. -/
def resUnit (p : PartId) (gid : W16) (rack plane : Nat) (grant : Option W16) : W128 :=
  recUnit 0x20 p 0 0 (BitVec.ofNat 64 (gid.toNat + rack % 65536 * 2 ^ 16 + plane % 256 * 2 ^ 32 + b2n grant.isSome * 2 ^ 40 +
    (grant.getD 0).toNat * 2 ^ 48))

/-- Tell the other modules of a group, then use the outcome here. -/
def State.resOutcome (s : State) (p : PartId) (gid : W16) (plane : Nat) (grant : Option W16) : State :=
  match s.groupOf p gid with
  | none => s
  | some g =>
    let rack := rackOf s.ownDev
    let ds := ((g.members.map memberDev).eraseDups).filter (· ≠ s.ownDev)
    let s := ds.foldl (fun s d => s.sendMsg 0 d [resUnit p gid rack plane grant]) s
    s.reserved p gid rack plane grant

/-- RESERVATION_TIMEOUT (R280): no answer within 500 ms counts as a refusal. -/
def execReservationTimeout (p : PartId) (gid : W16) (plane : Fin 8) (s : State) : Host.Outcome State Fault Refusal :=
  match s.groupOf p gid with
  | none => .next s
  | some g =>
    let own := rackOf s.ownDev
    let waits := g.pendingRes.filter (fun e => e.2 == plane.val)
    .next (waits.foldl (fun s e => if e.1 = own then s.resOutcome p gid plane.val none else s.reserved p gid e.1 e.2 none) s).settle

/-- GROUP_LOAD (R264). -/
def State.groupLoad (s : State) (p : PartId) : State :=
  if s.anyEnabled p then s.setDN (ckColl p 4) 5
  else
    let s := (s.part p).groups.foldl (fun s g => s.releaseGroup p g) s
    let (s, r) := s.parseTable p (s.d (ckColl p 1))
    let causes := r.causes ++ (if s.dN (ckPlan p 3) = 2 then [] else [5])
    match causes with
    | c :: t => ((s.modPart p (fun q => { q with groups := [] })).setDN (ckColl p 3) 3).setDN (ckColl p 4) (t.foldl Nat.min c)
    | [] =>
      let s := (s.setDN (ckColl p 3) 1).modPart p (fun q => { q with groups := r.groups, callNo := [], mailbox := [] })
      let planes := planesOf (s.dN (ckPlan p 6))
      let pver := s.dN (ckPlan p 7)
      let s := r.groups.foldl (fun s g => if g.couldSwitch pver then s.reserveGroup p planes g else s) s
      let s := (s.part p).outcomes.foldl (fun s e => s.reserved p e.1 e.2.1 e.2.2.1 e.2.2.2) s
      (s.modPart p (fun q => { q with outcomes := [] })).groupsAgain p

/-- Kept groups are loaded again once their plan is accepted (R417). -/
def State.regroup (s : State) : State :=
  allParts.foldl (fun s p =>
    if (s.part p).groupReq && s.dN (ckPlan p 3) == 2 then (s.modPart p (fun q => { q with groupReq := false })).groupLoad p else s) s

/-- Every plan that waits for its ports is looked at again. -/
def State.plansAgain (s : State) : State := (allParts.foldl (fun (s : State) (p : PartId) => s.planDecide p false) s).regroup

/-- PLAN_CHECK_TIMEOUT (R258). -/
def execPlanCheckTimeout (p : PartId) (s : State) : Host.Outcome State Fault Refusal := .next (s.planDecide p true).regroup.settle

end Sys2Proof.Machine
end

