-- ==== Sys2Proof/Machine/Resets.lean ====
section
/-!
DEFINITION. Resets of contexts, cores and partitions (R295, R297, R413, Table 18-5) with the loss notices they send, and the nomination of
cores for quarantine (R329).
-/
namespace Sys2Proof.Machine

/-! ## Contexts (R295) -/

/-- The epoch after a reset that clears the context. -/
def nextEpoch (e : W16) : W16 := if e = 0xFFFE then 0 else e + 1

/-- A context that has been cleared. Its partition stays, and so do its two settings when the core is not reset (R180). -/
def Ctx.cleared (k : Ctx) (whole : Bool) : Ctx :=
  { Ctx.reset with
    part := k.part
    epoch := nextEpoch k.epoch
    errcont := if whole then false else k.errcont
    filldelay := if whole then 16 else k.filldelay }

/-- A stash whose directory has been cleared. Its configuration stays. -/
def Stash.cleared (t : Stash) : Stash :=
  { Stash.reset with ctl := t.ctl, base := t.base, size := t.size, spillbase := t.spillbase }

/-- Streams, queues and tiles of one context of a core are cleared. -/
def Core.clearCtx (k : Core) (x : CtxId) : Core :=
  let k := { k with ftq := k.ftq.filter (fun t => t.ctx != x), admitted := false }
  match x with
  | .primary => { k with
      prim := k.prim.cleared false
      s0 := Stream.reset .fwd
      s1 := Stream.reset .bwdIn
      dq := { Dq.reset with idlethr := k.dq.idlethr }
      stash := k.stash.cleared
      timers := []
      lastTimers := []
      idleCyc := 0
      quietCyc := 0 }
  | .filler => { k with fill := k.fill.cleared false, s2 := Stream.reset .fwd }

/-- A core after its own reset, CORE.MEMCFG among the registers that take their reset values (R180). The kernel then writes MEMCFG. -/
def Core.cleared (k : Core) : Core :=
  { Core.reset with prim := k.prim.cleared true, fill := k.fill.cleared true }

/-- Objects of a context's part of its core take their reset values (R290). -/
def State.clearObjs (s : State) (c : CoreId) (f : Nat → Bool) : State :=
  { s with objs := s.objs.filter (fun e => !(decide (e.1 / 4096 = c.val) && f (e.1 % 4096))) }

/-- Requests that a reset context had outstanding are forgotten; their responses come late. -/
def State.dropReqs (s : State) (c : CoreId) (x : CtxId) : State :=
  { s with reqs := s.reqs.filter (fun e => match e.2 with
      | some r => match r.sink with
        | .reserve _ _ _ => true
        | .ckpt _ => true
        | .restore _ _ _ => true
        | .mgmt => true
        | _ => !(r.core == c && r.ctx == x)
      | none => false) }

/-! ## Loss notices (R297) -/

/-- The unit of a loss notice (R334). -/
def lossUnit (p : PartId) (term : Nat) (dev : W16) (core : Nat) (ctx : Bool) (epoch : W16) : W128 :=
  recUnit 0x08 p term 0 (BitVec.ofNat 64 (dev.toNat + core % 256 * 2 ^ 16 + b2n ctx * 2 ^ 24 + epoch.toNat * 2 ^ 32))

/-- Send a loss notice to modules, this one included. -/
def State.sendLoss (s : State) (p : PartId) (devs : List W16) (dev : W16) (core : Byte) (ctx : Bool) (epoch : W16) : State :=
  let u := lossUnit p (s.dN termKey) dev core.toNat ctx epoch
  let s := (devs.filter (· ≠ s.ownDev)).foldl (fun s d => s.sendMsg 0 d [u]) s
  s.lossNotice p dev core ctx epoch

/-- Notices for contexts of this module that have been reset, to the vote group as it was. -/
def State.notify (s : State) (devs : List W16) (cs : List (PartId × CoreId × CtxId)) : State :=
  cs.foldl (fun s e => s.sendLoss e.1 devs s.ownDev (BitVec.ofNat 8 e.2.1.val) (ctxBit e.2.2) (s.ctx e.2.1 e.2.2).epoch) s

/-! ## Partition reset (Table 18-5) -/

/-- One context of a partition is reset. -/
def State.resetCtx (s : State) (c : CoreId) (x : CtxId) : State :=
  ((s.modCore c (fun k => k.clearCtx x)).clearObjs c (fun k => s.objCtx c k == x)).dropReqs c x

/-- The partition whose checkpoint a request serves. -/
def Sink.ofPart : Sink → Option PartId
  | .ckpt p => some p
  | .restore p _ _ => some p
  | _ => none

/-- Calls, reservations, captures, the gate and a checkpoint copy of a partition end. Ladder and watch state stay until a restore. -/
def State.clearPart (s : State) (p : PartId) : State :=
  let s := (s.part p).groups.foldl (fun s g => s.releaseGroup p g) s
  let s := s.modPart p (fun q => { q with
    job := if (s.voteDevs p).isEmpty then q.job else s.voteDevs p
    groups := []
    callNo := []
    failed := []
    lost := []
    calls := []
    mailbox := []
    retries := []
    late := []
    reports := []
    tallies := []
    pinStep := 0
    gate := Part.reset.gate
    ckpt := { q.ckpt with copying := none, ranges := [], copied := none, queue := [], outst := 0, failed := false, restore := none } })
  let s := { s with
    caps := s.caps.filter (fun k => k.part != p)
    reqs := s.reqs.filter (fun e => match e.2 with
      | some r => r.sink.ofPart != some p
      | none => false) }
  ((s.setDN (ckColl p 3) 0).setDN (gateStateKey p) 0).setDN (dkx 0x2510 p 0x0F) 0

/-- A partition is reset (R413). -/
def State.partReset (s : State) (p : PartId) : State :=
  let cs := s.ctxsOf p
  let devs := s.voteDevs p
  let s := (cs.foldl (fun s e => s.resetCtx e.1 e.2) s).clearPart p
  s.notify devs (cs.map (fun e => (p, e.1, e.2)))

/-! ## Core reset (Table 18-5) -/

/-- A core is reset: both contexts, its memory, its objects, and the calls of its members are abandoned. -/
def State.coreReset (s : State) (c : CoreId) : State :=
  let cs := [CtxId.primary, CtxId.filler].filterMap (fun x => (s.ctx c x).part.map (fun p => (p, c, x)))
  let devs := cs.map (fun e => s.voteDevs e.1)
  let s := ((s.modCore c Core.cleared).clearObjs c (fun _ => true))
  let s := (s.dropReqs c .primary).dropReqs c .filler
  let s := { s with mem := s.mem.zeroCore c }
  let s := cs.foldl (fun s e => s.modPart e.1 (fun q => { q with calls := q.calls.filter (fun k => k.core != c) })) s
  let s := { s with caps := s.caps.filter (fun k => k.core != c) }
  (cs.zip devs).foldl (fun s e => s.notify e.2 [e.1]) s

end Sys2Proof.Machine
end

