-- ==== Sys2Proof/Machine/Dram.lean ====
section
/-!
DEFINITION. The upkeep of DRAM and core memory: bulk fill (R220), scrubbers (R207, R221), refresh (R215), timing trims (R406), the clearing
of the error logs (R222), and row repairs at a reset (R223).
-/
namespace Sys2Proof.Machine

/-! ## Bulk fill (R220) -/

/-- INIT_START: every stack is written with the pattern, or the write is ignored while a context is enabled. Requests wait while a stack
fills, so they find it filled. -/
def State.initStart (s : State) : State :=
  if allParts.any s.anyEnabled then s.incD (dk 0x2201 4)
  else
    let pat := s.d (dk 0x2201 2)
    let s := { s with mem := allStacks.foldl (fun (m : Mem) (d : District) => m.fillStack d.val pat) s.mem }
    let s := allStacks.foldl (fun (s : State) (d : District) => s.modStack d (fun t => { t with filling := true })) s
    s.setDN (dk 0x2201 3) 0

/-- BULK_FILL_DONE (R220). -/
def execBulkFillDone (d : District) (s : State) : Host.Outcome State Fault Refusal :=
  if !(s.stack d).filling then .next s
  else
    let s := s.modStack d (fun t => { t with filling := false })
    .next (s.setDN (dk 0x2201 3) (s.dN (dk 0x2201 3) ||| 2 ^ d.val))

/-! ## Error logs (R222) -/

/-- LOG_CLEAR. -/
def State.logClear (s : State) : State :=
  let s := allStacks.foldl (fun (s : State) (d : District) => s.modStack d (fun t => { t with log := [] })) s
  ((s.setDN (dk 0x2205 1) 0).setDN (dk 0x2205 2) 0).setDN (dk 0x2205 3) 0

/-! ## Scrubbing -/

/-- The scrubber of a stack runs (R221). -/
def State.scrubs (s : State) (d : District) : Bool :=
  s.dN (dk 0x2202 1) != 0 && (decide (s.dN (dk 0x2201 3) / 2 ^ d.val % 2 = 1) || s.dN (dk 0x2202 2) == 1) && !(s.stack d).filling

/-- The read of a burst ends uncorrectable. -/
def State.readsUe (s : State) (u : Nat) (e : List (Fin 72 × Byte)) : Bool :=
  match s.mem.unit u with
  | .raw => rawOutcome u == .ue
  | st => rsDecode (storedError st e) == .ue

/-- A stack has completed a pass; a pass that all sixteen have completed is counted. -/
def State.scrubPass (s : State) (d : District) : State :=
  let s := s.modStack d (fun t => { t with scrubPos := 0, passes := t.passes + 1, passCe := [] })
  if allStacks.all (fun e => decide ((s.stack e).passes ≠ 0)) then
    (allStacks.foldl (fun (s : State) (e : District) => s.modStack e (fun t => { t with passes := t.passes - 1 })) s).incD (dk 0x2202 3)
  else s

/-- DRAM_SCRUB (R221): the next burst is read; a UE nominates its row (R223). -/
def execDramScrub (d : District) (upset : List (Fin 72 × Byte)) (s : State) : Host.Outcome State Fault Refusal :=
  if !s.scrubs d then .next s
  else
    let pos := (s.stack d).scrubPos
    let u := d.val * 2 ^ 30 + pos
    let ue := s.readsUe u upset
    let (s, _, _) := s.readUpset u upset 1
    let s := if ue then s.nominateRow d (rowOfUnit u) else s
    .next (if pos + 1 < 2 ^ 30 then s.modStack d (fun t => { t with scrubPos := pos + 1 }) else s.scrubPass d)

/-- SRAM_SCRUB (R207): the scrubber reads one unit of a core memory, with the flipped bits that `flips` lists. -/
def execSramScrub (core : CoreId) (unit : W16) (flips : List (Fin 8 × Byte × Byte)) (s : State) : Host.Outcome State Fault Refusal :=
  .next (s.sramFlips core (ckey core 0 / 64 + unit.toNat) flips)

/-! ## Refresh and trims -/

/-- BANK_REFRESH (R215): the bank is refreshed now. Data stays. -/
def execBankRefresh (d : District) (chan bank : Fin 32) (s : State) : Host.Outcome State Fault Refusal :=
  .next (s.modStack d (fun t => { t with refreshed := SMap.set (fun _ => 0) t.refreshed (chan.val * 32 + bank.val) s.now }))

/-- Set REFRESH_STATE of a stack. -/
def State.setRefresh (s : State) (d : District) (n : Nat) : State :=
  s.setDN (dk 0x2203 1) (s.dN (dk 0x2203 1) - s.refreshState d * 4 ^ d.val + n * 4 ^ d.val)

/-- The state after a sample of `t` tenths of a degree: up at once, down by one after 10 ms below the return threshold (Table 9-4). -/
def nextRefresh (state : Nat) (t : Int) (below : Bool) : Nat :=
  let up := if 950 < t then 2 else if 850 < t then 1 else 0
  if state < up then up
  else if state = 2 ∧ t < 930 ∧ below then 1
  else if state = 1 ∧ t < 830 ∧ below then 0
  else state

/-- REFRESH_SAMPLE (R215). -/
def execRefreshSample (d : District) (temp : Int) (below10ms : Bool) (s : State) : Host.Outcome State Fault Refusal :=
  let s := s.setD (dk 0x2140 (d.val + 1)) (tempWord temp)
  .next ((s.setRefresh d (nextRefresh (s.refreshState d) temp below10ms)).heat d)

/-- DRAM_TIMING_TRIM (R406): the channel's timing is centred for the present temperature. -/
def execDramTimingTrim (d : District) (chan : Fin 32) (s : State) : Host.Outcome State Fault Refusal :=
  let t := ((s.d (dk 0x2140 (d.val + 1))).setWidth 16).toInt
  .next (s.modStack d (fun k => { k with trimTemp := t, trims := SMap.set (fun _ => 0) k.trims chan.val (SMap.get (fun _ => 0) k.trims chan.val + 1) }))

/-! ## Row repairs at a reset (R223) -/

/-- Copy a row into its spare: bursts that decode as UEs are written poisoned and logged. -/
def State.copyRow (s : State) (d : District) (r : RowAddr) : State :=
  (unitsOfRow r).foldl (fun s i =>
    let u := d.val * 2 ^ 30 + i
    if s.readsUe u [] then (s.decodeUnit u .ue 3).1 else s) s

/-- Apply a stack's pending repairs; `keep` says that DRAM keeps its contents. -/
def State.applyRepairs (s : State) (keep : Bool) (d : District) : State :=
  let rs := (s.stack d).repairs
  let s := s.modStack d (fun t => { t with repairs := [] })
  rs.foldl (fun s r =>
    let n := sparesUsed (s.stack d) r.chan
    if 16 ≤ n then (s.incD (dk 0x2220 5)).degrade d
    else
      let s := s.modStack d (fun t => { t with spares := SMap.set (fun _ => 0) t.spares r.chan (n + 1) })
      if keep then s.copyRow d r else s) s

end Sys2Proof.Machine
end

