-- ==== Sys2Proof/Machine/Hash.lean ====
section
/-!
DEFINITION. The functions that the manual takes from other standards to verify images (R380, R393): SHA-384 and SHA-512 (FIPS 180-4),
RSASSA-PSS verification (RFC 8017) and SLH-DSA-SHA2-192s verification (FIPS 205).
-/
namespace Sys2Proof.Machine

/-! ## SHA-512 and SHA-384 -/

def sha512K : List W64 :=
  [0x428a2f98d728ae22, 0x7137449123ef65cd, 0xb5c0fbcfec4d3b2f, 0xe9b5dba58189dbbc] ++
  [0x3956c25bf348b538, 0x59f111f1b605d019, 0x923f82a4af194f9b, 0xab1c5ed5da6d8118] ++
  [0xd807aa98a3030242, 0x12835b0145706fbe, 0x243185be4ee4b28c, 0x550c7dc3d5ffb4e2] ++
  [0x72be5d74f27b896f, 0x80deb1fe3b1696b1, 0x9bdc06a725c71235, 0xc19bf174cf692694] ++
  [0xe49b69c19ef14ad2, 0xefbe4786384f25e3, 0x0fc19dc68b8cd5b5, 0x240ca1cc77ac9c65] ++
  [0x2de92c6f592b0275, 0x4a7484aa6ea6e483, 0x5cb0a9dcbd41fbd4, 0x76f988da831153b5] ++
  [0x983e5152ee66dfab, 0xa831c66d2db43210, 0xb00327c898fb213f, 0xbf597fc7beef0ee4] ++
  [0xc6e00bf33da88fc2, 0xd5a79147930aa725, 0x06ca6351e003826f, 0x142929670a0e6e70] ++
  [0x27b70a8546d22ffc, 0x2e1b21385c26c926, 0x4d2c6dfc5ac42aed, 0x53380d139d95b3df] ++
  [0x650a73548baf63de, 0x766a0abb3c77b2a8, 0x81c2c92e47edaee6, 0x92722c851482353b] ++
  [0xa2bfe8a14cf10364, 0xa81a664bbc423001, 0xc24b8b70d0f89791, 0xc76c51a30654be30] ++
  [0xd192e819d6ef5218, 0xd69906245565a910, 0xf40e35855771202a, 0x106aa07032bbd1b8] ++
  [0x19a4c116b8d2d0c8, 0x1e376c085141ab53, 0x2748774cdf8eeb99, 0x34b0bcb5e19b48a8] ++
  [0x391c0cb3c5c95a63, 0x4ed8aa4ae3418acb, 0x5b9cca4f7763e373, 0x682e6ff3d6b2b8a3] ++
  [0x748f82ee5defb2fc, 0x78a5636f43172f60, 0x84c87814a1f0ab72, 0x8cc702081a6439ec] ++
  [0x90befffa23631e28, 0xa4506cebde82bde9, 0xbef9a3f7b2c67915, 0xc67178f2e372532b] ++
  [0xca273eceea26619c, 0xd186b8c721c0c207, 0xeada7dd6cde0eb1e, 0xf57d4f7fee6ed178] ++
  [0x06f067aa72176fba, 0x0a637dc5a2c898a6, 0x113f9804bef90dae, 0x1b710b35131c471b] ++
  [0x28db77f523047d84, 0x32caab7b40c72493, 0x3c9ebe0a15c9bebc, 0x431d67c49c100d4c] ++
  [0x4cc5d4becb3e42b6, 0x597f299cfc657e2a, 0x5fcb6fab3ad6faec, 0x6c44198c4a475817]

def sha512H0 : List W64 :=
  [0x6a09e667f3bcc908, 0xbb67ae8584caa73b, 0x3c6ef372fe94f82b, 0xa54ff53a5f1d36f1] ++
  [0x510e527fade682d1, 0x9b05688c2b3e6c1f, 0x1f83d9abfb41bd6b, 0x5be0cd19137e2179]

def sha384H0 : List W64 :=
  [0xcbbb9d5dc1059ed8, 0x629a292a367cd507, 0x9159015a3070dd17, 0x152fecd8f70e5939] ++
  [0x67332667ffc00b31, 0x8eb44a8768581511, 0xdb0c2e0d64f98fa7, 0x47b5481dbefa4fa4]

def rotr64 (x : W64) (n : Nat) : W64 := x.rotateRight n

/-- Message schedule, newest word first. -/
def sha512Schedule : Nat → List W64 → List W64
  | 0, w => w
  | n + 1, w =>
    let a := w.getD 14 0
    let b := w.getD 1 0
    let lo := rotr64 a 1 ^^^ rotr64 a 8 ^^^ (a >>> 7)
    let hi := rotr64 b 19 ^^^ rotr64 b 61 ^^^ (b >>> 6)
    sha512Schedule n ((w.getD 15 0 + lo + w.getD 6 0 + hi) :: w)

def sha512Round (h : List W64) (kw : W64) : List W64 :=
  match h with
  | [a, b, c, d, e, f, g, x] =>
    let t1 := x + (rotr64 e 14 ^^^ rotr64 e 18 ^^^ rotr64 e 41) + ((e &&& f) ^^^ (~~~e &&& g)) + kw
    let t2 := (rotr64 a 28 ^^^ rotr64 a 34 ^^^ rotr64 a 39) + ((a &&& b) ^^^ (a &&& c) ^^^ (b &&& c))
    [t1 + t2, a, b, c, d + t1, e, f, g]
  | _ => h

def sha512Block (h : List W64) (blk : List Byte) : List W64 :=
  let first := (chunksOf 8 16 blk).map (fun c => BitVec.ofNat 64 (ofLe c.reverse))
  let w := (sha512Schedule 64 first.reverse).reverse
  List.zipWith (· + ·) h ((List.zipWith (· + ·) sha512K w).foldl sha512Round h)

/-- The 64 bytes of the hash state after a padded message. -/
def sha512From (h0 : List W64) (m : List Byte) : List Byte :=
  let n := m.length
  let p := m ++ [0x80] ++ List.replicate ((128 - (n + 17) % 128) % 128) 0 ++ beBytes 16 (8 * n)
  ((chunksOf 128 (p.length / 128) p).foldl sha512Block h0).flatMap (fun x => beBytes 8 x.toNat)

def sha512 (m : List Byte) : List Byte := sha512From sha512H0 m
def sha384 (m : List Byte) : List Byte := (sha512From sha384H0 m).take 48

/-- A big-endian number. -/
def ofBe (l : List Byte) : Nat := ofLe l.reverse

/-- MGF1 over a hash of `size` bytes. -/
def mgf1 (hash : List Byte → List Byte) (size : Nat) (seed : List Byte) (n : Nat) : List Byte :=
  ((List.range ((n + size - 1) / size)).flatMap (fun i => hash (seed ++ beBytes 4 i))).take n

def xorBytes (a b : List Byte) : List Byte := List.zipWith (· ^^^ ·) a b

/-! ## RSASSA-PSS verification: RSA-3072, SHA-384, MGF1 with SHA-384, a 48-byte salt -/

def squares : Nat → Nat → Nat → Nat
  | 0, _, x => x
  | k + 1, n, x => squares k n (x * x % n)

/-- x to the power 65,537 modulo n. -/
def pow65537 (n x : Nat) : Nat := squares 16 n (x % n) * x % n

/-- EMSA-PSS-VERIFY of 384 encoded bytes with 3,071 bits in use. -/
def pssOk (msg em : List Byte) : Bool :=
  let masked := em.take 335
  let h := (em.drop 335).take 48
  let full := xorBytes masked (mgf1 sha384 48 h 335)
  let db := (full.headD 0 &&& 0x7F) :: full.drop 1
  let salt := db.drop 287
  em.getD 383 0 == 0xBC && (masked.headD 0 &&& 0x80) == 0 && (db.take 286).all (· == 0) && db.getD 286 0 == 1 &&
    sha384 (List.replicate 8 0 ++ sha384 msg ++ salt) == h

/-- RSASSA-PSS-VERIFY; exponent, modulus and signature are least significant byte first, as in an image (R379). -/
def rsaOk (msg e n sig : List Byte) : Bool :=
  decide (ofLe e = 65537) && decide (ofLe sig < ofLe n) && pssOk msg (beBytes 384 (pow65537 (ofLe n) (ofLe sig)))

/-! ## SLH-DSA-SHA2-192s verification: n = 24, h = 63, d = 7, h' = 9, a = 14, k = 17, w = 16 -/

/-- An address: layer, tree, type, and the three words behind it. -/
structure SlhAdrs where
  layer : Nat
  tree : Nat
  type : Nat
  w1 : Nat
  w2 : Nat
  w3 : Nat
  deriving DecidableEq, Repr

/-- The compressed form of 22 bytes. -/
def SlhAdrs.bytes (a : SlhAdrs) : List Byte :=
  beBytes 1 a.layer ++ beBytes 8 a.tree ++ beBytes 1 a.type ++ beBytes 4 a.w1 ++ beBytes 4 a.w2 ++ beBytes 4 a.w3

/-- F, on one value, uses SHA-256; H and T, on several, SHA-512. -/
def slhF (seed : List Byte) (a : SlhAdrs) (m : List Byte) : List Byte := (sha256 (seed ++ List.replicate 40 0 ++ a.bytes ++ m)).take 24
def slhT (seed : List Byte) (a : SlhAdrs) (m : List Byte) : List Byte := (sha512 (seed ++ List.replicate 104 0 ++ a.bytes ++ m)).take 24

/-- The first `n` digits of `b` bits of a string, most significant first. -/
def digits (b n : Nat) (l : List Byte) : List Nat :=
  let v := ofBe l
  (List.range n).map (fun i => v / 2 ^ (8 * l.length - b * (i + 1)) % 2 ^ b)

/-- A WOTS+ chain from step i, s steps long. -/
def slhChain (seed : List Byte) (a : SlhAdrs) : Nat → Nat → List Byte → List Byte
  | 0, _, x => x
  | s + 1, i, x => slhChain seed a s (i + 1) (slhF seed { a with w3 := i } x)

/-- Climb an authentication path: heights from `j`, node index `idx` at the level below. -/
def slhClimb (seed : List Byte) (a : SlhAdrs) : List (List Byte) → Nat → Nat → List Byte → List Byte
  | [], _, _, x => x
  | y :: t, j, idx, x =>
    let a' : SlhAdrs := { a with w2 := j + 1, w3 := idx / 2 }
    slhClimb seed a t (j + 1) (idx / 2) (slhT seed a' (if idx % 2 = 0 then x ++ y else y ++ x))

/-- A WOTS+ public key from a signature of 51 values on a 24-byte message. -/
def wotsKey (seed : List Byte) (a : SlhAdrs) (sig m : List Byte) : List Byte :=
  let msg := digits 4 48 m
  let sum := msg.foldl (fun c x => c + (15 - x)) 0
  let all := msg ++ digits 4 3 (beBytes 2 (sum * 16))
  let ends := ((List.range 51).zip (all.zip (chunksOf 24 51 sig))).flatMap (fun e =>
    slhChain seed { a with w2 := e.1 } (15 - e.2.1) e.2.1 e.2.2)
  slhT seed { a with type := 1, w2 := 0, w3 := 0 } ends

/-- The root of one XMSS tree from a signature of 60 values. -/
def xmssRoot (seed : List Byte) (layer tree idx : Nat) (sig m : List Byte) : List Byte :=
  let leaf := wotsKey seed ⟨layer, tree, 0, idx, 0, 0⟩ (sig.take 1224) m
  slhClimb seed ⟨layer, tree, 2, 0, 0, 0⟩ (chunksOf 24 9 (sig.drop 1224)) 0 idx leaf

/-- The root of the hypertree from its seven layers. -/
def hyperRoot (seed : List Byte) : Nat → Nat → Nat → Nat → List Byte → List Byte → List Byte
  | 0, _, _, _, _, m => m
  | n + 1, layer, tree, idx, sig, m =>
    hyperRoot seed n (layer + 1) (tree / 512) (tree % 512) (sig.drop 1440) (xmssRoot seed layer tree idx (sig.take 1440) m)

/-- A FORS public key from a signature of 17 trees. -/
def forsKey (seed : List Byte) (tree leaf : Nat) (sig md : List Byte) : List Byte :=
  let roots := ((List.range 17).zip ((digits 14 17 md).zip (chunksOf 360 17 sig))).flatMap (fun e =>
    let a : SlhAdrs := ⟨0, tree, 3, leaf, 0, 0⟩
    let idx := e.1 * 16384 + e.2.1
    slhClimb seed a (chunksOf 24 14 (e.2.2.drop 24)) 0 idx (slhF seed { a with w3 := idx } (e.2.2.take 24)))
  slhT seed ⟨0, tree, 4, leaf, 0, 0⟩ roots

/-- slh_verify with an empty context: public key of 48 bytes, signature of 16,224. -/
def slhOk (msg key sig : List Byte) : Bool :=
  let seed := key.take 24
  let r := sig.take 24
  let m := [0, 0] ++ msg
  let dg := mgf1 sha512 64 (r ++ seed ++ sha512 (r ++ key ++ m)) 39
  let tree := ofBe ((dg.drop 30).take 7) % 2 ^ 54
  let leaf := ofBe (dg.drop 37) % 512
  let pk := forsKey seed tree leaf ((sig.drop 24).take 6120) (dg.take 30)
  hyperRoot seed 7 0 tree leaf (sig.drop 6144) pk == key.drop 24

end Sys2Proof.Machine
end

