-- ==== Sys2Proof/Machine/PTable.lean ====
section
/-!
DEFINITION. The partition table: configuration documents, the checks that refuse one, and its installation (R374, R389, R390).
-/
namespace Sys2Proof.Machine

/-! ## Documents (R389) -/

/-- An item of a document: index, subindex, value. -/
structure DocItem where
  idx : Nat
  sub : Nat
  zero : Bool
  val : W64
  deriving DecidableEq, Repr

def docItem (l : List Byte) : DocItem :=
  ⟨ofLe (l.take 2), ofLe ((l.drop 2).take 1), l.getD 3 0 == 0, BitVec.ofNat 64 (ofLe ((l.drop 4).take 8))⟩

def docNent (l : List Byte) : Nat := ofLe ((l.drop 4).take 2)
def docGen (l : List Byte) : Nat := ofLe ((l.drop 8).take 4)

/-- Header and length are as R389 states. -/
def docForm (l : List Byte) : Bool :=
  ofLe (l.take 4) == 0x47464350 && ofLe ((l.drop 6).take 2) == 0 && ofLe ((l.drop 12).take 4) == 0 && l.length == 16 + 12 * docNent l

def docItems (l : List Byte) : List DocItem := (chunksOf 12 (docNent l) (l.drop 16)).map docItem
def DocItem.key (i : DocItem) : Nat := dk i.idx i.sub

/-- Values that a crit entry takes: its type's, and what its unit or rule states. -/
def critRange (idx sub : Nat) (v : W64) : Bool :=
  let n := v.toNat
  decide (n < 2 ^ keyWidth (dk idx sub)) &&
    (if idx = 0x2300 ∧ sub = 2 then decide (n < 0xC000 ∨ n = 0xFFFF)
    else if 0x2210 ≤ idx ∧ idx < 0x2220 then
      (if sub ≤ 16 then decide (n ≤ 1024) else if sub = 17 then decide (n % 64 = 0) else decide (n ≤ 1))
    else if idx = 0x2600 then decide (n < 16 ∨ n = 0xFF)
    else if 0x2610 ≤ idx ∧ idx < 0x2620 ∧ sub = 11 then decide (n ≤ 32)
    else if 0x2A10 ≤ idx ∧ idx < 0x2A50 ∧ sub = 1 then decide (n % 4096 = 0)
    else if 0x2A10 ≤ idx ∧ idx < 0x2A50 ∧ sub = 3 then decide (n < 256 ∧ n / 16 % 8 ≤ 5)
    else true)

/-- An item that a document may hold (code 4). -/
def DocItem.allowed (i : DocItem) : Bool :=
  match entOf i.idx i.sub with
  | some e => e.acc == .crit && i.zero && !(i.idx == 0x2500) && !(decide (0x2510 ≤ i.idx ∧ i.idx < 0x2520)) && critRange i.idx i.sub i.val
  | none => false

/-! ## What a table says of partitions -/

/-- Bit c of a partition's PRIMARY_MAP or FILLER_MAP. -/
def State.mapBit (s : State) (p : PartId) (sub : Nat) (c : CoreId) : Bool := (s.d (dkx 0x2610 p (sub + c.val / 64))).getLsbD (c.val % 64)

/-- The partition whose context of a core the table names. -/
def State.tablePart (s : State) (c : CoreId) (x : CtxId) : Option PartId :=
  allParts.find? (fun p => s.mapBit p (match x with
    | .primary => 3
    | .filler => 7) c)

def State.tableFsize (s : State) (c : CoreId) : Nat :=
  match s.tablePart c .filler with
  | some p => s.dN (dkx 0x2610 p 11)
  | none => 0

/-- A partition that the table gives a context or a region. -/
def State.tableHas (s : State) (p : PartId) : Bool :=
  ((List.range 8).any (fun i => s.d (dkx 0x2610 p (3 + i)) != 0)) || ((List.range 16).any (fun i => s.d (dkx 0x2620 p (1 + i)) != 0))

/-- Pairs of different partitions. -/
def partPairs : List (PartId × PartId) := allParts.flatMap (fun p => (allParts.filter (fun q => decide (p.val < q.val))).map (fun q => (p, q)))

/-- No two partitions share a region or a context, the contexts of a core belong to different partitions, no region is the damask
reserve, and no RATE sum exceeds 1,024 (R12, R214, R374; code 5). -/
def State.tableOk (s : State) : Bool :=
  let apart (base lo n : Nat) : Bool := partPairs.all (fun e => (List.range n).all (fun i => s.d (dkx base e.1 (lo + i)) &&& s.d (dkx base e.2 (lo + i)) == 0))
  let r := Config.damaskReserve
  apart 0x2610 3 4 && apart 0x2610 7 4 && apart 0x2620 1 16 &&
    allParts.all (fun p => (List.range 4).all (fun i => s.d (dkx 0x2610 p (3 + i)) &&& s.d (dkx 0x2610 p (7 + i)) == 0)) &&
    allParts.all (fun p => !((s.d (dkx 0x2620 p (r.1.val + 1))).getLsbD r.2.val)) &&
    (List.range 16).all (fun i => decide (allParts.foldl (fun a p => a + s.dN (dkx 0x2210 p (i + 1))) 0 ≤ 1024))

/-- Write the items. -/
def State.writeItems (s : State) (is : List DocItem) : State := is.foldl (fun s i => s.setCrit i.key i.val) s

/-- Crit keys of a partition's own indices. -/
def partCrit (p : PartId) : List Nat :=
  (List.range 18).map (fun i => dkx 0x2210 p (i + 1)) ++ (List.range 3).map (fun i => dkx 0x2310 p (i + 1)) ++
    (List.range 9).map (fun i => dkx 0x2610 p (i + 3)) ++ (List.range 16).map (fun i => dkx 0x2620 p (i + 1))

/-- A document changes a partition: an entry of its indices, or a window of its own. -/
def partChanged (s t : State) (p : PartId) : Bool :=
  (partCrit p).any (fun k => s.d k != t.d k) ||
    (List.finRange 64).any (fun w => (winKeys w).any (fun k => s.d k != t.d k) &&
      ([s.d (winKey w 3), t.d (winKey w 3)]).any (fun a => fldN a 4 3 != 0 && fldN a 0 4 == p.val))

def State.coreEnabled (s : State) (c : CoreId) : Bool := (s.ctx c .primary).en || (s.ctx c .filler).en

/-- Result code and item index of a document (R390). For codes 5 to 7 the item is the first with which the table breaks the rule (DEDUCED,
log 28). -/
def State.docCode (s : State) (l : List Byte) (ovf : Bool) : Nat × Nat :=
  if !docForm l then (1, 0)
  else if docGen l ≠ s.dN (dk 0x2600 3) then (2, 0)
  else if ovf then (3, 0)
  else
    let is := docItems l
    match (List.range is.length).find? (fun i => match is[i]? with
      | some x => !x.allowed
      | none => false) with
    | some i => (4, i % 256)
    | none =>
      let t := s.writeItems is
      let lim := if s.sec.shadow.partLimit = 0 then 16 else s.sec.shadow.partLimit.toNat
      let limited (t : State) : Bool :=
        let ps := allParts.filter t.tableHas
        decide (lim < ps.length) || ps.any (fun p => decide (lim ≤ p.val))
      let running (t : State) : Bool :=
        allParts.any (fun p => partChanged s t p && s.anyEnabled p) ||
          (decide (s.ownDev ≠ t.ownDev) && allParts.any (fun p => s.anyEnabled p || s.dN (dkx 0x2330 p 3) == 2)) ||
          s.liveCores.any (fun c => (s.core c).fsize != t.tableFsize c && s.coreEnabled c)
      let first (f : State → Bool) : Nat := ((List.range is.length).find? (fun i => f (s.writeItems (is.take (i + 1))))).getD 0 % 256
      if !t.tableOk then (5, first (fun t => !t.tableOk))
      else if limited t then (6, first limited)
      else if running t then (7, first running)
      else (0, 0)

/-! ## Installation -/

/-- Entries of a partition that the table no longer configures hold no value. Its crit entries stay. -/
def State.dropEntries (s : State) (p : PartId) : State :=
  let gone (k : Nat) : Bool :=
    k / 2 ^ 24 == p.val + 1 ||
      (k / 2 ^ 24 == 0 && [0x2330, 0x2510, 0x2640, 0x2900, 0x2A60].any (fun b => k / 256 == b + p.val)) ||
      (k / 2 ^ 24 == 0 && k / 256 == 0x2610 + p.val && k % 256 == 2)
  { s with
    dict := s.dict.filter (fun e => !gone e.1)
    dictForce := s.dictForce.filter (fun e => !gone e.1)
    dictN := s.dictN.filter (fun e => !gone e.1)
    parts := s.parts.filter (fun e => e.1 != p.val) }

/-- A partition is removed (R413): it is reset first. -/
def State.removePart (s : State) (p : PartId) : State := (s.partReset p).dropEntries p

/-- Contexts and areas of every core match the table (R374); a core whose areas change is reset (R413). -/
def State.matchCores (s : State) : State :=
  allCores.foldl (fun s c =>
    let f := s.tableFsize c
    let k := s.core c
    let a := s.tablePart c .primary
    let b := s.tablePart c .filler
    let s := if k.fsize ≠ f then s.coreReset c else s
    if k.fsize = f ∧ k.prim.part = a ∧ k.fill.part = b then s
    else s.modCore c (fun k => { k with fsize := f, prim := { k.prim with part := a }, fill := { k.fill with part := b } })) s

/-- One partition owns every context of an active core and every DRAM region that any partition owns (R211). DEDUCED (log entry 91): 'that
any partition owns' qualifies the cores too, since R12 gives the two contexts of a core to different partitions. -/
def State.wholeModule (s : State) : Bool := allParts.any (fun p => allParts.all (fun q => q == p || !s.tableHas q))

/-- Install a document's items. The kernel sets SHARE_MODE from the table (R211). -/
def State.install (s : State) (l : List Byte) : State :=
  let is := docItems l
  let t := s.writeItems is
  let gone := allParts.filter (fun p => s.configured p && !t.tableHas p)
  let s := gone.foldl State.removePart s
  let s := (s.writeItems is).matchCores
  let ps := allParts.filter s.tableHas
  let s := s.setDN (dk 0x2600 6) (ps.foldl (fun a p => a + 2 ^ p.val) 0)
  let s := (s.incD (dk 0x2600 3)).latchWindows.portRoles
  let s := s.setDN (dk 0x2200 1) (b2n s.wholeModule)
  { s with sec := { s.sec with lastDoc := some l } }

end Sys2Proof.Machine
end

