-- ==== Sys2Proof/Machine/Boot.lean ====
section
/-!
DEFINITION. Cold and warm reset of the module (R413 to R417, Table 18-5), fuses (R375 to R378), quarantine at a reset (R330), and the boot
chain (R379 to R385, R415, R416).
-/
namespace Sys2Proof.Machine

/-! ## BOOT_STATUS (R383) -/

def bootKey : Nat := dk 0x2800 0x11

/-- Set a field of BOOT_STATUS. -/
def State.setBoot (s : State) (lo len v : Nat) : State :=
  let w := s.dN bootKey
  s.setDN bootKey (w - w / 2 ^ lo % 2 ^ len * 2 ^ lo + v % 2 ^ len * 2 ^ lo)
def State.bootField (s : State) (lo len : Nat) : Nat := s.dN bootKey / 2 ^ lo % 2 ^ len
def State.stage (s : State) : Nat := s.bootField 28 4

/-! ## Fuses (R375 to R378) -/

def bitCount {n : Nat} (w : BitVec n) : Nat := cnt (fun i => w.getLsbD i) (List.range n)

/-- Fuses with staged bits set, DEBUG_LOCK and FUSE_LOCK apart. -/
def Fuses.plus (f g : Fuses) : Fuses :=
  { f with arb := f.arb ||| g.arb, hashRsa := f.hashRsa ||| g.hashRsa, hashSlh := f.hashSlh ||| g.hashSlh, partLimit := f.partLimit ||| g.partLimit }

/-- Staged bits cut to a mask of the places that Config.fuseFails names, DEBUG_LOCK and FUSE_LOCK apart. -/
def Fuses.cut (f : Fuses) (m : BitVec 805) : Fuses :=
  ⟨false, false, f.arb &&& fld m 0 32, f.hashRsa &&& fld m 32 384, f.hashSlh &&& fld m 416 384, f.partLimit &&& fld m 800 4⟩

/-- Step 1 of the boot chain: every staged bit is programmed and read back, a bit that does not read back stays staged, and the shadows are
loaded (R376 to R378). Nothing of Table 16-1 changes here once FUSE_LOCK is set. -/
def State.programFuses (s : State) : State :=
  let c := s.sec
  let s := s.setDN bootKey 0
  if c.fuses.lock ∨ c.staged = Fuses.zero then { s with sec := { c with shadow := c.fuses, shadowN := c.fuses.compl } }
  else
    let m := Config.fuseFails s.free
    let f := c.fuses.plus (c.staged.cut (~~~m))
    let left := c.staged.cut m
    let bad := left != Fuses.zero
    let (f, left, err, gone) :=
      if !c.staged.debugLock then (f, left, bad, false)
      else if f.hashRsa = 0 ∨ f.hashSlh = 0 then (f, left, bad, true)
      else if bitAt m 804 then (f, { left with debugLock := true }, true, false)
      else ({ f with lock := true, debugLock := true }, left, bad, false)
    let s := { s with
      free := s.free + 1
      sec := { c with fuses := f, staged := left, shadow := f, shadowN := f.compl } }
    (s.setBoot 17 1 (b2n err)).setBoot 16 1 (b2n gone)

/-- The anti-rollback count (R384). -/
def Fuses.count (f : Fuses) : Nat := bitCount f.arb

/-- A use of a shadow (R325 kind 0x02): a mismatch reloads it from the fuses, and a second one is
handled as kind 0x01. -/
def State.useShadow (s : State) : State :=
  if s.sec.shadowN == s.sec.shadow.compl then s
  else
    let s := { s with sec := { s.sec with shadow := s.sec.fuses, shadowN := s.sec.fuses.compl } }
    let s := s.logFault ⟨0x04, 2, 0, 0, 0xFF, false, 2⟩
    if s.sec.shadowN == s.sec.shadow.compl then s else s.moduleFault 2

/-! ## Quarantine at a reset (R330) -/

/-- One nominee: a spare, or a core that serves an ID. -/
def State.quarantine (s : State) (n : Fin 272) : State :=
  if 256 ≤ n.val then
    let d := n.val - 256
    let sp := s.spareOf d
    let s := s.setSpare d (BitVec.ofNat 6 (32 + fldN sp 0 4))
    if fldN sp 4 2 = 1 then { s with withdrawn := s.withdrawn ++ [coreOf (d * 16 + fldN sp 0 4)] } else s
  else
    let c := coreOf n.val
    let d := districtOf c
    if s.physical c ≠ n ∨ s.withdrawn.contains c then s
    else if fldN (s.spareOf d) 4 2 = 0 then s.setSpare d (BitVec.ofNat 6 (16 + n.val % 16))
    else { s with withdrawn := s.withdrawn ++ [c] }

/-- SPARE_STATE as read: a spare that failed its self-test reads 2 (R416). -/
def State.spareState (s : State) (d : Nat) : BitVec 6 :=
  let sp := s.spareOf d
  if s.selfFail.contains (physOf (256 + d)) then BitVec.ofNat 6 (32 + fldN sp 0 4) else sp

/-- Entries of the offer follow the cores offered. -/
def State.showOffer (s : State) : State :=
  let bits := allCores.foldl (fun a c => if s.offered c then a + 2 ^ c.val else a) 0
  let s := s.setDN (dk 0x2520 1) (cnt s.offered allCores)
  let s := (List.range 4).foldl (fun s i => s.setDN (dk 0x2520 (2 + i)) (bits / 2 ^ (64 * i) % 2 ^ 64)) s
  let s := (List.range 16).foldl (fun s d => s.setDN (dk 0x2520 (8 + d)) (s.spareState d).toNat) s
  s.setDN (dk 0x2520 7) s.quar.length

/-- Pending nominations are applied, spares first. -/
def State.applyQuar (s : State) : State :=
  let l := s.quar
  let s := { s with quar := [], selfFail := [] }
  let s := (l.filter (fun n => decide (256 ≤ n.val))).foldl State.quarantine s
  ((l.filter (fun n => decide (n.val < 256))).foldl State.quarantine s).showOffer

/-! ## Resets of the module (R413, R414, Table 18-5) -/

/-- What a reset keeps of security state: fuses, flash and the staging store. -/
def Sec.kept (c : Sec) (doc : Bool) : Sec :=
  { Sec.reset with
    fuses := c.fuses, shadow := c.fuses, shadowN := c.fuses.compl, staged := c.staged
    tkA := c.tkA, tkB := c.tkB, sfA := c.sfA, sfB := c.sfB
    lastDoc := if doc then c.lastDoc else none
    jtag := c.jtag }

/-- Conditions that outlive a reset: pins, lockout, and RESET_CAUSE [12:8]. -/
def Board.kept (b : Board) (cause : Nat) : Board :=
  { Board.reset with
    en := b.en, pg := b.pg, lockout := b.lockout, slotId := b.slotId, refLost := b.refLost, resetPin := b.resetPin
    cause := BitVec.ofNat 16 (b.cause.toNat / 256 % 32 * 256 + cause) }

/-- A stack keeps its repair fuses and the nominations to apply. -/
def Stack.kept (t : Stack) : Stack := { Stack.reset with spares := t.spares, repairs := t.repairs }

/-- State that only fuses, flash, the staging store and the nominations outlive. -/
def State.coldState (s : State) (board : Board) : State :=
  { State.reset with
    pending := s.pending
    out := s.out
    free := s.free
    stackSts := (s.stackSts.map (fun e => (e.1, e.2.kept))).filter (fun e => e.2 != Stack.reset)
    sec := s.sec.kept false
    board := board
    withdrawn := s.withdrawn
    spares := s.spares
    quar := s.quar }

/-- Step 1 of the boot chain and what a reset applies: staged fuses, nominations of cores and rows. -/
def State.bootRom (s : State) (keep : Bool) : State :=
  let s := s.programFuses.applyQuar
  allStacks.foldl (fun s d => s.applyRepairs keep d) s

/-- Cold reset. -/
def State.coldReset (s : State) (cause : Nat) : State := (s.coldState (s.board.kept cause)).bootRom false

/-- Dictionary entries of module scope that a warm reset keeps: MODULE_TIME, ENERGY, INIT_DONE, PTABLE_GEN, error totals, and the
counters of the fault log. -/
def warmKeys : List Nat :=
  [modTimeKey, dk 0x2100 0x0A, dk 0x2201 3, dk 0x2205 1, dk 0x2205 2, dk 0x2205 3, dk 0x2205 5, dk 0x2205 6, dk 0x2500 8, dk 0x2542 1, dk 0x2542 3,
    dk 0x2600 3]

/-- Partitions that a document names. -/
def docParts (l : List Byte) : List PartId :=
  allParts.filter (fun p => (docItems l).any (fun i => [0x2210, 0x2310, 0x2610, 0x2620].any (fun b => i.idx == b + p.val)))

/-- Entries that a warm reset keeps of a partition's own indices. -/
def keptBlocks (p : PartId) (k : Nat) : Bool :=
  k / 2 ^ 24 == 0 && [0x2330, 0x2510, 0x2640].any (fun b => k / 256 == b + p.val)

/-- Contexts of the module are cleared, their epochs raised, their partitions unknown until the document is installed again. -/
def Core.warm (k : Core) : Core :=
  let f (x : Ctx) : Ctx := { Ctx.reset with epoch := nextEpoch x.epoch }
  { Core.reset with prim := f k.prim, fill := f k.fill }

/-- Core memory of every core is zero, and DRAM stays (R208, R413). -/
def Mem.warm (m : Mem) : Mem :=
  { m with
    cells := m.cells.filter (fun e => decide (e.1 < 2 ^ 40))
    units := m.units.filter (fun e => decide (e.1 < 2 ^ 34))
    headers := m.headers.filter (fun e => decide (e.1 < 2 ^ 28)) }

/-- Loss notices for every context that belongs to a partition, with the epoch it takes. -/
def State.warmNotices (s : State) : State :=
  allParts.foldl (fun s p =>
    let devs := s.voteDevs p
    (s.ctxsOf p).foldl (fun s e => s.sendLoss p devs s.ownDev (BitVec.ofNat 8 e.1.val) (ctxBit e.2) (nextEpoch (s.ctx e.1 e.2).epoch)) s) s

/-- What a partition keeps over a warm reset: its checkpoints, and whether its plan and groups are to be loaded again (R417). -/
def Part.warm (q : Part) (plan group : Bool) : Part :=
  { Part.reset with
    planReq := plan, groupReq := plan && group
    job := q.job
    ckpt := { Part.reset.ckpt with slot0 := q.ckpt.slot0, slot1 := q.ckpt.slot1, saved := q.ckpt.saved } }

/-- Notices that still wait for credits leave once their port has trained again (R297). -/
def Port.warm (q : Port) : Port := { Port.reset with txq := q.txq.filter (fun p => pTc p.hdr == 4) }

/-- Warm reset. -/
def State.warmReset (s : State) (cause : Nat) : State :=
  let s := s.warmNotices
  let ps := match s.sec.lastDoc with
    | some l => docParts l
    | none => []
  let keep (k : Nat) : Bool := warmKeys.contains k || ps.any (fun p => keptBlocks p k)
  let r : State := { State.reset with
    pending := s.pending
    out := s.out
    free := s.free
    mem := s.mem.warm
    cores := allCores.map (fun c => (c.val, (s.core c).warm))
    parts := ps.map (fun p => (p.val, (s.part p).warm (s.dN (dkx 0x2330 p 3) == 2) (s.dN (dkx 0x2640 p 3) == 2)))
    dict := s.dict.filter (fun e => keep e.1)
    ports := (s.ports.map (fun e => (e.1, e.2.warm))).filter (fun e => e.2 != Port.reset)
    dictN := s.dictN.filter (fun e => keep e.1)
    stackSts := s.stackSts.map (fun e => (e.1, { e.2 with filling := false, refreshed := [] }))
    faults := s.faults
    lead := { Lead.reset with pendingReplies := s.lead.pendingReplies.filter (fun e => e.2.1 == 1) }
    sec := s.sec.kept true
    board := { s.board.kept cause with tkWarm := true, energy := s.board.energy }
    withdrawn := s.withdrawn
    spares := s.spares
    quar := s.quar }
  let r := { r with
    cores := r.cores.filter (fun e => e.2 != Core.reset)
    parts := r.parts.filter (fun e => e.2 != Part.reset)
    stackSts := r.stackSts.filter (fun e => e.2 != Stack.reset) }
  let r := ps.foldl (fun r p => [dkx 0x2330 p 3, dkx 0x2640 p 3, dkx 0x2510 p 8, dkx 0x2510 p 0x0F].foldl (fun r k => r.setDN k 0) r) r
  r.bootRom true

/-- A request for a warm reset: ignored while RESET holds the module, and a cold reset while DRAM holds nothing to keep (R414). -/
def State.requestWarm (s : State) (cause : Nat) : State :=
  if s.board.resetPin then s
  else if !s.board.dramTrained ∨ (s.board.booting ∧ !s.board.tkWarm) then s.coldReset cause
  else s.warmReset cause

/-! ## Images (R379 to R381) -/

/-- Failure code of a bank's image under the fuses, 0 when it verifies. A module with one root hash boots nothing (R378). -/
def Image.code (i : Image) (f : Fuses) : Nat :=
  if i.fail = 9 then 9
  else if 1 ≤ i.fail ∧ i.fail ≤ 2 then i.fail
  else if f.hashRsa = 0 ∧ f.hashSlh ≠ 0 then 3
  else if i.fail = 3 then 3
  else if f.hashSlh = 0 ∧ f.hashRsa ≠ 0 then 4
  else if i.fail ≠ 0 then i.fail
  else if i.svn.toNat < f.count then 8
  else 0

/-- Outcome of loading an image type: the image and its bank (0 A, 1 B), and the code of the first bank tried. -/
structure Loaded where
  img : Option (Image × Nat)
  code : Nat
  deriving DecidableEq, Repr

def loadImage (a b : Image) (f : Fuses) : Loaded :=
  let bFirst := (a.magic || b.magic) && decide (a.version.toNat < b.version.toNat)
  let (x, y, nx, ny) := if bFirst then (b, a, 1, 0) else (a, b, 0, 1)
  let c := x.code f
  if c = 0 then ⟨some (x, nx), 0⟩
  else if y.code f = 0 then ⟨some (y, ny), c⟩
  else ⟨none, c⟩

/-! ## Updates (R385) -/

/-- Header bytes that Table 16-2 does not list. -/
def hdrReserved (i : Nat) : Bool :=
  decide (i = 18 ∨ i = 19 ∨ (24 ≤ i ∧ i < 32) ∨ (80 ≤ i ∧ i < 128) ∨ (564 ≤ i ∧ i < 1024) ∨ (17632 ≤ i ∧ i < 20480))

/-- The first of checks 3 to 7 of Table 16-3 that an image fails, 0 for none. While no root hash is fused, the manufacturing keys' hashes
stand for both (R378). -/
def imageCheck (h body : List Byte) (f : Fuses) : Nat :=
  let at' (i n : Nat) : List Byte := (h.drop i).take n
  let none' := decide (f.hashRsa = 0 ∧ f.hashSlh = 0)
  let rootR := if none' then Config.mfgHashRsa else f.hashRsa
  let rootS := if none' then Config.mfgHashSlh else f.hashSlh
  let part := h.take 1024
  if ofLe (sha384 (at' 128 388)) ≠ rootR.toNat then 3
  else if ofLe (sha384 (at' 516 48)) ≠ rootS.toNat then 4
  else if !rsaOk part (at' 128 4) (at' 132 384) (at' 1024 384) then 5
  else if !slhOk part (at' 516 48) (at' 1408 16224) then 6
  else if sha384 body ≠ at' 32 48 then 7
  else 0

/-- A staged image as its header gives it, with the first check of 1 to 7 it fails. -/
def stagedImage (h body : List Byte) (f : Fuses) (edition : Nat) : Image :=
  let at' (i n : Nat) : Nat := ofLe ((h.drop i).take n)
  let len := at' 20 4
  let bank := if at' 6 1 = 1 then 4194304 else 25165824
  let form := at' 0 4 == 0x4D494256 && at' 4 2 == 1 && decide (at' 8 4 < 2) && decide (len ≠ 0 ∧ len % 64 = 0 ∧ len ≤ bank - 20480) &&
    ((List.range h.length).zip h).all (fun e => !hdrReserved e.1 || e.2 == 0)
  let fail := if !form then 1
    else if !(at' 16 1 == 0xB1 && at' 17 1 == edition) then 2
    else imageCheck h body f
  ⟨true, BitVec.ofNat 32 (at' 12 4), BitVec.ofNat 8 (at' 7 1), at' 8 4 % 2 == 1, fail, BitVec.ofNat 384 (at' 32 48)⟩

/-- Where an update is staged: the lowest region of stack 0 that MOD_OWNER owns. -/
def State.updatePlace (s : State) : Option Nat :=
  let o := s.dN (dk 0x2600 2)
  if 16 ≤ o then none
  else ((List.range 64).find? (fun r => (s.d (dkx 0x2620 (partOf o) 1)).getLsbD r)).map (fun r => r * 2 ^ 30)

/-- Apply a pending update. -/
def State.applyUpdate (s : State) (tkBank : Nat) : State :=
  match s.updatePlace with
  | none => s
  | some k =>
    let (s, h, _) := s.readMem k 20480
    if ofLe (h.take 4) ≠ 0x4D494256 then s
    else
      let type := ofLe ((h.drop 6).take 1)
      let (s, body, _) := s.readMem (k + 20480) (Nat.min (ofLe ((h.drop 20).take 4)) 25165824)
      let f := s.sec.shadow
      let i := stagedImage h body f (s.dN (dk 0x2000 3))
      let code := if type ≠ 1 ∧ type ≠ 2 then 10 else i.code f
      let sfBank := match (loadImage s.sec.sfA s.sec.sfB f).img with
        | some e => e.2
        | none => 0
      let c := s.sec
      let c := if code ≠ 0 then c
        else if type = 1 then (if tkBank = 0 then { c with tkB := i } else { c with tkA := i })
        else if sfBank = 0 then { c with sfB := i } else { c with sfA := i }
      let s := { s with sec := c }.writeMerge Former.mgmt k [0, 0, 0, 0] []
      (s.setBoot 12 3 (if code = 0 then 1 else 2)).setBoot 8 4 code

/-! ## Boot chain (R382) -/

/-- The image that the trusted kernel runs. -/
def State.tkRuns (s : State) (i : Image) : State :=
  { s with sec := { s.sec with tkRun := some i }, board := { s.board with tkUp := true } }

/-- The trusted kernel runs from the image `i` of bank `n`: the ports and the companion link begin training. -/
def State.startKernel (s : State) (i : Image) (n : Nat) : State :=
  ((List.range 10).foldl (fun s n => s.setDN (ckPort n 1) 1) (((s.setBoot 28 4 1).setBoot 19 1 n).tkRuns i)).mclTrain

/-- TRUSTED_KERNEL_START (R382 steps 2 and 3, R417, R418). -/
def execTrustedKernelStart (s : State) : Host.Outcome State Fault Refusal :=
  let b := s.board
  if !b.en ∨ !b.pg ∨ b.resetPin ∨ !b.booting ∨ b.tkUp ∨ b.halt then .next s
  else
    let s := s.useShadow
    let r := loadImage s.sec.tkA s.sec.tkB s.sec.shadow
    let s := (s.setBoot 24 4 r.code).setBoot 0 6 s.sec.shadow.count
    match r.img with
    | none => .next { s.setBoot 28 4 3 with board := { s.board with halt := true } }
    | some (i, n) =>
      let s := s.startKernel i n
      let s := match s.sec.lastDoc with
        | some l => if b.tkWarm then s.install l else s
        | none => s
      .next (s.applyUpdate n)

/-- Kept plans are loaded again by the service firmware (R417). -/
def State.reloadPlans (s : State) : State :=
  allParts.foldl (fun s p =>
    if (s.part p).planReq then (s.modPart p (fun q => { q with planReq := false })).planLoad p else s) s

/-- The count that the running images of both stages allow (R384). -/
def State.newCount (s : State) (i : Image) : Nat :=
  match s.sec.tkRun with
  | some t => if t.adv && i.adv then Nat.min t.svn.toNat i.svn.toNat else 0
  | none => 0

/-- The count rises: the kernel may program ANTI_ROLLBACK, which it may once FUSE_LOCK is set (Table 16-1), and both images ask for more. -/
def State.rises (s : State) (i : Image) : Bool := s.sec.fuses.lock && decide (s.sec.shadow.count < s.newCount i)

/-- The fuses after the count has risen to what the running images allow. -/
def State.risenFuses (s : State) (i : Image) : Fuses :=
  if s.rises i then { s.sec.fuses with arb := s.sec.fuses.arb ||| BitVec.ofNat 32 (2 ^ s.newCount i - 1) }
  else s.sec.fuses

/-- The image that the service firmware runs, with the fuses and their shadow after the rise. -/
def State.sfRuns (s : State) (i : Image) : State :=
  { s with
    sec := { s.sec with sfRun := some i, fuses := s.risenFuses i, shadow := s.risenFuses i, shadowN := (s.risenFuses i).compl }
    board := { s.board with sfUp := true, booting := false } }

/-- The service firmware runs from the image `i` of bank `n`: the anti-rollback count rises, and the module says that it is up. -/
def State.startFirmware (s : State) (i : Image) (n : Nat) : State :=
  let t := ((s.setBoot 28 4 2).setBoot 18 1 n).sfRuns i
  let u := (t.setBoot 15 1 (b2n (s.rises i))).setBoot 0 6 (s.risenFuses i).count
  (u.emit (.bootup u.nodeId)).reloadPlans.regroup.retargetAll.settle

/-- SERVICE_FIRMWARE_START (R382 steps 4 and 5, R384). -/
def execServiceFirmwareStart (s : State) : Host.Outcome State Fault Refusal :=
  let b := s.board
  if !b.tkUp ∨ b.sfUp ∨ b.halt then .next s
  else
    let s := s.useShadow
    let r := loadImage s.sec.sfA s.sec.sfB s.sec.shadow
    let s := s.setBoot 20 4 r.code
    match r.img with
    | none => .next { s with board := { s.board with halt := true, booting := false } }
    | some (i, n) => .next (s.startFirmware i n)

/-- DRAM_TRAINING_DONE (R415). -/
def execDramTrainingDone (failed : W16) (s : State) : Host.Outcome State Fault Refusal :=
  if !s.board.pg ∨ s.board.resetPin ∨ s.board.dramTrained ∨ s.stage = 3 then .next s
  else
    let s := allStacks.foldl (fun s d => if failed.getLsbD d.val then s.degrade d else s) s
    .next { s with board := { s.board with dramTrained := failed == 0 } }

/-- SELF_TEST_DONE (R416): failing cores are nominated and not offered. -/
def execSelfTestDone (failed : List (Fin 272)) (s : State) : Host.Outcome State Fault Refusal :=
  if !s.board.pg ∨ s.board.resetPin ∨ s.board.coresDone then .next s
  else
    let s := failed.foldl State.nominate s
    .next { s with selfFail := failed, board := { s.board with coresDone := true } }.showOffer.retargetAll

end Sys2Proof.Machine
end

