-- ==== Sys2Proof/Machine/Board.lean ====
section
/-!
DEFINITION. The board's side: power and reset pins (R394, R409, R412), the SMBus commands of P-SB (R389, R408), readiness (R410), and
P-JTAG (R391).
-/
namespace Sys2Proof.Machine

/-! ## Power and reset pins -/

/-- Power is gone: everything that does not live in fuses or flash is lost (R376, R409). -/
def State.powerOff (s : State) (board : Board) : State :=
  let t := s.coldState board
  { t with
    stackSts := (t.stackSts.map (fun e => (e.1, { e.2 with repairs := [] }))).filter (fun e => e.2 != Stack.reset)
    quar := []
    sec := { t.sec with staged := Fuses.zero, jtag := .bypass, extest := false } }

/-- Pins of a module without power. -/
def Board.dark (b : Board) (lockout : Bool) : Board :=
  { Board.reset with en := b.en, pg := false, resetPin := b.resetPin, lockout := lockout, fresh := true, booting := false, refLost := b.refLost }

/-- A lockout: converters off and PG deasserted until EN is cycled (R394). -/
def State.lockOut (s : State) : State := s.powerOff (s.board.dark true)

/-- UNDERVOLTAGE_LOCKOUT. -/
def execUndervoltageLockout (mv : W16) (s : State) : Host.Outcome State Fault Refusal :=
  .next (if s.board.en ∧ mv.toNat < 38000 then s.lockOut else s)

/-- OVERVOLTAGE_LOCKOUT. -/
def execOvervoltageLockout (mv : W16) (s : State) : Host.Outcome State Fault Refusal :=
  .next (if s.board.en ∧ 61000 < mv.toNat then s.lockOut else s)

/-- EN_ASSERT: the converters start. -/
def execEnAssert (s : State) : Host.Outcome State Fault Refusal := .next (s.modBoard (fun b => { b with en := true }))

/-- EN_DEASSERT. -/
def execEnDeassert (s : State) : Host.Outcome State Fault Refusal := .next (s.powerOff { s.board.dark false with en := false })

/-- POWER_GOOD: the converters have settled. -/
def execPowerGood (s : State) : Host.Outcome State Fault Refusal :=
  .next (if s.board.en ∧ !s.board.lockout then s.modBoard (fun b => { b with pg := true }) else s)

/-- RESET_ASSERT: the module is held in reset. -/
def execResetAssert (s : State) : Host.Outcome State Fault Refusal :=
  if s.board.resetPin then .next s
  else .next (s.coldState { s.board.kept (fldN s.board.cause 0 4) with resetPin := true, booting := false, fresh := s.board.fresh })

/-- RESET_RELEASE (R412, R413): the slot is sampled and a cold reset runs. -/
def execResetRelease (slotId : BitVec 6) (s : State) : Host.Outcome State Fault Refusal :=
  let b := s.board
  if !b.resetPin then .next s
  else if !b.pg then .next (s.modBoard (fun b => { b with resetPin := false }))
  else .next ((s.modBoard (fun b => { b with resetPin := false, slotId := slotId })).coldReset (if b.fresh then 1 else 2))

/-! ## Readiness (R410) -/

/-- The readiness byte. -/
def State.readiness (s : State) : Byte :=
  let b := s.board
  BitVec.ofNat 8 (b2n b.sfUp + 2 * b2n b.dramTrained + 4 * b2n b.coresDone +
    8 * b2n (s.dN (dk 0x2201 3) == 0xFFFF || s.dN (dk 0x2202 2) == 1) + 16 * b2n s.mclActive + 32 * b2n (s.ownDev != 0xFFFF) +
    64 * b2n (allPorts.all (fun n => (s.portSt n).leftTraining)) + 128 * b2n b.halt)

/-! ## P-SB (R389, R408) -/

/-- A command of Table 18-1: answered whenever PG is asserted; one whose PEC fails is ignored. -/
def State.psb (s : State) (pecOk : Bool) (f : State → State) : Host.Outcome State Fault Refusal :=
  .next (if pecOk && s.board.pg then f s else s)

/-- A command of Table 16-6: answered by the trusted kernel. -/
def State.psbKernel (s : State) (pecOk : Bool) (f : State → State) : Host.Outcome State Fault Refusal :=
  s.psb pecOk (fun s => if s.board.tkUp then f s else s)

/-- CONFIG_BUFFER_WRITE. -/
def execConfigBufferWrite (pecOk : Bool) (bytes : List Byte) (s : State) : Host.Outcome State Fault Refusal :=
  s.psbKernel pecOk (fun s =>
    let c := s.sec
    let room := 65536 - c.cfgBuf.length
    let ovf := decide (room < bytes.length)
    { s with sec := { c with
      cfgBuf := c.cfgBuf ++ bytes.take room
      cfgOvf := c.cfgOvf || ovf
      cfgResult := if ovf then 3 else c.cfgResult } })

/-- Empty the configuration buffer. -/
def Sec.emptied (c : Sec) : Sec := { c with cfgBuf := [], cfgOvf := false }

/-- CONFIG_INSTALL (R390). -/
def execConfigInstall (pecOk : Bool) (s : State) : Host.Outcome State Fault Refusal :=
  s.psbKernel pecOk (fun s =>
    let l := s.sec.cfgBuf
    let s := s.useShadow
    let (code, item) := s.docCode l s.sec.cfgOvf
    let s := { s with sec := { s.sec.emptied with cfgResult := BitVec.ofNat 16 (item * 256 + code) } }
    if code = 0 then (s.install l).settle else s)

/-- CONFIG_RESULT_READ. -/
def execConfigResultRead (pecOk : Bool) (s : State) : Host.Outcome State Fault Refusal :=
  s.psbKernel pecOk (fun s => s.emit (.smbus (leBytes 2 s.sec.cfgResult.toNat)))

/-- BOOT_STATUS_READ. -/
def execBootStatusRead (pecOk : Bool) (s : State) : Host.Outcome State Fault Refusal :=
  s.psb pecOk (fun s => s.emit (.smbus (leBytes 4 (s.dN bootKey))))

/-- CONFIG_BUFFER_EMPTY. -/
def execConfigBufferEmpty (pecOk : Bool) (s : State) : Host.Outcome State Fault Refusal :=
  s.psbKernel pecOk (fun s => { s with sec := s.sec.emptied })

/-- WARM_RESET_COMMAND. -/
def execWarmResetCommand (pecOk : Bool) (s : State) : Host.Outcome State Fault Refusal := s.psb pecOk (fun s => s.requestWarm 4)

/-- COLD_RESET_COMMAND. -/
def execColdResetCommand (pecOk : Bool) (s : State) : Host.Outcome State Fault Refusal :=
  s.psb pecOk (fun s => if s.board.resetPin then s else s.coldReset 3)

/-- READINESS_READ. -/
def execReadinessRead (pecOk : Bool) (s : State) : Host.Outcome State Fault Refusal := s.psb pecOk (fun s => s.emit (.smbus [s.readiness]))

/-- RESET_CAUSE_READ. -/
def execResetCauseRead (pecOk : Bool) (s : State) : Host.Outcome State Fault Refusal :=
  s.psb pecOk (fun s => s.emit (.smbus (leBytes 2 s.board.cause.toNat)))

/-! ## P-JTAG (R391) -/

/-- JTAG_INSTRUCTION: EXTEST acts only while RESET is asserted, and is BYPASS otherwise. Naroth's debug instructions exist only while
DEBUG_LOCK is clear, and what they do is not described. -/
def execJtagInstruction (ir : JtagIr) (s : State) : Host.Outcome State Fault Refusal :=
  let put (ir : JtagIr) (ext : Bool) : Host.Outcome State Fault Refusal :=
    .next ({ s with sec := { s.sec with jtag := ir, extest := ext } }.emit (.jtag ir))
  match ir with
  | .debug => if s.sec.shadow.debugLock then put .bypass false else .refused .debugInstruction
  | .extest => if s.board.resetPin then put .extest true else put .bypass false
  | ir => put ir false

end Sys2Proof.Machine
end

