-- ==== Sys2Proof/Machine/Tensor.lean ====
section
/-!
DEFINITION. The tensor engine (R83 to R107): operand tiles, the arithmetic of each mode, the descriptor and header checks, the TENSOR
command and the K tiles of an operation.
-/
namespace Sys2Proof.Machine

/-! ## Operand tiles -/

/-- An image as an operand. -/
def Mem.imgOperand (m : Mem) (k : Nat) (h : BitVec 512) : Operand where
  fmt := ihFmt h
  gsz := ihGsz h
  texp := ihTexp h
  rotb := ihRotb h
  key := ihKey h
  kcoord := if ihOri h = 1 then ihCol0 h else ihRow0 h
  alongRows := decide (ihOri h = 1)
  tr := ihTrouble h
  groups := if ihFmt h ≤ 4 then rowsOf (128 / gsize (ihGsz h)) 128 (m.imgGroups k h) else []
  rows :=
    if ihFmt h ≤ 4 then []
    else if ihFmt h ≤ 6 then
      List.zip ((elemsLe 4 128 (m.bytes (k + 64) 512)).map (BitVec.ofNat 32)) (rowsOf 128 128 ((m.bytes (k + 576) 16384).map BitVec.toNat))
    else (rowsOf 128 128 (elemsLe 2 16384 (m.bytes (k + 64) 32768))).map (fun r => (0x3F800000, r))
  conv := none

/-- A quantised tile as an operand; `conv` is what converting it raised. -/
def QCtl.operand (p : QCtl) (t : QTile) (conv : Option Conv) : Operand where
  fmt := p.fmt
  gsz := p.gsz
  texp := p.texp
  rotb := p.rotb
  key := p.key
  kcoord := if p.cols then p.row0 else p.col0
  alongRows := !p.cols
  tr := t.tr
  groups := if p.fmt ≤ 4 then t.lines.map (fun l => l.groups.map (fun g => ⟨metaOf g.word, g.codes, g.recs⟩)) else []
  rows := if p.fmt ≤ 4 then [] else t.lines.map (fun l => (pow2w l.e, l.codes))
  conv := conv

/-- Units of a summary (R112). -/
def Operand.units (o : Operand) : Nat := if o.fmt ≤ 4 then 16384 / gsize o.gsz else 128

/-- Gauze records of groups whose metadata is not bad. -/
def Operand.recCount (o : Operand) : Nat :=
  (o.groups.flatten.filter (fun g => !g.md.bad g.codes.length)).foldl (fun a g => a + g.recs.length) 0

/-! ## Narrow modes (R90 to R92) -/

/-- Elements of groups whose metadata is bad: each counts as non-finite (R48). -/
def Operand.badElems (o : Operand) : Nat :=
  (o.groups.flatten.filter (fun g => g.md.bad g.codes.length)).foldl (fun a g => a + g.codes.length) 0

/-- One group of an operand line: whether its metadata is bad, whether it holds an activation that is not finite, its effective scale sm x 2^se, its narrow integers, its records, and what its
elements dequantise to. -/
structure KGroup where
  bad : Bool
  act : Bool
  sm : Nat
  se : Int
  ints : List Int
  recs : List (Nat × W32)
  fmt : Nat
  texp : Byte
  md : Meta
  sigma : W32
  codes : List Nat
  deriving DecidableEq, Repr

/-- An operand element in FP32; a signalling NaN stays one, so that the operation it enters raises invalid (R95). -/
def widenOp (f : Fmt) (c : Nat) : W32 := if (unpack f c).isSnan then 0x7FA00000 else (widen f c).1

/-- A group of a short format (Table 4-5). -/
def kgroup (fmt : Nat) (texp : Byte) (g : ImgGroup) : KGroup where
  bad := g.md.bad g.codes.length
  act := false
  sm := vs8n g.md.vs8
  se := texp.toInt - 17
  ints := g.codes.map (codeInt fmt (zpOf fmt g.md.zp))
  recs := g.recs.map (fun r => (r.1, widenOp bf16 r.2))
  fmt := fmt
  texp := texp
  md := g.md
  sigma := 0
  codes := g.codes

/-- An E4M3 value times 2^9. -/
def e4m3Int (c : Nat) : Int :=
  match unpack e4m3 c with
  | .fin n m e => signedMag n (m * 2 ^ (e + 9).toNat)
  | _ => 0

/-- A run of W2A8 activations; one that is not finite after scaling makes the main sum qNaN (R91). -/
def actGroup (sigma : W32) (cs : List Nat) : KGroup where
  bad := false
  act := cs.any (fun c => !isFinite32 (fp8Scaled e4m3 c sigma).1)
  sm := (dy sigma).1.natAbs
  se := (dy sigma).2
  ints := cs.map (fun c => if (up sigma).neg then -(e4m3Int c) else e4m3Int c)
  recs := []
  fmt := 5
  texp := 0
  md := ⟨0, 0, 0⟩
  sigma := sigma
  codes := cs

/-- Element p of a group dequantised to FP32, with the exceptions that this raises (R35, R55, R92). -/
def KGroup.deq (g : KGroup) (p : Nat) : W32 × Flags :=
  let c := g.codes.getD p 0
  if g.fmt = 5 then fp8Scaled e4m3 c g.sigma
  else if g.md.vs8 = 0 then (0, {})
  else dequantCode g.fmt g.texp g.md c

/-- Groups of an operand line, for the group size of the K axis. -/
def Operand.kgroups (o : Operand) (g : Nat) : List (List KGroup) :=
  if o.fmt ≤ 4 then o.groups.map (fun l => l.map (kgroup o.fmt o.texp))
  else o.rows.map (fun r => (rowsOf g (128 / g) r.2).map (actGroup r.1))

/-- The exact value of a value times 2^c, rounded once (R92). -/
def roundShift (x : Fp) (c : Int) : W32 × Flags :=
  match x with
  | .fin n m e => w32 (roundFp fp32 (.fin n m (e + c)))
  | _ => w32 (roundFp fp32 x)

/-- A gauze term: a record's value times its partner, which may have been dequantised for it (R92). -/
def gaugeTerm (x : W32) (y : W32 × Flags) (c : Int) : W32 × Flags :=
  let (p, inv) := mulExact (up x) (up y.1)
  let (r, fl) := roundShift p c
  (r, (y.2.or fl).or { inv := inv })

/-- Add with flags. -/
def addTo (a : W32 × Flags) (x : W32 × Flags) : W32 × Flags :=
  let (r, fl) := fadd a.1 x.1
  (r, (a.2.or x.2).or fl)

/-- The term of position p, if there is one (R92). -/
def termAt (a b : KGroup) (c : Int) (p : Nat) : Option (W32 × Flags) :=
  match a.recs.find? (fun r => r.1 == p), b.recs.find? (fun r => r.1 == p) with
  | some x, some y => some (gaugeTerm x.2 (y.2, {}) c)
  | some x, none => some (gaugeTerm x.2 (b.deq p) c)
  | none, some y => some (gaugeTerm y.2 (a.deq p) c)
  | none, none => none

/-- Positions at which group g of some line has a record that applies. -/
def recPos (ls : List (List KGroup)) (g : Nat) : List Nat :=
  (ls.flatMap (fun l => match l[g]? with
    | some k => if k.bad then [] else k.recs.map (·.1)
    | none => [])).eraseDups

/-- Elements of group g of the lines that records of the other operand, at positions `ps`, meet and that dequantise beyond the FP32 range
(R55). -/
def infAt (ls : List (List KGroup)) (g : Nat) (ps : List Nat) : Nat :=
  ls.foldl (fun a l => match l[g]? with
    | some k => if k.bad || k.fmt == 5 then a
      else a + (ps.filter (fun p => k.recs.all (fun r => r.1 != p) && !isFinite32 (k.deq p).1)).length
    | none => a) 0

/-- Gauze partners of a K tile that count as non-finite: each element once (R55, log entry 86). -/
def infPartners (as bs : List (List KGroup)) (n : Nat) : Nat :=
  (List.range n).foldl (fun a g => a + infAt bs g (recPos as g) + infAt as g (recPos bs g)) 0

def dotInt (a b : List Int) : Int := (List.zipWith (fun (x y : Int) => x * y) a b).foldl (· + ·) 0

/-- One group of one output element (R91); `u` is the exponent of the unit and `c` that of the rotation correction. -/
def accGroup (u c : Int) (acc : W32 × Flags) (ab : KGroup × KGroup) : W32 × Flags :=
  let (a, b) := ab
  if a.bad || b.bad then addTo acc (qnan32, {})
  else
    let acc := if a.recs.isEmpty && b.recs.isEmpty then acc
      else (List.range a.ints.length).foldl (fun acc p => match termAt a b c p with
        | some t => addTo acc t
        | none => acc) acc
    let nsum := dotInt a.ints b.ints
    if a.act || b.act then addTo acc (qnan32, {})
    else if nsum = 0 ∨ a.sm = 0 ∨ b.sm = 0 then acc
    else
      let (n, f1) := rneDy nsum 0
      let (p, f2) := rneDy ((dy n).1 * a.sm * b.sm) ((dy n).2 + a.se + b.se + u + c)
      addTo acc (p, f1.or f2)

/-- Exponent of the mode's unit (Table 4-5). -/
def unitExp (mode : Nat) : Int := if mode = 1 then -2 else if mode = 2 then -9 else 0
/-- Exponent of the rotation correction (R64, R90). -/
def rotCorr (rotb : Nat) : Int := if rotb = 1 ∨ rotb = 3 then 1 else 0

/-! ## Wide modes (R93, R94) -/

/-- One level of the tree: neighbours are added. -/
def pairSums : List (W32 × Flags) → List (W32 × Flags)
  | a :: b :: t => addTo a b :: pairSums t
  | l => l

def treeGo : Nat → List (W32 × Flags) → W32 × Flags
  | 0, l => l.headD (0, {})
  | n + 1, l => treeGo n (pairSums l)

/-- Products of two lines. -/
def products (a b : List W32) : List (W32 × Flags) := List.zipWith fmul a b

/-- A K tile of one output element in mode 0x3 (R93). -/
def accFp8 (acc : W32 × Flags) (a b : W32 × List W32) : W32 × Flags :=
  (List.range 4).foldl (fun acc c =>
    let t := treeGo 5 (products ((a.2.drop (32 * c)).take 32) ((b.2.drop (32 * c)).take 32))
    let (x, i1) := mulExact (up t.1) (up a.1)
    let (y, i2) := mulExact x (up b.1)
    let (r, fl) := w32 (roundFp fp32 y)
    addTo acc (r, (t.2.or fl).or { inv := i1 || i2 })) acc

/-- A K tile of one output element in modes 0x4 and 0x5 (R94). -/
def accBf16 (acc : W32 × Flags) (a b : List W32) : W32 × Flags := addTo acc (treeGo 7 (products a b))

/-! ## A K tile of the whole output (R91, R93, R94) -/

/-- Apply `f` to every output element: element (i, j) takes line i of A and line j of B. -/
def overTile {α β : Type} (f : W32 × Flags → α → β → W32 × Flags) (acc : List W32) (as : List α) (bs : List β) : List W32 × Flags :=
  let rows : List (List (W32 × Flags)) := List.zipWith (fun (a : α) (r : List W32) => List.zipWith (fun (b : β) (x : W32) => f (x, {}) a b) bs r)
    as (rowsOf 128 128 acc)
  (rows.flatMap (fun r => r.map (·.1)), Flags.join (rows.map (fun r => Flags.join (r.map (·.2)))))

/-- FP8 elements widened. -/
def Operand.fp8Lines (o : Operand) : List (W32 × List W32) :=
  o.rows.map (fun r => (r.1, r.2.map (widenOp (fp8Fmt o.fmt))))
def Operand.bf16Lines (o : Operand) : List (List W32) := o.rows.map (fun r => r.2.map (widenOp bf16))

/-- Accumulate one K tile in the arithmetic of a mode. -/
def accumulate (mode : Nat) (acc : List W32) (a b : Operand) : List W32 × Flags :=
  if mode ≤ 2 then
    let g := gsize b.gsz
    let c := rotCorr b.rotb
    overTile (fun x (la lb : List KGroup) => (List.zip la lb).foldl (accGroup (unitExp mode) c) x) acc (a.kgroups g) (b.kgroups g)
  else if mode = 3 then overTile accFp8 acc a.fp8Lines b.fp8Lines
  else overTile accBf16 acc a.bf16Lines b.bf16Lines

/-- Gauze partners of a K tile that are not finite. -/
def tileInf (mode : Nat) (a b : Operand) : Nat :=
  if mode ≤ 2 then
    let g := gsize b.gsz
    infPartners (a.kgroups g) (b.kgroups g) (128 / g)
  else 0

/-! ## Checks (R88, R89) -/

/-- A destination format fits operand A or B of a mode (Table 4-1). DESIGN CHOICE (log entry 86): an FP8 or BF16 format whose ROTB is not
0b00, which Table 3-2 excludes, fits no mode. -/
def fitsMode (mode : Nat) (b : Bool) (fmt gsz rotb : Nat) : Bool :=
  if 5 ≤ fmt ∧ rotb ≠ 0 then false
  else match mode with
    | 0 => fmt == 0
    | 1 => fmt == 1
    | 2 => if b then (fmt == 2 && gsz == 0) || fmt == 3 || fmt == 4 else fmt == 5
    | 3 => fmt == 5 || fmt == 6
    | _ => fmt == 7

/-- The header checks of R89 on a pair of operand tiles. -/
def pairOk (d : BitVec 1536) (a b : Operand) : Bool :=
  let mode := tdMode d
  fitsMode mode false a.fmt a.gsz a.rotb && fitsMode mode true b.fmt b.gsz b.rotb &&
    (decide (2 ≤ mode) || a.gsz == b.gsz) &&
    a.alongRows == !(kRows false (toTr (tdOperand d false))) && b.alongRows == !(kRows true (toTr (tdOperand d true))) &&
    a.rotb == b.rotb && (a.rotb == 0 || (a.key == b.key && a.kcoord == b.kcoord))

/-- A QPW holds a reserved encoding in a field that the main path uses. -/
def qpwReserved (q : W128) : Bool := decide (8 ≤ qFmt q) || decide (qGsz q = 3)

/-- Refusals of one operand section (R88). -/
def State.operandBad (s : State) (c : CoreId) (mode : Nat) (ldr : Bool) (d : BitVec 1536) (b : Bool) : Bool :=
  let o := tdOperand d b
  (toKind o && decide (4 < toSrcFmt o)) || (ldr && decide (4 < toFbFmt o)) ||
    (toKind o && (qpwReserved (toQpw o) || !fitsMode mode b (qFmt (toQpw o)) (qGsz (toQpw o)) (qRotb (toQpw o)))) ||
    !s.inOwnCore c (toAddr o) 1 || (!toKind o && decide (aOff (toAddr o) % 64 ≠ 0)) ||
    (ldr && decide (1 < aSpace (toFb o))) ||
    (mode == 5 && (!toKind o || decide (toSrcFmt o ≠ 1)))

/-- MODE of the bank that the context will hold when the operations it has are done; none when it will hold none. -/
def Ctx.heldMode (k : Ctx) : Option Nat :=
  k.tenq.foldl (fun h o =>
    if tdHold o.desc then some (tdMode o.desc) else if tdAcc o.desc = 1 then none else h) (k.held.map (fun b => b.mode.toNat))

/-- The refusals of R88. -/
def State.tensorBad (s : State) (c : CoreId) (x : CtxId) (d : BitVec 1536) : Bool :=
  let mode := tdMode d
  let ldr := s.tdLdrOn (s.partD c x) d
  let a := tdOperand d false
  let b := tdOperand d true
  let held := (s.ctx c x).heldMode
  decide (5 < mode) || decide (tdAcc d = 3) || s.operandBad c mode ldr d false || s.operandBad c mode ldr d true ||
    (toKind a && toKind b &&
      ((decide (mode ≤ 1) && decide (qGsz (toQpw a) ≠ qGsz (toQpw b))) || decide (qRotb (toQpw a) ≠ qRotb (toQpw b)) ||
        (decide (qRotb (toQpw a) ≠ 0) && decide (qKey (toQpw a) ≠ qKey (toQpw b))))) ||
    (decide (tdAcc d = 2) && (!s.inOwnCore c (tdC d) 1 || decide (aOff (tdC d) % 64 ≠ 0))) ||
    (decide (tdAcc d = 1) && decide (held ≠ some mode)) || (decide (tdAcc d ≠ 1) && held.isSome)

/-- Nonzero reserved bits of a TENSOR descriptor, the quantisation words that it uses included: one event (R5, R88; log entry 44). -/
def tdEvents (d : BitVec 1536) : Nat :=
  let sect (b : Bool) : Bool :=
    let o := tdOperand d b
    fldN o 0 110 != 0 || (toKind o && decide (fldN (toQpw o) 0 33 ≠ 0))
  b2n (fldN d 0 358 != 0 || sect false || sect true)

/-- RND fields that a main-path destination does not accept (R30). -/
def tdRndEvents (d : BitVec 1536) : Nat :=
  let sect (b : Bool) : Nat :=
    let o := tdOperand d b
    b2n (toKind o && rndBad (qFmt (toQpw o)) (qRnd (toQpw o)))
  sect false + sect true

/-! ## TENSOR (R88, R113, R120, R314) -/

def pinDflt : Nat → Pin := fun _ => ⟨0, 0, 16, 0xFFFF⟩
def Part.pin (q : Part) (layer : Nat) : Pin := SMap.get pinDflt q.pins layer

/-- Starting rung of a mode (Table 5-1). -/
def modeRung (mode : Nat) : Nat := if mode ≤ 2 then 1 else if mode = 3 then 2 else 3

/-- Rung at which an operation starts (R113). -/
def State.startRung (s : State) (p : PartId) (d : BitVec 1536) : Nat :=
  if s.tdLdrOn p d then Nat.max (modeRung (tdMode d)) ((s.part p).pin (tdLayer d).toNat).prung else modeRung (tdMode d)

/-- DAMASK_SHIFT as it acts (R314). -/
def damaskShift (k : Nat) : Nat := if k = 0 then 0 else if k < 4 then 4 else Nat.min k 16

/-- Operation q of a context in a step is sampled (R314). -/
def sampledOp (shift : Nat) (seed : W64) (core : CoreId) (ctx : Bool) (step q : W32) : Bool :=
  if damaskShift shift = 0 then false
  else
    let h := mix64 (seed ^^^ BitVec.ofNat 64 (core.val * 2 + b2n ctx))
    let h := mix64 (h ^^^ ((step.zeroExtend 64 <<< 32) ||| q.zeroExtend 64))
    decide (h.toNat / 2 ^ (64 - damaskShift shift) = 0)

/-- A refused operation: TEN.STATUS.DESCERR and its count (R88). -/
def State.tenRefuse (s : State) (c : CoreId) (x : CtxId) (id : Nat) : State :=
  (s.modCtx c x (fun k => { k with ten := { k.ten with descerr := true, descerrcnt := k.ten.descerrcnt + 1 } })).setStatus c x id stDesc

/-- Work of a TENSOR at issue. -/
def State.tensorCmd (w : W256) (i : Issued) (s : State) : State :=
  let d := s.tdesc i.core i.doff
  let p := s.partD i.core i.ctx
  let s := s.modCtx i.core i.ctx (fun k => { k with
    ten := { k.ten with rsvcnt := k.ten.rsvcnt + BitVec.ofNat 32 (tdEvents d) }
    qnt := { k.qnt with rsvcnt := k.qnt.rsvcnt + BitVec.ofNat 32 (tdRndEvents d) } })
  if s.tensorBad i.core i.ctx d then s.tenRefuse i.core i.ctx i.id
  else
    let q := (s.ctx i.core i.ctx).tenCount
    let o : TenOp := {
      id := i.id
      desc := d
      ptok := if dPen w then some (dPtok w) else none
      t := 0
      acc := []
      init := []
      started := false
      poisoned := false
      rung := modeRung (tdMode d)
      startRung := s.startRung p d
      summary := {}
      stage := .running
      step := i.step
      sampled := sampledOp (s.dN (dkx 0x2510 p 1)) (s.d (dkx 0x2510 p 2)) i.core (ctxBit i.ctx) (i.step.setWidth 32) q
      stopped := false
      use := {}
      tiles := [] }
    s.modCtx i.core i.ctx (fun k => { k with tenq := k.tenq ++ [o], tenCount := k.tenCount + 1 })

/-- TENSOR (R88). -/
def execTensor (sl : Slot) (w : W256) (s : State) : Host.Outcome State Fault Refusal :=
  s.dispatch sl w 0x10 (withDesc 0x10 (State.tensorCmd w))

/-! ## Reading operands (R87, R89, R104) -/

/-- Where K tile t of a source lies (R87). -/
structure SrcTile where
  off : Nat
  fmt : Nat
  stride : Nat
  rows : Nat
  cols : Nat
  row0 : W32
  col0 : W32
  deriving DecidableEq, Repr

/-- K tile t of an operand's source, or of its fall-back source. -/
def srcTileOf (d : BitVec 1536) (b fb : Bool) (t : Nat) : SrcTile :=
  let o := tdOperand d b
  let fmt := if fb then toFbFmt o else toSrcFmt o
  let stride := if fb then toFbStride o else toStride o
  let ne := (if b then tdNM1 d else tdMM1 d).toNat + 1
  let ke := if t + 1 = tdKt d then tdKlast d else 128
  if kRows b (toTr o) then ⟨128 * t * stride, fmt, stride, ke, ne, toRow0 o + BitVec.ofNat 32 (128 * t), toCol0 o⟩
  else ⟨128 * t * srcBytes fmt, fmt, stride, ne, ke, toRow0 o, toCol0 o + BitVec.ofNat 32 (128 * t)⟩

def SrcTile.source (t : SrcTile) (key : Nat) : QSource := ⟨t.fmt, key + t.off, t.stride, 0, t.rows, t.cols⟩

/-- QPW of an unconverted or fall-back operand: E4M3 with row scales or BF16, RNE, no rotation (R96, R109). -/
def plainQpw (fmt : Nat) : W128 := BitVec.ofNat 128 (fmt * 2 ^ 35)

/-- What reading an operand tile gives. -/
inductive OpRead where
  | ok (o : Operand) (r : ReadChk)
  | header
  | refused (k : Chk)
  deriving DecidableEq, Repr

/-- The checks on the memory that an operand or an initial tile takes: R17 and R19, and the context's own area, which a read may not leave
(R89). -/
def State.tenKeys (s : State) (c : CoreId) (x : CtxId) (rs : List (Nat × Nat)) : Chk :=
  let k := s.checkKeys (s.partD c x) rs
  if k ≠ .ok then k
  else if rs.all (fun e => decide (ckey c (s.area c x).1 ≤ e.1 ∧ e.1 + e.2 ≤ ckey c (s.area c x).2)) then .ok
  else .addr

/-- A main-path operand: the source is read, checked and quantised; in mode 0x5 it passes unconverted (R87, R96). -/
def State.mainOperand (s : State) (c : CoreId) (x : CtxId) (op : TenOp) (b : Bool) : State × OpRead :=
  let d := op.desc
  let o := tdOperand d b
  let t := srcTileOf d b false op.t
  let q := t.source (aKey (toAddr o))
  let p := s.partD c x
  let rs := s.mem.srcRanges q
  let k := s.tenKeys c x rs
  if k ≠ .ok then (s.refuse k, .refused k)
  else
    let (s, r) := s.checkRanges rs
    let (tile, f1) := s.mem.srcTile q
    let plain := decide (tdMode d = 5)
    let qpw := if plain then plainQpw 7 else toQpw o
    let ctl := qctl qpw (kRows b (toTr o)) true t.row0 t.col0 op.step (s.seeds p op.step)
    let qt := ctl.tile tile
    (s, .ok (ctl.operand qt (some ⟨if plain then f1 else f1.or qt.fl, if plain then none else some (qTensor qpw), r.bad⟩)) r)

/-- A stored image operand (R87, R89, R104). DESIGN CHOICE (log entry 86): a header with a reserved encoding stops the operation before its
block is checked. -/
def State.imageOperand (s : State) (c : CoreId) (x : CtxId) (op : TenOp) (b : Bool) : State × OpRead :=
  let o := tdOperand op.desc b
  let key := aKey (toAddr o) + op.t * toKstep o
  let k := s.tenKeys c x [(key, 64)]
  if k ≠ .ok then (s.refuse k, .refused k)
  else
    let h := s.mem.imgHdr key
    if ihReserved h then (s, .header)
    else
      let rs := [(key, s.mem.imgLen key h)]
      let k := s.tenKeys c x rs
      if k ≠ .ok then (s.refuse k, .refused k)
      else
        let (s, r) := s.checkRanges rs
        (s, .ok (s.mem.imgOperand key h) r)

def State.readOperand (s : State) (c : CoreId) (x : CtxId) (op : TenOp) (b : Bool) : State × OpRead :=
  if toKind (tdOperand op.desc b) then s.mainOperand c x op b else s.imageOperand c x op b

/-! ## Running an operation -/

def State.modTen (s : State) (c : CoreId) (x : CtxId) (id : Nat) (f : TenOp → TenOp) : State :=
  s.modCtx c x (fun k => { k with tenq := k.tenq.map (fun o => if o.id = id then f o else o) })

/-- The operation at work: the oldest that is not finished. -/
def Ctx.tenHead (k : Ctx) : Option TenOp := k.tenq.find? (fun o => o.stage != .finished)

/-- The oldest finished operation: the bank that enters the queue next (R100). -/
def Ctx.tenDone (k : Ctx) : Option TenOp := k.tenq.find? (fun o => o.stage == .finished)

/-- Banks of the context that are finished and wait. -/
def Ctx.banksWaiting (k : Ctx) : Nat := (k.tenq.filter (fun o => o.stage == .finished)).length

/-- Take back what consumed K tiles left (R89). A slot that other work has changed since keeps its value (log entry 86). -/
def Ctx.takeBack (k : Ctx) (u : TenUse) : Ctx :=
  let k := { k with
    ten := { k.ten with flags := k.ten.flags.minus u.fl, ktiles := k.ten.ktiles - u.ktiles, gzterms := k.ten.gzterms - u.gzterms }
    qnt := { k.qnt with flags := k.qnt.flags.minus u.qfl, tiles := k.qnt.tiles - u.tiles } }
  u.slots.foldl (fun k e =>
    let t := k.staOf e.1
    if t.val = e.2.2 then k.setSta e.1 { t with val := e.2.1.val, psn := e.2.1.psn } else k) k

/-- What a context's registers and slots gained from `k` to `k'`, added to what an operation has left there. -/
def TenUse.grow (u : TenUse) (k k' : Ctx) : TenUse where
  fl := u.fl.or (k'.ten.flags.minus k.ten.flags)
  qfl := u.qfl.or (k'.qnt.flags.minus k.qnt.flags)
  ktiles := u.ktiles + (k'.ten.ktiles - k.ten.ktiles)
  gzterms := u.gzterms + (k'.ten.gzterms - k.ten.gzterms)
  tiles := u.tiles + (k'.qnt.tiles - k.qnt.tiles)
  slots := (List.range 64).foldl (fun l n =>
    if k.staOf n = k'.staOf n then l
    else match l.find? (fun e => e.1 == n) with
      | some e => l.filter (fun e => e.1 != n) ++ [(n, e.2.1, (k'.staOf n).val)]
      | none => l ++ [(n, k.staOf n, (k'.staOf n).val)]) u.slots

/-- An operation stops: its bank is discarded, nothing is queued or held, and the K tiles it has consumed have no effect that persists
(R89). -/
def State.tenStop (s : State) (c : CoreId) (x : CtxId) (op : TenOp) (status : Byte) : State :=
  (s.modCtx c x (fun k => { k.takeBack op.use with
    tenq := k.tenq.filter (fun o => o.id ≠ op.id)
    exposed := k.exposed.filter (fun e => e.op ≠ op.id) })).setStatus c x op.id status

/-- An operation stops on its headers (R89). -/
def State.tenHdrErr (s : State) (c : CoreId) (x : CtxId) (op : TenOp) : State :=
  (s.modCtx c x (fun k => { k with ten := { k.ten with hdrerr := true, hdrerrcnt := k.ten.hdrerrcnt + 1 } })).tenStop c x op stDesc

/-- An operation stops on a refused read (R89). -/
def State.tenRefused (s : State) (c : CoreId) (x : CtxId) (op : TenOp) (k : Chk) : State :=
  (if k = .part then s.partFault c x op.step else s).tenStop c x op k.status

/-- An operation consumes bad data: it is poisoned, and each kind of fault is raised once for it (R104). -/
def State.tenPoison (s : State) (c : CoreId) (x : CtxId) (op : TenOp) (r : ReadChk) (f : Nat → W64) : State :=
  match s.job c x op.id with
  | none => s
  | some j =>
    let r' : ReadChk := ⟨if j.poison then none else r.poison, if j.checkFail then none else r.mismatch⟩
    let s := s.raiseRead c x op.step r' f
    let s := s.modJob c x op.id (fun j => { j with poison := j.poison || r.poison.isSome, checkFail := j.checkFail || r.mismatch.isSome })
    s.modTen c x op.id (fun o => { o with poisoned := o.poisoned || r.bad })

def satAdd (a b : Nat) : Nat := Nat.min (a + b) 0xFFFFFFFF

/-- Add an operand tile's trouble record to a summary; the elements of a group with bad metadata count as non-finite (R48, R103, R112). -/
def Summary.add (s : Summary) (o : Operand) : Summary :=
  { s with
    gzovf := satAdd s.gzovf o.tr.gzovf
    tiny := satAdd s.tiny o.tr.tiny
    clip := satAdd s.clip o.tr.clip
    nonfin := satAdd s.nonfin (o.tr.nonfin + o.badElems)
    u := s.u + o.units }

/-- Non-finite elements of a bank (R103). -/
def outNonfin (acc : List W32) : Nat := cnt (fun v => !isFinite32 v) acc

/-- RUNG of a tile (R114). -/
def TenOp.rungCode (o : TenOp) : BitVec 2 := if o.poisoned then 0 else BitVec.ofNat 2 o.rung

/-- The first K tile of an operation is about to start: its bank takes the initial value (R87, R99, R104); none while it waits for a bank, or
for the bank of a finished operation before it to be kept. -/
def State.tenStart (s : State) (c : CoreId) (x : CtxId) (op : TenOp) : Option State :=
  let d := op.desc
  let k := s.ctx c x
  let begin' (s : State) (acc : List W32) (poison : Bool) : State :=
    s.modTen c x op.id (fun o => { o with
      started := true
      acc := acc
      init := acc
      poisoned := o.poisoned || poison
      stage := if modeRung (tdMode d) < o.startRung ∧ !(o.poisoned || poison) then .rung else .running
      rung := if modeRung (tdMode d) < o.startRung ∧ !(o.poisoned || poison) then o.startRung else o.rung })
  if tdAcc d = 1 then
    if k.tenq.any (fun o => o.stage == .finished && tdHold o.desc) then none
    else match k.held with
    | none => some ((s.modCtx c x (fun k => { k with tenq := k.tenq.filter (fun o => o.id ≠ op.id) })).tenRefuse c x op.id)
    | some h =>
      if h.mode.toNat ≠ tdMode d then
        some ((s.modCtx c x (fun k => { k with tenq := k.tenq.filter (fun o => o.id ≠ op.id) })).tenRefuse c x op.id)
      else
        let s := s.modCtx c x (fun k => { k with held := none })
        let s := if h.poisoned then (s.raiseCtx c x op.step 0x01 0).modJob c x op.id (fun j => { j with poison := true }) else s
        some (begin' s h.acc h.poisoned)
  else if 2 ≤ k.banksWaiting then none
  else if tdAcc d = 2 then
    let key := aKey (tdC d)
    let chk := s.tenKeys c x [(key, 65536)]
    if chk ≠ .ok then some ((s.refuse chk).tenRefused c x op chk)
    else
      let (s, r) := s.checkRanges [(key, 65536)]
      let s := s.tenPoison c x op r s.faultAddr
      some (begin' s ((elemsLe 4 16384 (s.mem.bytes key 65536)).map (BitVec.ofNat 32)) r.bad)
  else some (begin' s (List.replicate 16384 0) false)

/-- After a K tile the next one follows, and the last one finishes the rung (R100, R113). -/
def TenOp.afterTile (o : TenOp) (ldr : Bool) : TenOp :=
  let t := o.t + 1
  { o with
    t := t
    stage := if t < tdKt o.desc then .running else if ldr && !o.poisoned then .ladder else .finished }

/-- Expose the bank of an operation and signal its partial-sum token, when its descriptor asks for it (R101). -/
def State.expose (s : State) (c : CoreId) (x : CtxId) (id : Nat) : State :=
  match (s.ctx c x).tenq.find? (fun o => o.id == id) with
  | none => s
  | some op =>
    if tdPsum op.desc then
      s.modCtx c x (fun k =>
        let k := { k with exposed := k.exposed ++ [⟨op.id, op.acc, tdMM1 op.desc, tdNM1 op.desc, op.poisoned⟩] }
        match op.ptok with
        | some t => k.setTok t.toNat (k.tok t.toNat + 1)
        | none => k)
    else s

/-- The next K tile of the run that the descriptor issued waits for the read of the bank that the one before it exposed (R101). -/
def Ctx.exposureWaits (k : Ctx) (op : TenOp) : Bool := decide (op.t ≠ 0) && op.rung == op.startRung && k.exposed.any (fun e => e.op == op.id)

/-- What converting a main-path operand leaves: the quantiser's flags, its count and the statistics fold, or the tensor engine's flags for a
muslin operand (R81, R96, R148). -/
def Ctx.takeConv (k : Ctx) (o : Operand) : Ctx :=
  match o.conv with
  | none => k
  | some v => match v.tensor with
    | some t => (k.qntFlags v.fl).tileDone t o.tr.amax v.bad
    | none => { k with ten := { k.ten with flags := k.ten.flags.or v.fl } }

/-- What a K tile product of a descriptor's own rung leaves in its context's registers (R105, R106). -/
def Ctx.consume (k : Ctx) (mode : Nat) (fl : Flags) (a b : Operand) : Ctx :=
  let k := { k with ten := { k.ten with
    flags := k.ten.flags.or fl
    ktiles := k.ten.ktiles + 1
    gzterms := k.ten.gzterms + BitVec.ofNat 64 (if mode ≤ 2 then a.recCount + b.recCount else 0) } }
  (k.takeConv a).takeConv b

/-- One K tile product with what the summary of its rung takes from it (R91 to R94, R103). -/
def kTileSum (mode : Nat) (acc : List W32) (sm : Summary) (a b : Operand) : List W32 × Flags × Summary :=
  let r := accumulate mode acc a b
  let m := (sm.add a).add b
  (r.1, r.2, { m with nonfin := satAdd m.nonfin (tileInf mode a b) })

/-- Run K tile t of an operation that has started (R89, R91 to R94, R104). -/
def State.tenTile (s : State) (c : CoreId) (x : CtxId) (op : TenOp) : State :=
  let (s, ra) := s.readOperand c x op false
  match ra with
  | .refused k => s.tenRefused c x op k
  | .header => s.tenHdrErr c x op
  | .ok a r1 =>
    let (s, rb) := s.readOperand c x op true
    match rb with
    | .refused k => s.tenRefused c x op k
    | .header => s.tenHdrErr c x op
    | .ok b r2 =>
      if !pairOk op.desc a b then s.tenHdrErr c x op
      else
        let s := s.tenPoison c x op (r1.join r2) s.faultAddr
        let mode := tdMode op.desc
        let (acc, fl, sm) := kTileSum mode op.acc op.summary a b
        let k := s.ctx c x
        let s := s.modCtx c x (fun k => k.consume mode fl a b)
        let ldr := s.tdLdrOn (s.partD c x) op.desc
        (s.modTen c x op.id (fun o =>
          { o with
            acc := acc
            summary := sm
            use := o.use.grow k (k.consume mode fl a b)
            tiles := if o.sampled then o.tiles ++ [(o.rung, a, b)] else o.tiles }.afterTile ldr)).expose c x op.id

end Sys2Proof.Machine
end

