-- ==== Sys2Proof/Machine/Ladder.lean ====
section
/-!
DEFINITION. The fall-back ladder (R108 to R116) and the release of finished banks (R100, R104): the ladder check, computations from
fall-back sources, damask captures of sampled operations, and entry into the finished-tile queue.
-/
namespace Sys2Proof.Machine

/-! ## Limits and trips (R112, R121) -/

/-- Limits in force for a rung (R112, R127). -/
def State.limits (s : State) (p : PartId) (rung : Nat) : Limits :=
  let f (idx sub : Nat) : Nat := s.dfN (dkp p idx sub)
  if rung = 1 then
    let eff := f 0x2413 1 ≠ 0
    ⟨if eff then s.dN (dkp p 0x2413 9) else f 0x2411 1, if eff then s.dN (dkp p 0x2413 0x0A) else f 0x2411 2, f 0x2411 3, f 0x2411 4,
      f 0x2411 5⟩
  else ⟨0, f 0x2412 1, f 0x2412 2, f 0x2412 3, f 0x2412 4⟩

/-- Causes of a trip, as LDR.LAST records them (Table 5-4): OUTNF, NONFIN, CLIP, TINY, GZOVF in bits 4 to 0. -/
def tripCauses (rung : Nat) (s : Summary) (l : Limits) : Nat :=
  b2n (decide (l.outnf < s.outnf)) * 16 + b2n (decide (l.nonfin < s.nonfin)) * 8 + b2n (decide (l.clip < s.clip)) * 4 +
    b2n (decide (l.tiny * s.u < s.tiny * 65536)) * 2 + b2n (decide (rung = 1 ∧ l.gzovf * s.u < s.gzovf * 65536))

/-- LDR.LAST (Table 5-4). -/
def lastWord (layer : BitVec 12) (rung causes : Nat) : W32 := BitVec.ofNat 32 (layer.toNat * 2 ^ 20 + rung % 4 * 2 ^ 18 + causes)

/-! ## Tallies (R118, R121) -/

def Part.tally (q : Part) (layer : Nat) : Tally := SMap.get (fun _ => {}) q.tallies layer
def Part.setTally (q : Part) (layer : Nat) (t : Tally) : Part := { q with tallies := SMap.set (fun _ => {}) q.tallies layer t }

/-- The tallies of a step have been folded: its local close is past. -/
def Part.closedAt (q : Part) (step : W64) : Bool := decide (step.toNat < q.pinStep.toNat)

/-- The causes a rung 1 check recorded for the adaptive loop. -/
def State.tripTally (s : State) (p : PartId) (step : W64) (layer causes : Nat) : State :=
  s.modPart p (fun q =>
    let t := q.tally layer
    if q.closedAt step then q
    else q.setTally layer { t with tripGz := t.tripGz + causes % 2, tripTiny := t.tripTiny + causes / 2 % 2 })

/-- A sequence ends: its tally goes to the collector, under the step in which its operation issued, and it is counted (R115, R118, R124). The
tally of a step that has closed is too late for its fold (log entry 87). -/
def State.endSequence (s : State) (c : CoreId) (x : CtxId) (op : TenOp) : State :=
  let r := op.rung
  let rs := op.startRung
  let s := s.modPart (s.partD c x) (fun q =>
    let t := q.tally (tdLayer op.desc).toNat
    if q.closedAt op.step then q
    else q.setTally (tdLayer op.desc).toNat { t with
      checked := t.checked + 1
      up2 := t.up2 + b2n (decide (rs = 1 ∧ 2 ≤ r))
      up3 := t.up3 + b2n (decide (rs ≤ 2 ∧ r = 3))
      checked1 := t.checked1 + b2n (decide (rs = 1)) })
  s.modCtx c x (fun k => { k with ldr := { k.ldr with
    checks := k.ldr.checks + 1
    pinstart := if modeRung (tdMode op.desc) < rs then k.ldr.pinstart + 1 else k.ldr.pinstart } })

/-! ## Fall-back sources (R109, R115) -/

/-- Where an operand's fall-back source lies: in this module's memory, or under the keys that keep what was fetched. -/
def State.fbKey (s : State) (d : BitVec 1536) (b : Bool) : Nat :=
  let a := toFb (tdOperand d b)
  if s.isOwn a then aKey a else (if b then 2 ^ 47 else 2 ^ 46) + aKey a

/-- Address of a key of an operand's fall-back source. -/
def State.fbAddr (s : State) (d : BitVec 1536) (b : Bool) (k : Nat) : W64 :=
  let a := toFb (tdOperand d b)
  a + BitVec.ofNat 64 (k - s.fbKey d b) - BitVec.ofNat 64 (s.fbKey d b - k)

/-- Ranges of one operand over all K tiles. -/
def State.fbRanges (s : State) (d : BitVec 1536) (b : Bool) : List (Nat × Nat) :=
  (List.range (tdKt d)).flatMap (fun t => s.mem.srcRanges ((srcTileOf d b true t).source (s.fbKey d b)))

/-- Requests for the remote fall-back sources of an operation. -/
def State.fbFetch (s : State) (c : CoreId) (x : CtxId) (op : TenOp) : State :=
  let p := s.partD c x
  [true, false].foldl (fun s b =>
    let a := toFb (tdOperand op.desc b)
    if s.isOwn a then s
    else if reservedDev (aDev a) ∨ (s.planOf p).isNone ∨ s.ownDev = 0xFFFF then
      s.modJob c x op.id (fun j => { j with errs := j.errs ++ [1] })
    else
      let bs := blocksOfRanges (s.fbRanges op.desc b)
      let ps := bs.flatMap (fun n => s.blockReads p (s.fbAddr op.desc b (4096 * n)) (4096 * n))
      s.modJob c x op.id (fun j => { j with
        queue := j.queue ++ ps
        fpoison := bs.foldl (fun m n => SMap.set (fun _ => false) m (keptMark n) true) j.fpoison })) s

/-- Start a computation on the next rung: the bank is re-initialised and a new summary begins (R111, R113). -/
def State.startRungRun (s : State) (c : CoreId) (x : CtxId) (id rung : Nat) : State :=
  let s := s.modTen c x id (fun o => { o with acc := o.init, t := 0, summary := {}, rung := rung, stage := .rung })
  let s := s.modJob c x id (fun j => { j with fetched := [], fpoison := [] })
  match (s.ctx c x).tenq.find? (fun o => o.id == id) with
  | some op => (s.fbFetch c x op).pump c x id
  | none => s

/-- The arithmetic of a computation on a rung: the descriptor's own on its mode's rung, FP8 on rung 2 and BF16 on rung 3 above it (R109). -/
def rungMode (mode rung : Nat) : Nat := if rung = modeRung mode then mode else if rung = 2 then 3 else 4

/-- A K tile operand from a fall-back source (R109). -/
def State.fbOperand (s : State) (c : CoreId) (x : CtxId) (op : TenOp) (b : Bool) (t : Nat) : State × OpRead :=
  let d := op.desc
  let own := s.isOwn (toFb (tdOperand d b))
  let st := srcTileOf d b true t
  let q := st.source (s.fbKey d b)
  let rs := s.mem.srcRanges q
  let p := s.partD c x
  let k := if own then (if aRsvd (toFb (tdOperand d b)) ≠ 0 then .addr else s.checkKeys p rs) else .ok
  if k ≠ .ok then (s.refuse k, .refused k)
  else
    let kept := match s.job c x op.id with
      | some j => j.keptMem
      | none => Mem.reset
    let (s, r) := if own then s.checkRanges rs else s.checkKept kept rs
    let (tile, f1) := (if own then s.mem else kept).srcTile q
    let ctl := qctl (plainQpw (if op.rung = 2 then 5 else 7)) (kRows b (toTr (tdOperand d b))) true st.row0 st.col0 op.step (0, 0)
    let qt := ctl.tile tile
    let s := s.modCtx c x (fun k => (k.qntFlags (f1.or qt.fl)))
    (s.modCtx c x (fun k => { k with qnt := { k.qnt with tiles := k.qnt.tiles + 1 } }), .ok (ctl.operand qt none) r)

/-- A computation from fall-back sources is counted when it ends (R124). -/
def State.countRung (s : State) (c : CoreId) (x : CtxId) (rung : Nat) : State :=
  s.modCtx c x (fun k => { k with ldr := { k.ldr with
    up2 := if rung = 2 then k.ldr.up2 + 1 else k.ldr.up2
    up3 := if rung = 3 then k.ldr.up3 + 1 else k.ldr.up3 } })

/-- A computation on a rung stops (R115 cases 1 and 2): the tile is poisoned, and refused reads give the command their status. -/
def State.fbStop (s : State) (c : CoreId) (x : CtxId) (op : TenOp) (errs : List (BitVec 4)) : State :=
  let s := (s.countRung c x op.rung).endSequence c x op
  let s := if errs.contains 2 then s.partFault c x op.step else s
  let s := s.modJob c x op.id (fun j => { j with stopped := !errs.isEmpty, errs := errs, queue := [] })
  s.modTen c x op.id (fun o => { o with poisoned := true, stopped := true, stage := .finished })

/-- Address of a key of either operand's fall-back source, as a fault record names it. -/
def State.fbFault (s : State) (d : BitVec 1536) (k : Nat) : W64 :=
  if 2 ^ 47 ≤ k then s.fbAddr d true k else if 2 ^ 46 ≤ k then s.fbAddr d false k else s.faultAddr k

/-- One K tile from fall-back sources whose data is at hand: operand B is read first, then A, and what stops the sequence at B leaves A
unread (R109, R115; log entry 87). A pinned start exposes its partial sums (R101). -/
def State.fbTile (s : State) (c : CoreId) (x : CtxId) (op : TenOp) : State :=
  let (s, rb) := s.fbOperand c x op true op.t
  match rb with
  | .header => s
  | .refused k => s.fbStop c x op [k.errCode]
  | .ok b r1 =>
    if r1.bad then (s.tenPoison c x op r1 (s.fbFault op.desc)).fbStop c x op []
    else
      let (s, ra) := s.fbOperand c x op false op.t
      match ra with
      | .header => s
      | .refused k => s.fbStop c x op [k.errCode]
      | .ok a r2 =>
        if r2.bad then (s.tenPoison c x op r2 (s.fbFault op.desc)).fbStop c x op []
        else
          let (acc, fl, sm) := kTileSum (rungMode (tdMode op.desc) op.rung) op.acc op.summary a b
          let s := s.modCtx c x (fun k => { k with ten := { k.ten with flags := k.ten.flags.or fl, ktiles := k.ten.ktiles + 1 } })
          let s := s.modTen c x op.id (fun o =>
            { o with
              acc := acc
              t := o.t + 1
              summary := sm
              stage := if o.t + 1 < tdKt o.desc then .rung else .computed
              tiles := if o.sampled then o.tiles ++ [(o.rung, a, b)] else o.tiles })
          if op.rung = op.startRung then s.expose c x op.id else s

/-- The next K tile of a computation from fall-back sources, once the data of remote sources has come; a read that was refused or not
answered stops the computation (R115, R242). -/
def State.fbStep (s : State) (c : CoreId) (x : CtxId) (op : TenOp) : State :=
  match s.job c x op.id with
  | none => s
  | some j =>
    if j.outst ≠ 0 then s
    else if !j.errs.isEmpty then s.fbStop c x op j.errs
    else if !j.queue.isEmpty then s
    else if j.timedOut then (s.modJob c x op.id (fun j => { j with checkFail := true })).fbStop c x op []
    else s.fbTile c x op

/-! ## Where captures are re-executed (R316) -/

/-- Core C of the first district from `d` at which that core is offered, other than one core. -/
def State.offeredFrom (s : State) (d core : Nat) (skip : Option CoreId) : Option CoreId :=
  ((List.range 16).map (fun i => coreOf (16 * ((d + i) % 16) + core))).find? (fun c => s.offered c && some c != skip)

def State.buddyOf (s : State) (c : CoreId) : Option CoreId := s.offeredFrom (districtOf c + 8) (c.val % 16) none
def State.arbiterOf (s : State) (c : CoreId) : Option CoreId := s.offeredFrom (districtOf c + 4) (c.val % 16) (s.buddyOf c)

/-- The core that re-executes a capture: its buddy, or the arbiter once it is disputed (R316, R318). -/
def State.redoCore (s : State) (k : Capture) : Option CoreId :=
  match k.st with
  | .waiting | .running => s.buddyOf k.core
  | .disputed | .arbitrating => s.arbiterOf k.core

/-- An urgent re-execution is at work on a core: it issues ahead of both contexts at K tile boundaries (R316). -/
def State.damaskAhead (s : State) (c : CoreId) : Bool :=
  s.caps.any (fun k => k.urgent && (k.st == .running || k.st == .arbitrating) && s.redoCore k == some c)

/-! ## K tiles (R99, R101, R102) -/

/-- K_TILE without what waits for it: the context's operation takes its next K tile, from its own operands or from its fall-back sources,
unless it waits. -/
def State.kTileGo (s : State) (c : CoreId) (x : CtxId) : State :=
  let k := s.ctx c x
  match k.tenHead with
  | none => s
  | some op =>
    if k.suspended || k.exposureWaits op || s.damaskAhead c then s
    else if op.stage == .rung then s.fbStep c x op
    else if op.stage != .running then s
    else if op.started then s.tenTile c x op
    else match s.tenStart c x op with
      | none => s
      | some s =>
        match ((s.ctx c x).tenq.find? (fun o => o.id == op.id)) with
        | some op' =>
          if op'.stage == .running then s.tenTile c x op'
          else if op'.stage == .rung then
            let s := s.startRungRun c x op.id op'.rung
            match ((s.ctx c x).tenq.find? (fun o => o.id == op.id)) with
            | some o => s.fbStep c x o
            | none => s
          else s
        | none => s

/-! ## The decision sequence (R113) -/

/-- The summary of a rung is checked: the tile trips and climbs, or goes on to the queue (R112 to R114). -/
def State.ladderCheck (s : State) (c : CoreId) (x : CtxId) (op : TenOp) : State :=
  let p := s.partD c x
  let layer := tdLayer op.desc
  let sm := { op.summary with outnf := outNonfin op.acc }
  let s := s.modTen c x op.id (fun o => { o with summary := sm })
  let finish (s : State) : State := (s.endSequence c x op).modTen c x op.id (fun o => { o with stage := .finished })
  let record (s : State) (causes : Nat) : State :=
    s.modCtx c x (fun k => { k with ldr := { k.ldr with last := lastWord layer op.rung causes } })
  if 3 ≤ op.rung then finish (if sm.outnf ≠ 0 then record s 16 else s)
  else
    let causes := tripCauses op.rung sm (s.limits p op.rung)
    if causes = 0 then finish s
    else
      let s := record s causes
      let s := if op.rung = 1 then s.tripTally p op.step layer.toNat causes else s
      s.startRungRun c x op.id (op.rung + 1)

/-- LADDER_SEQUENCE (R113). -/
def execLadderSequence (c : CoreId) (x : CtxId) (s : State) : Host.Outcome State Fault Refusal :=
  match (s.ctx c x).tenHead with
  | some op => if op.stage = .ladder then .next (s.ladderCheck c x op) else .next s
  | none => .next s

/-- RUNG_COMPUTATION_DONE (R109, R113, R116): a computation from fall-back sources has run its last K tile, and its summary is checked. -/
def execRungComputationDone (c : CoreId) (x : CtxId) (s : State) : Host.Outcome State Fault Refusal :=
  match (s.ctx c x).tenHead with
  | none => .next s
  | some op => if op.stage = .computed then .next ((s.countRung c x op.rung).ladderCheck c x op) else .next s

/-! ## Damask captures (R314 to R317) -/

/-- Digest of a finished bank (R317). -/
def digestGo : List W32 → W64 → W64
  | a :: b :: t, d => digestGo t (mix64 (d ^^^ ((b.zeroExtend 64 <<< 32) ||| a.zeroExtend 64)))
  | _, d => d

def tileDigest (acc : List W32) (rung : BitVec 2) (tag : W32) : W64 :=
  digestGo acc (mix64 ((rung.zeroExtend 64 <<< 32) ||| tag.zeroExtend 64))

/-- Bytes an operand tile takes in the damask reserve: a header, its metadata, codes and records (DESIGN CHOICE, log entry 6). -/
def Operand.capBytes (o : Operand) : Nat :=
  let n :=
    if o.fmt ≤ 4 then 64 + 2 * (16384 / gsize o.gsz) + codeBytes o.fmt + 4 * (o.groups.flatten.map (fun g => g.recs.length)).foldl (· + ·) 0
    else if o.fmt ≤ 6 then 64 + 512 + 16384
    else 64 + 32768
  (n + 63) / 64 * 64

/-- Bytes a capture takes in the damask reserve (DESIGN CHOICE, log entry 6). -/
def Capture.bytes (k : Capture) : Nat :=
  k.tiles.foldl (fun n e => n + e.2.1.capBytes + e.2.2.capBytes) (192 + 65536)

/-- The capture fits: the free part of the reserve of 1 GiB holds it, and its core holds fewer than 16 (R315). -/
def State.capFits (s : State) (k : Capture) : Bool :=
  decide ((s.caps.map Capture.bytes).foldl (· + ·) 0 + k.bytes ≤ 2 ^ 30) && decide ((s.caps.filter (fun j => j.core == k.core)).length < 16)

/-- The capture of a finished operation. -/
def State.captureOf (s : State) (c : CoreId) (x : CtxId) (op : TenOp) : Capture where
  id := s.nextCap
  core := c
  ctx := x
  part := s.partD c x
  step := op.step
  desc := op.desc
  init := op.init
  ldr := s.tdLdrOn (s.partD c x) op.desc
  startRung := op.startRung
  lim1 := s.limits (s.partD c x) 1
  lim2 := s.limits (s.partD c x) 2
  tiles := op.tiles
  digest := tileDigest op.acc op.rungCode (tdTag op.desc)
  buddyDigest := 0
  urgent := false
  st := .waiting

/-- A sampled operation that R104 has not poisoned writes its capture, where it fits (R314, R315). -/
def State.capture (s : State) (c : CoreId) (x : CtxId) (op : TenOp) : State :=
  let k := s.captureOf c x op
  if !op.sampled || (op.poisoned && !op.stopped) then s
  else if s.capFits k then ({ s with caps := s.caps ++ [k], nextCap := s.nextCap + 1 }).incD (dkx 0x2510 k.part 3)
  else s.incD (dkx 0x2510 k.part 4)

/-! ## Re-execution of a capture (R115, R316, R317) -/

/-- Operand pairs that a capture holds for a rung, in K order. -/
def Capture.rungTiles (k : Capture) (rung : Nat) : List (Operand × Operand) :=
  (k.tiles.filter (fun e => e.1 == rung)).map (·.2)

/-- The bank and the summary of one rung, computed again from the captured operands. -/
def Capture.runRung (k : Capture) (rung : Nat) : List W32 × Summary :=
  let r := (k.rungTiles rung).foldl (fun (a : List W32 × Summary) e =>
    let t := kTileSum (rungMode (tdMode k.desc) rung) a.1 a.2 e.1 e.2
    (t.1, t.2.2)) (k.init, {})
  (r.1, { r.2 with outnf := outNonfin r.1 })

/-- The bank and RUNG that the decisions of R113 end with, under the limits of the origin's step; a rung that stopped under R115 gives RUNG 0
and the bank as it stood. `n` bounds the climb. -/
def Capture.climb (k : Capture) : Nat → Nat → List W32 × BitVec 2
  | 0, r => ((k.runRung r).1, BitVec.ofNat 2 r)
  | n + 1, r =>
    let x := k.runRung r
    if (k.rungTiles r).length < tdKt k.desc then (x.1, 0)
    else if !k.ldr || decide (3 ≤ r) || decide (tripCauses r x.2 (if r = 1 then k.lim1 else k.lim2) = 0) then (x.1, BitVec.ofNat 2 r)
    else k.climb n (r + 1)

/-- Digest that a core forms which re-executes the capture (R317). -/
def Capture.redo (k : Capture) : W64 :=
  let r := k.climb 3 k.startRung
  tileDigest r.1 r.2 (tdTag k.desc)

/-! ## Release of a bank (R99, R100) -/

/-- A finished operation as a tile. -/
def TenOp.tile (o : TenOp) (x : CtxId) : FTile where
  ctx := x
  acc := o.acc
  tag := tdTag o.desc
  mM1 := tdMM1 o.desc
  nM1 := tdNM1 o.desc
  layer := tdLayer o.desc
  rung := o.rungCode
  poisoned := o.poisoned

/-- Status of a TENSOR (R115, R167). -/
def Job.tenStatus (j : Job) (op : TenOp) : Byte :=
  if j.stopped then (if j.errs.all (· == 2) then stPart else stAddr)
  else if j.checkFail then stCheck
  else if op.poisoned then stPoison
  else stOk

/-- An operation leaves the engine and its command's work is done. -/
def State.tenLeave (s : State) (c : CoreId) (x : CtxId) (op : TenOp) : State :=
  let s := s.capture c x op
  let s := s.modCtx c x (fun k => { k with tenq := k.tenq.filter (fun o => o.id ≠ op.id) })
  match s.job c x op.id with
  | some j => s.setStatus c x op.id (j.tenStatus op)
  | none => s

/-- The oldest finished bank of a context enters the queue once it has room, or is held (R99, R100). -/
def State.ftqEntry (s : State) (c : CoreId) (x : CtxId) : State :=
  match (s.ctx c x).tenDone with
  | none => s
  | some op =>
    if tdHold op.desc then
      (s.modCtx c x (fun k => { k with held := some ⟨BitVec.ofNat 4 (tdMode op.desc), op.acc, op.poisoned⟩ })).tenLeave c x op
    else if 32 ≤ (s.core c).ftq.length then s
    else (s.modCore c (fun k => { k with ftq := k.ftq ++ [op.tile x] })).tenLeave c x op

end Sys2Proof.Machine
end

