-- ==== Sys2Proof/Machine/Elementary.lean ====
section
/-!
DEFINITION. The elementary functions of the vector engine (R138, R139): the exact value rounded once. Every value that is not a special
case is irrational, so it lies on no rounding boundary. RSQRT and the values near 0 and 1 are rounded from two neighbours with no boundary
between them; the others from the value to 160 bits after the point (log entry 9).
-/
namespace Sys2Proof.Machine

/-- One in fixed point. -/
def fxOne : Nat := 2 ^ 200
def fxMul (a b : Nat) : Nat := a * b / fxOne
def fxDiv (a b : Nat) : Nat := a * fxOne / b

/-- Sum of y^k / k! from term k on, `t` being y^k / k!. -/
def expGo (y : Nat) : Nat → Nat → Nat → Nat
  | 0, _, _ => 0
  | n + 1, k, t => t + expGo y n (k + 1) (fxMul t y / (k + 1))

/-- e^y for y from 0 to 1. -/
def fxExp (y : Nat) : Nat := expGo y 70 0 fxOne

/-- Sum of z^(2k+1) / (2k+1) from term k on, `t` being z^(2k+1) and `z2` the square of z. -/
def atanhGo (z2 : Nat) : Nat → Nat → Nat → Nat
  | 0, _, _ => 0
  | n + 1, k, t => t / (2 * k + 1) + atanhGo z2 n (k + 1) (fxMul t z2)

/-- ln x for x from 1 to 2, as twice the inverse hyperbolic tangent of (x - 1) / (x + 1). -/
def fxLn (x : Nat) : Nat :=
  let z := fxDiv (x - fxOne) (x + fxOne)
  2 * atanhGo (fxMul z z) 70 0 z

def fxLn2 : Nat := fxLn (2 * fxOne)

/-- Code and tininess of a magnitude num x 2^e that is not exact. -/
def inexactCode (neg : Bool) (num : Nat) (e : Int) : Nat × Flags :=
  encodeMag fp32 .rne neg false { roundRat 23 (-126) .rne neg num 1 e 0 with inexact := true }

/-- Round a magnitude that lies between lo x 2^e and (lo + 1) x 2^e, both excluded, with lo of more than 25 bits or the interval below every
FP32 value: no rounding boundary lies inside, so its midpoint rounds as it does. -/
def roundAbove (neg : Bool) (lo : Nat) (e : Int) : W32 × Flags := w32 (inexactCode neg (2 * lo + 1) (e - 1))

/-- Round v x 2^e in fixed point, known to 160 bits (log entry 9). -/
def roundNear (neg : Bool) (v : Nat) (e : Int) : W32 × Flags := w32 (inexactCode neg v (e - 200))

/-- A result too small for FP32, and one just below 1. -/
def roundTiny : W32 × Flags := roundAbove false 1 (-400)
def roundBelowOne (neg : Bool) : W32 × Flags := roundAbove neg (2 ^ 100 - 1) (-100)

/-- |x| of a finite word in fixed point. -/
def fxAbs (x : W32) : Nat :=
  match up x with
  | .fin _ m e => m * 2 ^ (e + 200).toNat
  | _ => 0

def nanOf (x : W32) : W32 × Flags := w32 (nanRes fp32 (up x).isSnan)
def inf32 (neg : Bool) : W32 := if neg then 0xFF800000 else 0x7F800000

/-- EXP2. -/
def fexp2 (x : W32) : W32 × Flags :=
  match up x with
  | .nan _ _ _ => nanOf x
  | .inf neg => (if neg then 0 else inf32 false, {})
  | .fin neg _ _ =>
    let a := fxAbs x
    let k : Int := if neg then -(a / fxOne : Nat) else (a / fxOne : Nat)
    if a % fxOne = 0 then w32 (roundFin fp32 .rne false false 1 1 (max (-400) (min 400 k)) 0)
    else if 300 ≤ a / fxOne then
      if neg then roundTiny else w32 (encodeMag fp32 .rne false false ⟨2 ^ 23, 277, true, false⟩)
    else
      let f := if neg then fxOne - a % fxOne else a % fxOne
      roundNear false (fxExp (fxMul f fxLn2)) (if neg then k - 1 else k)

/-- LOG2. -/
def flog2 (x : W32) : W32 × Flags :=
  match up x with
  | .nan _ _ _ => nanOf x
  | .inf neg => if neg then w32 (nanRes fp32 true) else (inf32 false, {})
  | .fin neg m e =>
    if m = 0 then (inf32 true, { dz := true })
    else if neg then w32 (nanRes fp32 true)
    else
      let g := Nat.log2 m
      let k : Int := e + g
      if m = 2 ^ g then rneDy k 0
      else
        let l := fxDiv (fxLn (m * fxOne / 2 ^ g)) fxLn2
        if 0 ≤ k then roundNear false (k.toNat * fxOne + l) 0 else roundNear true ((-k).toNat * fxOne - l) 0

/-- RSQRT. -/
def frsqrt (x : W32) : W32 × Flags :=
  match up x with
  | .nan _ _ _ => nanOf x
  | .inf neg => if neg then w32 (nanRes fp32 true) else (0, {})
  | .fin neg m e =>
    if m = 0 then (inf32 neg, { dz := true })
    else if neg then w32 (nanRes fp32 true)
    else
      let m1 := if e % 2 = 0 then m else 2 * m
      let e1 := if e % 2 = 0 then e else e - 1
      let g := Nat.log2 m1
      if m1 = 2 ^ g ∧ g % 2 = 0 then w32 (roundFin fp32 .rne false false 1 1 (-(e1 / 2) - (g / 2 : Nat)) 0)
      else
        let r := isqrt (2 ^ 400 / m1)
        roundAbove false r (-(e1 / 2) - 200)

/-- e^-|x| for |x| below 200, as v x 2^-k with v in fixed point. -/
def expNeg (a : Nat) : Nat × Nat :=
  let k := a / fxLn2 + 1
  (fxExp (k * fxLn2 - a), k)

/-- SIGM. -/
def fsigm (x : W32) : W32 × Flags :=
  match up x with
  | .nan _ _ _ => nanOf x
  | .inf neg => (if neg then 0 else 0x3F800000, {})
  | .fin neg m _ =>
    let a := fxAbs x
    if m = 0 then (0x3F000000, {})
    else if 200 * fxOne ≤ a then (if neg then roundTiny else roundBelowOne false)
    else
      let (v, k) := expNeg a
      let t := fxOne + v / 2 ^ k
      if neg then roundNear false (fxDiv v t) (-(k : Int)) else roundNear false (fxDiv fxOne t) 0

/-- TANH. Below 2^-20 in magnitude the value lies between |x| (1 - 2^-40) and |x|. -/
def ftanh (x : W32) : W32 × Flags :=
  match up x with
  | .nan _ _ _ => nanOf x
  | .inf neg => (if neg then 0xBF800000 else 0x3F800000, {})
  | .fin neg m e =>
    let a := fxAbs x
    if m = 0 then (x, {})
    else if a < 2 ^ 180 then w32 (inexactCode neg (m * 2 ^ 40 - 1) (e - 40))
    else if 100 * fxOne ≤ a then roundBelowOne neg
    else
      let (v, k) := expNeg (2 * a)
      let t := v / 2 ^ k
      roundNear neg (fxDiv (fxOne - t) (fxOne + t)) 0

/-- RNDI: roundToIntegralTiesToEven, which signals no inexact. -/
def frndi (x : W32) : W32 × Flags :=
  match up x with
  | .nan _ _ _ => nanOf x
  | .inf _ => (x, {})
  | .fin neg m e =>
    if 0 ≤ e then (x, {})
    else
      let d := 2 ^ (-e).toNat
      let q := roundQ .rne neg (m / d) (m % d) d 0
      ((w32 (roundFin fp32 .rne false neg q 1 0 0)).1, {})

/-! ## XADD (R141) -/

/-- Extended add: main part, extension, flags. Values are integers in units of 2^-165. -/
def xaddF (m : W32) (e : Nat) (b : W32) : W32 × Nat × Flags :=
  if !isFinite32 m || !isFinite32 b then
    let (r, fl) := fadd m b
    (r, 0, fl)
  else
    let ext : Int := e * 2 ^ (max (fldN m 23 8) 1 - 1)
    let v149 (x : W32) : Int := (dy x).1 * 2 ^ ((dy x).2 + 149).toNat
    let w : Int := v149 m * 65536 + (if bitAt m 31 then -ext else ext) + v149 b * 65536
    if w = 0 then (0, 0, {})
    else
      let a := w.natAbs
      let u := 2 ^ (Nat.log2 a - 39)
      let r := roundQ .rne false (a / u) (a % u) u 0 * u
      let inx := decide (a % u ≠ 0)
      if 2 ^ 293 ≤ r then (inf32 (decide (w < 0)), 0, { ovf := true, inx := true })
      else
        let l := Nat.log2 r
        let um := 2 ^ max (l - 23) 16
        let code := r / um + (l - 39) * 2 ^ 23
        (BitVec.ofNat 32 (code + (if w < 0 then 2 ^ 31 else 0)), r % um * 65536 / um,
          { inx := inx, unf := inx && decide (r < 2 ^ 39) })

end Sys2Proof.Machine
end

