-- ==== Sys2Proof/Machine/VecElem.lean ====
section
/-!
DEFINITION. Element instructions of the vector engine (R135 to R147, R151): their words, the program registers with their poison marks,
and the effect of each instruction on a context.
-/
namespace Sys2Proof.Machine

/-! ## Words and selectors (R136) -/

def eOp (w : W32) : Nat := fldN w 26 6
def eD (w : W32) : Nat := fldN w 20 6
def eA (w : W32) : Nat := fldN w 14 6
def eB (w : W32) : Nat := fldN w 8 6
def eC (w : W32) : Nat := fldN w 2 6
def eM (w : W32) : Nat := fldN w 0 2

/-- What a selector chooses. -/
inductive Reg where
  | v (n : Nat)
  | s (n : Nat)
  | a (n : Nat)
  | m (n : Nat)
  | c (n : Nat)
  deriving DecidableEq, Repr

def regOf (n : Nat) : Reg :=
  if n < 16 then .v n else if n < 24 then .s (n - 16) else if n < 28 then .a (n - 24) else if n < 32 then .m (n - 28) else .c (n - 32)

def Reg.isV : Reg → Bool
  | .v _ => true
  | _ => false
/-- An s or a register. -/
def Reg.isScalar : Reg → Bool
  | .s _ => true
  | .a _ => true
  | _ => false
def Reg.isM : Reg → Bool
  | .m _ => true
  | _ => false

/-! ## Program registers (R135) -/

def zero32 : Nat → W32 := fun _ => 0

def Prog.mask (p : Prog) (n : Nat) : BitVec 128 := if n = 0 then p.m0 else if n = 1 then p.m1 else if n = 2 then p.m2 else p.m3
def Prog.setMask (p : Prog) (n : Nat) (b : BitVec 128) : Prog :=
  if n = 1 then { p with m1 := b } else if n = 2 then { p with m2 := b } else if n = 3 then { p with m3 := b } else p

/-- An operand as one value: lane 0 of a v register. -/
def Prog.scalar (p : Prog) (row : Nat) : Reg → W32
  | .v n => SMap.get zero32 p.v (128 * n)
  | .s n => SMap.get zero32 p.s n
  | .a n => SMap.get zero32 p.a (4 * row + n)
  | .c n => SMap.get zero32 p.c n
  | .m _ => 0

/-- An operand as 128 lanes; s, a and c registers are broadcast. -/
def Prog.lanes (p : Prog) (row : Nat) : Reg → List W32
  | .v n => SMap.range zero32 p.v (128 * n) 128
  | r => List.replicate 128 (p.scalar row r)

def bitList (b : BitVec 128) : List Bool := (List.range 128).map b.getLsbD
def maskOf (l : List Bool) : BitVec 128 := BitVec.ofNat 128 (l.foldr (fun b n => b2n b + 2 * n) 0)

/-- Write the active lanes of a v register. -/
def Prog.setLanes (p : Prog) (n : Nat) (act : List Bool) (vals : List W32) : Prog :=
  let old := SMap.range zero32 p.v (128 * n) 128
  let new := List.zipWith (fun (o : W32) (e : Bool × W32) => if e.1 then e.2 else o) old (act.zip vals)
  { p with v := SMap.setRange zero32 p.v (128 * n) new }

/-- Write an s or a register; other selectors are not scalar destinations. -/
def Prog.setScalar (p : Prog) (row : Nat) (r : Reg) (x : W32) : Prog :=
  match r with
  | .s n => { p with s := SMap.set zero32 p.s n x }
  | .a n => { p with a := SMap.set zero32 p.a (4 * row + n) x }
  | _ => p

/-! ## Poison marks (R151) -/

def setBit {n : Nat} (b : BitVec n) (i : Nat) (x : Bool) : BitVec n :=
  let one := BitVec.ofNat n (2 ^ i)
  if x then b ||| one else b &&& ~~~one

def Prog.marked (p : Prog) (row : Nat) : Reg → Bool
  | .v n => bitAt p.pv n
  | .s n => bitAt p.ps n
  | .a n => SMap.get (fun _ => false) p.pa (4 * row + n)
  | .m n => bitAt p.pm n
  | .c _ => false

def Prog.setMark (p : Prog) (row : Nat) (r : Reg) (x : Bool) : Prog :=
  match r with
  | .v n => { p with pv := setBit p.pv n x }
  | .s n => { p with ps := setBit p.ps n x }
  | .a n => { p with pa := SMap.set (fun _ => false) p.pa (4 * row + n) x }
  | .m n => { p with pm := setBit p.pm n x }
  | .c _ => p

/-- The mark of a destination after a write: set by a marked operand, cleared by a whole write from unmarked ones. -/
def Prog.markWrite (p : Prog) (row : Nat) (r : Reg) (src whole : Bool) : Prog :=
  if src then p.setMark row r true else if whole then p.setMark row r false else p

/-! ## Which words a program may hold (R136 to R138) -/

/-- Number of operand selectors A, B, C that an opcode uses; none for an unassigned opcode, which refuses the descriptor. DESIGN CHOICE (log
entry 86): R138 only calls such opcodes unassigned, and item 6 of R134 does not name them. -/
def elemArity (op : Nat) : Option Nat :=
  match op with
  | 0x00 => some 0
  | 0x05 => some 3
  | 0x06 => some 3
  | 0x1E => some 0
  | 0x1F => some 0
  | 0x20 => some 0
  | 0x21 => some 1
  | 0x38 => some 1
  | 0x39 => some 1
  | _ =>
    if op = 0x01 ∨ op = 0x08 ∨ (0x0B ≤ op ∧ op ≤ 0x0C) ∨ op = 0x0E ∨ (0x10 ≤ op ∧ op ≤ 0x14) ∨ (0x28 ≤ op ∧ op ≤ 0x30) then some 1
    else if (0x02 ≤ op ∧ op ≤ 0x0F) ∨ (0x18 ≤ op ∧ op ≤ 0x1C) then some 2
    else none

def isCmp (op : Nat) : Bool := decide (0x18 ≤ op) && decide (op ≤ 0x1C)
def isRed (op : Nat) : Bool := decide (0x28 ≤ op) && decide (op ≤ 0x30)

/-- Operands that a word uses. -/
def elemUses (op : Nat) (w : W32) : List Reg := ([eA w, eB w, eC w].take ((elemArity op).getD 0)).map regOf

/-- A word is one that R136 to R138 allow, and names enabled streams only (R134). -/
def elemOk (op : Nat) (w : W32) (en : BitVec 4) : Bool :=
  let d := regOf (eD w)
  let us := elemUses op w
  (elemArity op).isSome && !us.any Reg.isM &&
    (if op = 0x00 then true
    else if isCmp op then d.isM && decide (eD w ≠ 0x1C)
    else if isRed op then d.isScalar && us.all Reg.isV
    else if op = 0x20 then d.isV && decide (eA w ≤ 1) && bitAt en (eA w)
    else if op = 0x21 then decide (eD w ≤ 1) && bitAt en (2 + eD w)
    else if 0x38 ≤ op then us.all Reg.isScalar
    else if op = 0x1E then d.isV
    else if op = 0x0F then
      decide (eD w ≠ eA w) &&
        ((d.isV && (regOf (eA w)).isV) || (d.isScalar && (regOf (eA w)).isScalar && !(regOf (eB w)).isV))
    else d.isV || (d.isScalar && !us.any Reg.isV))

/-! ## Effects -/

def Ctx.vecFlags (k : Ctx) (f : Flags) : Ctx := { k with vec := { k.vec with flags := k.vec.flags.or f } }
def Ctx.setProg (k : Ctx) (f : Prog → Prog) : Ctx := { k with prog := f k.prog }

/-- Lanes active under a word (R137). -/
def Ctx.active (k : Ctx) (w : W32) : BitVec 128 := k.prog.m0 &&& k.prog.mask (eM w)

/-- A marked operand, or a marked mask in MSEL (R151). -/
def Ctx.srcMark (k : Ctx) (op : Nat) (w : W32) : Bool :=
  bitAt k.prog.pm (eM w) || (elemUses op w).any (k.prog.marked k.pos.row)

/-- Flags of the active lanes. -/
def actFlags (act : List Bool) (fs : List Flags) : Flags := Flags.join (List.zipWith (fun (a : Bool) (f : Flags) => if a then f else {}) act fs)

/-- Write a destination with per-lane results in the active lanes, or once with the scalar result (R137). -/
def Ctx.writeDest (k : Ctx) (op : Nat) (w : W32) (lanes : List (W32 × Flags)) (scalar : W32 × Flags) : Ctx :=
  let d := regOf (eD w)
  let m := k.srcMark op w
  let row := k.pos.row
  match d with
  | .v n =>
    let act := k.active w
    let al := bitList act
    (k.setProg (fun p => ((p.setLanes n al (lanes.map (·.1))).markWrite row d m (act == BitVec.allOnes 128)))).vecFlags
      (actFlags al (lanes.map (·.2)))
  | _ => (k.setProg (fun p => (p.setScalar row d scalar.1).markWrite row d m true)).vecFlags scalar.2

/-- An instruction of one, two or three operands computed lane by lane. -/
def elemMap (op : Nat) (f : W32 → W32 → W32 → W32 × Flags) (w : W32) (k : Ctx) : Ctx :=
  let get (n : Nat) : Reg := (elemUses op w).getD n (.c 0)
  let p := k.prog
  let row := k.pos.row
  let lanes : List (W32 × Flags) :=
    if (regOf (eD w)).isV then
      List.zipWith (fun (a : W32) (e : W32 × W32) => f a e.1 e.2) (p.lanes row (get 0)) ((p.lanes row (get 1)).zip (p.lanes row (get 2)))
    else []
  k.writeDest op w lanes (f (p.scalar row (get 0)) (p.scalar row (get 1)) (p.scalar row (get 2)))

/-- SEL (R137, R138): every lane in m0 is written. -/
def elemSel (w : W32) (k : Ctx) : Ctx :=
  let p := k.prog
  let row := k.pos.row
  let a := regOf (eA w)
  let b := regOf (eB w)
  let d := regOf (eD w)
  let m := k.srcMark 0x0D w
  let msk := p.mask (eM w)
  match d with
  | .v n =>
    let vals := List.zipWith (fun (c : Bool) (e : W32 × W32) => if c then e.1 else e.2) (bitList msk) ((p.lanes row a).zip (p.lanes row b))
    k.setProg (fun p => ((p.setLanes n (bitList p.m0) vals).markWrite row d m (p.m0 == BitVec.allOnes 128)))
  | _ => k.setProg (fun p => (p.setScalar row d (if bitAt msk 0 then p.scalar row a else p.scalar row b)).markWrite row d m true)

/-- XADD writes register A with the extension in its low 16 bits; its upper bits are a free value (log entry 14). -/
def extWord (old : W32) (e : Nat) : W32 := Config.xaddUpper old e ++ BitVec.ofNat 16 e

/-- XADD (R141, R151). -/
def elemXadd (w : W32) (k : Ctx) : Ctx :=
  let p := k.prog
  let row := k.pos.row
  let d := regOf (eD w)
  let a := regOf (eA w)
  let b := regOf (eB w)
  let m := k.srcMark 0x0F w || p.marked row d
  let one (mv ev bv : W32) : W32 × W32 × Flags := let (r, e, fl) := xaddF mv (fldN ev 0 16) bv; (r, extWord ev e, fl)
  match d, a with
  | .v n, .v j =>
    let act := k.active w
    let al := bitList act
    let rs := List.zipWith (fun (x : W32) (e : W32 × W32) => one x e.1 e.2) (p.lanes row d) ((p.lanes row a).zip (p.lanes row b))
    let whole := act == BitVec.allOnes 128
    (k.setProg (fun p => ((((p.setLanes n al (rs.map (·.1))).setLanes j al (rs.map (·.2.1))).markWrite row d m whole).markWrite row a m
      whole))).vecFlags (actFlags al (rs.map (·.2.2)))
  | _, _ =>
    let r := one (p.scalar row d) (p.scalar row a) (p.scalar row b)
    (k.setProg (fun p => ((((p.setScalar row d r.1).setScalar row a r.2.1).markWrite row d m true).markWrite row a m true))).vecFlags r.2.2

/-- A compare writes every lane of its mask: true where the lane is active and the relation holds (R138, R139). -/
def elemCmp (op : Nat) (rel : Option Ordering → Bool) (w : W32) (k : Ctx) : Ctx :=
  let p := k.prog
  let row := k.pos.row
  let al := bitList (k.active w)
  let d := regOf (eD w)
  let m := k.srcMark op w
  let es := List.zipWith (fun (c : Bool) (e : W32 × W32) => (c, e.1, e.2)) al ((p.lanes row (regOf (eA w))).zip (p.lanes row (regOf (eB w))))
  let inv := es.any (fun e => e.1 && ((up e.2.1).isSnan || (up e.2.2).isSnan))
  match d with
  | .m n =>
    (k.setProg (fun p => (p.setMask n (maskOf (es.map (fun e => e.1 && rel (cmpFp (up e.2.1) (up e.2.2)))))).markWrite row d m true)).vecFlags
      { inv := inv }
  | _ => k

/-- Logical column of lane j. -/
def VecPos.col (q : VecPos) (j : Nat) : W32 := q.col0 + BitVec.ofNat 32 j

/-- IDXC (R138). -/
def elemIdxc (w : W32) (k : Ctx) : Ctx :=
  k.writeDest 0x1E w ((List.range 128).map (fun j => rneDy (k.pos.col j).toNat 0)) (0, {})

/-- IDXR (R138). -/
def elemIdxr (w : W32) (k : Ctx) : Ctx :=
  let r := rneDy (k.pos.row0 + BitVec.ofNat 32 k.pos.row).toNat 0
  k.writeDest 0x1F w (List.replicate 128 r) r

/-- LD: the row of an input stream, with the exceptions of widening its active lanes (R138, R151). -/
def elemLd (w : W32) (k : Ctx) : Ctx :=
  let i := if eA w = 0 then k.pos.in0 else k.pos.in1
  let d := regOf (eD w)
  let k := k.writeDest 0x20 w (List.zipWith (fun (v : W32) (n : Nat) => (v, i.flags.getD n {})) (SMap.range zero32 i.vals 0 128) (List.range 128)) (0, {})
  if i.poisoned then k.setProg (fun p => p.setMark k.pos.row d true) else k

/-- Conversion of a lane by an ST to a strided stream (R133, R139). -/
def stConv (fmt : Nat) (rnd : BitVec 3) (ovf : Bool) (rv : Nat) (x : W32) : W32 × Flags :=
  if fmt = 0 then (x, { inv := (up x).isSnan })
  else w32 (convert fp32 (if fmt = 1 then bf16 else fp16) (rndIeee rnd).1 ovf rv x.toNat)

/-- ST (R133, R138, R151): FP8 rows are converted when the row ends. -/
def elemSt (w : W32) (k : Ctx) : Ctx :=
  let q := k.pos
  let p := k.prog
  let one := eD w ≠ 0
  let al := bitList (k.active w)
  let m := k.srcMark 0x21 w
  let fmt := (if one then q.fmt1 else q.fmt0).toNat
  let rnd := if one then q.rnd1 else q.rnd0
  let ovf := if one then q.ovf1 else q.ovf0
  let tensor := if one then q.tensor1 else q.tensor0
  let o := if one then q.out1 else q.out0
  let xs := (List.range 128).zip (p.lanes q.row (regOf (eA w)))
  let rs : List (W32 × Flags) := xs.map (fun e =>
    if 5 ≤ fmt then (e.2, {})
    else stConv fmt rnd ovf (if rnd = 4 then rng32 1 q.sr (q.step.setWidth 32) tensor (q.row0 + BitVec.ofNat 32 q.row) (q.col e.1) else 0) e.2)
  let old := SMap.range zero32 o.vals 0 128
  let o' : OutRow := ⟨SMap.setRange zero32 [] 0
    (List.zipWith (fun (v : W32) (e : Bool × W32) => if e.1 then e.2 else v) old (al.zip (rs.map (·.1)))), o.poisoned || m⟩
  let k' : Ctx := { k with pos := if one then { q with out1 := o' } else { q with out0 := o' } }
  k'.vecFlags (actFlags al (rs.map (fun r => r.2)))

/-! ## Reductions (R143 to R145) -/

/-- Exact sum of finite values, or of their squares, in units of 2^-149 or 2^-298. -/
def exactSum (sq : Bool) (xs : List W32) : Int :=
  xs.foldl (fun a x => let v := v149 x; a + (if sq then v * v else v)) 0

/-- RSUM, RSSQ and RMEAN over at least one active lane. -/
def sumRed (op : Nat) (xs : List W32) : W32 × Flags :=
  let sq := decide (op = 0x29)
  let snan := xs.any (fun x => (up x).isSnan)
  let pinf := xs.any (fun x => match up x with | .inf n => sq || !n | _ => false)
  let ninf := xs.any (fun x => match up x with | .inf n => !sq && n | _ => false)
  if xs.any isNan32 then (qnan32, { inv := snan })
  else if pinf && ninf then (qnan32, { inv := true })
  else if pinf then (inf32 false, {})
  else if ninf then (inf32 true, {})
  else
    let t := exactSum sq xs
    if t = 0 then (if op = 0x28 ∧ xs.all (· == 0x80000000) then 0x80000000 else 0, {})
    else w32 (roundFin fp32 .rne false (decide (t < 0)) t.natAbs (if op = 0x2F then xs.length else 1) (if sq then -298 else -149) 0)

/-- Fold by R140. -/
def foldMax (isMax : Bool) (xs : List W32) : W32 × Flags :=
  match xs with
  | [] => (0, {})
  | x :: _ => xs.foldl (fun (a : W32 × Flags) y => let (r, fl) := fmaxi isMax a.1 y; (r, a.2.or fl)) (x, {})

/-- RARGMAX and RARGMIN over at least one active lane (R145). -/
def argRed (isMax : Bool) (cs : List (W32 × W32)) : W32 × Flags :=
  let t := foldMax isMax (cs.map (·.2))
  let hits := cs.filter (fun e => if isNan32 t.1 then isNan32 e.2 else e.2 == t.1)
  match hits with
  | [] => (0xFFFFFFFF, t.2)
  | e :: l => (l.foldl (fun a b => if b.1.toNat < a.toNat then b.1 else a) e.1, t.2)

/-- Result over no active lane, and whether it is EMPTY (Table 6-5). -/
def emptyRed (op : Nat) : W32 × Bool :=
  match op with
  | 0x2A => (0xFF800000, true)
  | 0x2B => (0x7F800000, true)
  | 0x2C => (0, true)
  | 0x2D => (0xFFFFFFFF, true)
  | 0x2E => (0xFFFFFFFF, true)
  | 0x2F => (0x7FC00000, true)
  | _ => (0, false)

def reduce (op : Nat) (cs : List (W32 × W32)) : W32 × Flags :=
  let xs := cs.map (·.2)
  match op with
  | 0x2A => foldMax true xs
  | 0x2B => foldMax false xs
  | 0x2C => foldMax true (xs.map fabs)
  | 0x2D => argRed true cs
  | 0x2E => argRed false cs
  | 0x30 => rneDy xs.length 0
  | _ => sumRed op xs

/-- A reduction. -/
def elemRed (op : Nat) (w : W32) (k : Ctx) : Ctx :=
  let vals := k.prog.lanes k.pos.row (regOf (eA w))
  let cs : List (W32 × W32) := ((bitList (k.active w)).zip ((List.range 128).zip vals)).filterMap
    (fun (e : Bool × Nat × W32) => if e.1 then some (k.pos.col e.2.1, e.2.2) else none)
  let (r, em) := if cs.isEmpty then (((emptyRed op).1, ({} : Flags)), (emptyRed op).2) else (reduce op cs, false)
  let k := k.writeDest op w [] r
  if em then { k with vec := { k.vec with empty := true, emptycnt := k.vec.emptycnt + 1 } } else k

/-- STADD and STMAX (R147, R151). -/
def elemSta (add : Bool) (w : W32) (k : Ctx) : Ctx :=
  let x := k.prog.scalar k.pos.row (regOf (eA w))
  let m := k.srcMark (if add then 0x38 else 0x39) w
  let t := k.staOf (eD w)
  let v := if add then dadd t.val (toF64 x) else dmaxi (t.kind != 2) t.val (toF64 x)
  let fl : Flags := if add then daddFlags t.val (toF64 x) else {}
  (k.setSta (eD w) { t with val := v, psn := t.psn || m }).vecFlags { fl with inv := fl.inv || (up x).isSnan }

/-! ## An instruction -/

/-- Two operands, and one. -/
def bin (f : W32 → W32 → W32 × Flags) (a b _ : W32) : W32 × Flags := f a b
def una (f : W32 → W32 × Flags) (a _ _ : W32) : W32 × Flags := f a
def bitwise (f : W32 → W32) (a _ _ : W32) : W32 × Flags := (f a, {})

/-- The effect of an allowed instruction (Table 6-4). -/
def Ctx.elem (op : Nat) (w : W32) (k : Ctx) : Ctx :=
  match op with
  | 0x01 => elemMap 0x01 (bitwise id) w k
  | 0x02 => elemMap 0x02 (bin fadd) w k
  | 0x03 => elemMap 0x03 (bin fsub) w k
  | 0x04 => elemMap 0x04 (bin fmul) w k
  | 0x05 => elemMap 0x05 ffma w k
  | 0x06 => elemMap 0x06 ffnma w k
  | 0x07 => elemMap 0x07 (bin fdiv) w k
  | 0x08 => elemMap 0x08 (una fsqrt) w k
  | 0x09 => elemMap 0x09 (bin (fmaxi true)) w k
  | 0x0A => elemMap 0x0A (bin (fmaxi false)) w k
  | 0x0B => elemMap 0x0B (bitwise fabs) w k
  | 0x0C => elemMap 0x0C (bitwise fneg) w k
  | 0x0D => elemSel w k
  | 0x0E => elemMap 0x0E (una frndi) w k
  | 0x0F => elemXadd w k
  | 0x10 => elemMap 0x10 (una fexp2) w k
  | 0x11 => elemMap 0x11 (una flog2) w k
  | 0x12 => elemMap 0x12 (una frsqrt) w k
  | 0x13 => elemMap 0x13 (una fsigm) w k
  | 0x14 => elemMap 0x14 (una ftanh) w k
  | 0x18 => elemCmp 0x18 (· == some .eq) w k
  | 0x19 => elemCmp 0x19 (· != some .eq) w k
  | 0x1A => elemCmp 0x1A (· == some .lt) w k
  | 0x1B => elemCmp 0x1B (fun o => o == some .lt || o == some .eq) w k
  | 0x1C => elemCmp 0x1C (· == none) w k
  | 0x1E => elemIdxc w k
  | 0x1F => elemIdxr w k
  | 0x20 => elemLd w k
  | 0x21 => elemSt w k
  | 0x38 => elemSta true w k
  | 0x39 => elemSta false w k
  | _ => if isRed op then elemRed op w k else k

/-- A descriptor, or a word of its program, is refused (R134). -/
def Ctx.vecRefuse (k : Ctx) : Ctx := { k with vec := { k.vec with descerr := true, descerrcnt := k.vec.descerrcnt + 1 } }

/-- One element instruction at the context's place in its program; a word that is not allowed is refused. -/
def Ctx.elemGo (op : Nat) (w : W32) (k : Ctx) : Ctx := if elemOk op w k.pos.en then k.elem op w else k.vecRefuse

def State.elemGo (s : State) (c : CoreId) (x : CtxId) (op : Nat) (w : W32) : State := s.modCtx c x (Ctx.elemGo op w)

end Sys2Proof.Machine
end

