-- ==== Sys2Proof/Machine/Update.lean ====
section
/-!
DEFINITION. The UPDATE command (R191, R192, R194 to R198): its descriptor, the update programs, working copies and its report.
-/
namespace Sys2Proof.Machine

/-! ## Descriptor (R195) -/

def udTilesR (d : BitVec 1536) : Nat := (udRows d - 1) / 128 + 1
def udTilesC (d : BitVec 1536) : Nat := (udCols d - 1) / 128 + 1

/-- Arrays of a descriptor: address, row stride and element size, in the order gradient slots, main part, first state, second state,
extension. -/
def udSlotsOf (d : BitVec 1536) : List W64 := (List.range (udSlots d)).map (fun i => udGrad d + BitVec.ofNat 64 (i * udSlotStep d))
def udArrays (d : BitVec 1536) : List W64 :=
  udSlotsOf d ++ [udMain d, udSt1 d] ++ (if udAlg d = 0 then [udSt2 d] else []) ++ (if udExt d ≠ 0 then [udExt d] else [])

/-- Images of the working copies: N copies, then K copies. -/
def udNImg (d : BitVec 1536) (a b : Nat) : W64 := udNc d + BitVec.ofNat 64 ((a * udTilesC d + b) * udNcStep d)
def udKImg (d : BitVec 1536) (a b : Nat) : W64 := udKc d + BitVec.ofNat 64 ((b * udTilesR d + a) * udKcStep d)
def udGrid (d : BitVec 1536) : List (Nat × Nat) :=
  (List.range (udTilesR d)).flatMap (fun a => (List.range (udTilesC d)).map (fun b => (a, b)))
def udImages (d : BitVec 1536) : List W64 :=
  if udWcen d then (udGrid d).flatMap (fun e => [udNImg d e.1 e.2, udKImg d e.1 e.2]) else []

/-- Refusals (R195): a reserved encoding of a QPW in any field other than ORI, RND 0b101 to 0b111 among them. -/
def State.udBad (s : State) (d : BitVec 1536) : Bool :=
  let qs := [udQpwK d, udQpwN d]
  decide (3 < udAlg d) || decide (1 < udGfmt d) || qs.any (fun q => qpwReserved q || decide (4 < (qRnd q).toNat)) || (udWcen d && qs.any (fun q => decide (1 < qFmt q))) ||
    (udArrays d ++ udImages d ++ (if udShdr d ≠ 0 then [udShdr d] else [])).any (fun a =>
      !s.isOwn a || decide (1 < aSpace a) || decide (aOff a % 64 ≠ 0)) ||
    decide (udStride d % 64 ≠ 0)

/-- Reserved fields that are not zero (R5). -/
def udEvents (d : BitVec 1536) : Nat :=
  b2n (bitAt d 1280 || fldN d 1024 192 != 0 || fldN (udQpwK d) 0 33 != 0 || fldN (udQpwN d) 0 33 != 0)

/-- Ranges of an array: rows of `w` bytes. -/
def udRanges (d : BitVec 1536) (a : W64) (stride e : Nat) : List (Nat × Nat) := rowRanges (aKey a) stride (udCols d * e) (udRows d)

def udGstride (d : BitVec 1536) : Nat := if udGfmt d = 1 then udStride d / 2 else udStride d
def udGsize (d : BitVec 1536) : Nat := if udGfmt d = 1 then 2 else 4

def udMainRanges (d : BitVec 1536) : List (Nat × Nat) :=
  udRanges d (udMain d) (udStride d) 4 ++ udRanges d (udSt1 d) (udStride d) 4 ++
    (if udAlg d = 0 then udRanges d (udSt2 d) (udStride d) 4 else []) ++ (if udExt d ≠ 0 then udRanges d (udExt d) (udStride d / 2) 2 else [])
def udReads (d : BitVec 1536) : List (Nat × Nat) :=
  (udSlotsOf d).flatMap (fun a => udRanges d a (udGstride d) (udGsize d)) ++ udMainRanges d
def udImgWrites (d : BitVec 1536) : List (Nat × Nat) :=
  let n (q : W128) : Nat := imageSize (qFmt q) (qGsz q) (qGzcap q)
  if udWcen d then (udGrid d).flatMap (fun e => [(aKey (udNImg d e.1 e.2), n (udQpwN d)), (aKey (udKImg d e.1 e.2), n (udQpwK d))]) else []

/-! ## The element (R196, R197) -/

/-- Values of an element: summed gradient, main part, extension, moments. -/
structure UdIn where
  g : W32
  w : W32
  e : Nat
  m : W32
  v : W32
  deriving DecidableEq, Repr

/-- Results of an element: new values, d for SSU when it was updated, and flags. -/
structure UdOut where
  w : W32
  e : Nat
  m : W32
  v : W32
  d : Option W32
  fl : Flags
  deriving DecidableEq, Repr

/-- Operations that keep the flags raised so far. -/
abbrev Fl := W32 × Flags
def Fl.lift1 (f : W32 → W32 × Flags) (a : Fl) : Fl := let (r, x) := f a.1; (r, a.2.or x)
def Fl.lift2 (f : W32 → W32 → W32 × Flags) (a b : Fl) : Fl := let (r, x) := f a.1 b.1; (r, (a.2.or b.2).or x)
def Fl.lift3 (f : W32 → W32 → W32 → W32 × Flags) (a b c : Fl) : Fl := let (r, x) := f a.1 b.1 c.1; (r, ((a.2.or b.2).or c.2).or x)
def Fl.of (a : W32) : Fl := (a, {})
def Fl.add (a b : Fl) : Fl := Fl.lift2 fadd a b
def Fl.mul (a b : Fl) : Fl := Fl.lift2 fmul a b
def Fl.div (a b : Fl) : Fl := Fl.lift2 fdiv a b
def Fl.fma (a b c : Fl) : Fl := Fl.lift3 ffma a b c
def Fl.sqrt (a : Fl) : Fl := Fl.lift1 fsqrt a
def Fl.neg (a : Fl) : Fl := (fneg a.1, a.2)

/-- Sign of Lion's interpolated momentum. -/
def lionSign (c : W32) : W32 :=
  match cmpFp (up c) (.fin false 0 0) with
  | none => qnan32
  | some .gt => 0x3F800000
  | some .lt => 0xBF800000
  | some .eq => 0

/-- New moments and d of an element (R196). -/
def udProgram (d : BitVec 1536) (i : UdIn) (gs : Fl) : Fl × Fl × Fl :=
  let w := Fl.of i.w
  let m := Fl.of i.m
  let v := Fl.of i.v
  let lr := Fl.of (udLr d)
  let wd := Fl.of (udWd d)
  let step (u : Fl) : Fl := (lr.mul (wd.fma w u)).neg
  if udAlg d = 0 then
    let m := (Fl.of (udB1 d)).fma m ((Fl.of (udOmb1 d)).mul gs)
    let v := (Fl.of (udB2 d)).fma v ((Fl.of (udOmb2 d)).mul (gs.mul gs))
    (m, v, step ((m.mul (Fl.of (udBc1 d))).div ((v.mul (Fl.of (udBc2 d))).sqrt.add (Fl.of (udEps d)))))
  else if udAlg d = 1 then
    let c := (Fl.of (udB1 d)).fma m ((Fl.of (udOmb1 d)).mul gs)
    ((Fl.of (udB2 d)).fma m ((Fl.of (udOmb2 d)).mul gs), v, step (lionSign c.1, c.2))
  else
    let b := (Fl.of (udMu d)).fma m gs
    (b, v, step (if udAlg d = 2 then b else (Fl.of (udMu d)).fma b gs))

/-- One element (R196, R197). -/
def udElem (d : BitVec 1536) (i : UdIn) (gfl : Flags) : UdOut :=
  if udSkipnf d && !isFinite32 i.g then ⟨i.w, i.e, i.m, i.v, none, gfl⟩
  else
    let gs : Fl := (Fl.of i.g).mul (Fl.of (udGscale d))
    let (m, v, dd) := udProgram d i gs
    let (w, e, fl) := if udExt d ≠ 0 then xaddF i.w i.e dd.1 else (let (w, fl) := fadd i.w dd.1; (w, 0, fl))
    ⟨w, e, m.1, v.1, some dd.1, (((gfl.or m.2).or v.2).or dd.2).or fl⟩

/-- Sum of the gradient slots of an element, ascending (R191). -/
def udSum : List Fl → Fl
  | [] => (0, {})
  | a :: t => t.foldl Fl.add a

/-! ## Arrays of a tile -/

/-- Elements [c0, c0 + n) of row i of an array, as codes of `e` bytes, with poison per element; `bad` are blocks that failed their
check. -/
def Mem.udRow (m : Mem) (bad : List Nat) (a : W64) (stride e i c0 n : Nat) : List (Nat × Bool) :=
  let k := aKey a + i * stride + c0 * e
  let ps := (unitsOf k (n * e)).map (fun u => m.unitPoison u || bad.contains (u / 64))
  let cs := elemsLe e n (m.bytes k (n * e))
  ((List.range n).zip cs).map (fun x => (x.2, ps.getD ((k % 64 + x.1 * e) / 64) false))

/-- The input row of a tile with the poison of each element. -/
def Mem.udIns (m : Mem) (bad : List Nat) (d : BitVec 1536) (i c0 n : Nat) : List (UdIn × Flags × Bool) :=
  let arr (a : W64) : List (Nat × Bool) := m.udRow bad a (udStride d) 4 i c0 n
  let zeros : List (Nat × Bool) := List.replicate n (0, false)
  let slots := (udSlotsOf d).map (fun a => m.udRow bad a (udGstride d) (udGsize d) i c0 n)
  let w := arr (udMain d)
  let st1 := arr (udSt1 d)
  let st2 := if udAlg d = 0 then arr (udSt2 d) else zeros
  let ext := if udExt d ≠ 0 then m.udRow bad (udExt d) (udStride d / 2) 2 i c0 n else zeros
  (List.range n).map (fun j =>
    let gs := slots.map (fun l => l.getD j (0, false))
    let g := udSum (gs.map (fun x => if udGfmt d = 1 then widen bf16 x.1 else (BitVec.ofNat 32 x.1, {})))
    let at4 (l : List (Nat × Bool)) : Nat × Bool := l.getD j (0, false)
    (⟨g.1, BitVec.ofNat 32 (at4 w).1, (at4 ext).1, BitVec.ofNat 32 (at4 st1).1, BitVec.ofNat 32 (at4 st2).1⟩, g.2,
      gs.any (·.2) || (at4 w).2 || (at4 ext).2 || (at4 st1).2 || (at4 st2).2))

/-- Write a row segment of an array: a unit with a poisoned element carries poison. -/
def State.udPut (s : State) (a : W64) (stride e i c0 : Nat) (cs : List (Nat × Bool)) : State :=
  let k := aKey a + i * stride + c0 * e
  let ps := (unitsOf k (cs.length * e)).map (fun u =>
    ((List.range cs.length).zip cs).any (fun x => x.2.2 && decide ((k + x.1 * e) / 64 = u)))
  s.writeMem k (cs.flatMap (fun x => leBytes e x.1)) ps

/-! ## The run -/

/-- What an UPDATE gathers: its report and the flags raised (R200). -/
structure UdAcc where
  ssu : W64 := 0
  ssw : W64 := 0
  nz : Nat := 0
  nf : Nat := 0
  psn : Bool := false
  fl : Flags := {}
  deriving DecidableEq, Repr

def sq64 (x : W32) : W64 := dmul (toF64 x) (toF64 x)

def UdAcc.elem (a : UdAcc) (e : (UdIn × Flags × Bool) × UdOut) : UdAcc where
  ssu := match e.2.d with
    | some d => dadd a.ssu (sq64 d)
    | none => a.ssu
  ssw := dadd a.ssw (sq64 e.1.1.w)
  nz := if isFinite32 e.1.1.g && !isZero32 e.1.1.g then satAdd a.nz 1 else a.nz
  nf := if isFinite32 e.1.1.g then a.nf else satAdd a.nf 1
  psn := a.psn || e.1.2.2
  fl := a.fl.or e.2.fl

/-- A row of a tile: results are written, figures gathered, and the new main parts kept with their poison. -/
def udRowGo (d : BitVec 1536) (m : Mem) (bad : List Nat) (c0 n : Nat) (r : State × UdAcc × List (List W32) × Bool) (i : Nat) :
    State × UdAcc × List (List W32) × Bool :=
  let ins := m.udIns bad d i c0 n
  let es := ins.map (fun x => (x, udElem d x.1 x.2.1))
  let put (s : State) (a : W64) (stride e : Nat) (f : UdOut → Nat) : State :=
    s.udPut a stride e i c0 (es.map (fun x => (f x.2, x.1.2.2)))
  let s := put r.1 (udMain d) (udStride d) 4 (fun o => o.w.toNat)
  let s := if udExt d ≠ 0 then put s (udExt d) (udStride d / 2) 2 (fun o => o.e) else s
  let s := put s (udSt1 d) (udStride d) 4 (fun o => o.m.toNat)
  let s := if udAlg d = 0 then put s (udSt2 d) (udStride d) 4 (fun o => o.v.toNat) else s
  (s, es.foldl UdAcc.elem r.2.1, r.2.2.1 ++ [es.map (fun x => x.2.w)], r.2.2.2 || ins.any (fun x => x.2.2))

/-- One working copy of a tile (R198). -/
def State.udCopy (s : State) (c : CoreId) (x : CtxId) (q : W128) (cols : Bool) (addr : W64) (row0 col0 : W32) (step : W64)
    (rows : Nat) (ncols : Nat) (tile : List (List W32)) (bad : Bool) : State :=
  let p := qctl q cols false row0 col0 step (s.seeds (s.partD c x) step)
  let t := p.tile tile
  let l := p.image q (rows - 1) (ncols - 1) t
  let s := s.writeFresh (Former.core c) (aKey addr) l (List.replicate (l.length / 64) bad)
  s.modCtx c x (fun k => (k.qntFlags t.fl).tileDone (qTensor q) t.tr.amax bad)

/-- A tile of the region. -/
def udTileGo (c : CoreId) (x : CtxId) (d : BitVec 1536) (m : Mem) (bad : List Nat) (step : W64) (r : State × UdAcc) (e : Nat × Nat) :
    State × UdAcc :=
  let (a, b) := e
  let rows := Nat.min 128 (udRows d - 128 * a)
  let cols := Nat.min 128 (udCols d - 128 * b)
  let (s, acc, ws, psn) := (List.range rows).foldl (fun r i => udRowGo d m bad (128 * b) cols r (128 * a + i)) (r.1, r.2, [], false)
  if !udWcen d then (s, acc)
  else
    let tile := (splitTile (padTile rows cols (fun i j => ((ws.getD i []).getD j 0, {})))).1
    let row0 := udRowBase d + BitVec.ofNat 32 (128 * a)
    let col0 := udColBase d + BitVec.ofNat 32 (128 * b)
    let s := s.udCopy c x (udQpwN d) false (udNImg d a b) row0 col0 step rows cols tile psn
    (s.udCopy c x (udQpwK d) true (udKImg d a b) row0 col0 step rows cols tile psn, acc)

/-- Check the blocks of what UPDATE reads: what was found, and the blocks that failed (R197, R313). -/
def State.checkEach (s : State) (rs : List (Nat × Nat)) : State × ReadChk × List Nat :=
  let s := s.addD (dk 0x2500 4) (fillBytes rs)
  (blocksOfRanges rs).foldl (fun (a : State × ReadChk × List Nat) b =>
    let (s, r) := a.1.checkBlock b
    (s, a.2.1.join r, if r.mismatch.isSome then b :: a.2.2 else a.2.2)) (s, ReadChk.none, [])

/-- The version of a shard that an UPDATE writes last (R192). -/
def State.udVersion (s : State) (c : CoreId) (d : BitVec 1536) (step : W64) : State :=
  if udShdr d = 0 then s
  else
    let v : W32 := (step + 1).setWidth 32
    s.writeMerge (Former.core c) (aKey (udShdr d)) (leBytes 4 v.toNat ++ leBytes 4 (~~~v).toNat) []

/-- Run an UPDATE: the state after, and the status of the command. -/
def State.updateRun (s : State) (c : CoreId) (x : CtxId) (step : W64) (d : BitVec 1536) : State × Byte :=
  let events := BitVec.ofNat 32 (udEvents d)
  let rnd := BitVec.ofNat 32 (([udQpwK d, udQpwN d].filter (fun q => udWcen d && !s.udBad d && rndBad (qFmt q) (qRnd q))).length)
  let s := s.modCtx c x (fun k => { k with
    vec := { k.vec with rsvcnt := k.vec.rsvcnt + events }
    qnt := { k.qnt with rsvcnt := k.qnt.rsvcnt + rnd } })
  if s.udBad d then (s.modCtx c x Ctx.vecRefuse, stDesc)
  else
    let p := s.partD c x
    let k := s.checkKeys p (udReads d ++ udImgWrites d ++ (if udShdr d ≠ 0 then [(aKey (udShdr d), 8)] else []))
    if k ≠ .ok then ((if k = .part then (s.refuse k).partFault c x step else s.refuse k), k.status)
    else
      let (s, r, bad) := s.checkEach (udReads d)
      let m := s.mem
      let (s, acc) := (udGrid d).foldl (udTileGo c x d m bad step) (s, {})
      let s := (s.freshRanges (Former.core c) (udMainRanges d)).udVersion c d step
      let s := s.raiseRead c x step r s.faultAddr
      let s := s.modCtx c x (fun k => k.vecFlags acc.fl)
      let rep : UpdRep := ⟨step, c.val, udLayer d, acc.ssu, acc.ssw, BitVec.ofNat 32 acc.nz, BitVec.ofNat 32 acc.nf, acc.psn⟩
      (s.modPart p (fun q => { q with reports := q.reports ++ [rep] }),
        if acc.psn then (if r.mismatch.isSome then stCheck else stPoison) else stOk)

end Sys2Proof.Machine
end

