-- ==== Sys2Proof/Machine/Close.lean ====
section
/-!
DEFINITION. What the collectors of the management complex do at a local close (R118 to R122, R125, R127, R200, R201, R203, R204): the fold
of the pins, the storm test, adaptive limits, the update watch, phase timers, and the three reports.
-/
namespace Sys2Proof.Machine

/-! ## Pins (R119) -/

/-- Rung to which the tallies of a step pin a layer. -/
def pinTarget (pinSteps limit minTiles : Nat) (t : Tally) : Nat :=
  if pinSteps = 0 ∨ t.checked < minTiles then 0
  else if limit * t.checked < t.up3 * 1024 then 3
  else if limit * t.checked < t.up2 * 1024 then 2
  else 0

/-- The fold of one pin record. -/
def foldPin (pinSteps maxSteps target : Nat) (p : Pin) : Pin :=
  if p.prung < target then
    let period := if p.prung = 0 then (if p.quiet < p.period then Nat.min (2 * p.period) maxSteps else pinSteps) else p.period
    { p with period := period, prung := target, left := period }
  else if p.prung ≠ 0 then
    let left := (p.left + 65535) % 65536
    if left ≠ 0 then { p with left := left }
    else if p.prung = 3 then { p with prung := 2, left := p.period }
    else { p with prung := 0, left := 0, quiet := 0 }
  else if p.quiet < 0xFFFF then { p with quiet := p.quiet + 1 }
  else p

/-- Layers that a step tallied or that have a pin record other than at reset, ascending. -/
def Part.ladderLayers (q : Part) : List Nat :=
  ((q.tallies.map (·.1)) ++ (q.pins.map (·.1))).eraseDups.mergeSort (fun a b => decide (a ≤ b))

def Part.foldPins (q : Part) (pinSteps maxSteps limit minTiles : Nat) : Part :=
  q.ladderLayers.foldl (fun q l =>
    { q with pins := SMap.set pinDflt q.pins l (foldPin pinSteps maxSteps (pinTarget pinSteps limit minTiles (q.tally l)) (q.pin l)) }) q

def Part.pinned (q : Part) : Nat := cnt (fun (e : Nat × Pin) => decide (e.2.prung ≠ 0)) q.pins

/-! ## Storm and adaptive limits (R121, R122) -/

/-- The storm test after a fold (R122). LADDER_STORM is raised by the collectors, so it belongs to the oldest undecided step (R319). -/
def State.stormTest (s : State) (p : PartId) : State :=
  let n := (s.part p).pinned
  let budget := s.dfN (dkp p 0x2410 6)
  let s := s.setDN (dkp p 0x2410 8) n
  if budget = 0xFFFF ∨ n ≤ budget then s.setDN (dkp p 0x2410 7) 0
  else if s.dN (dkp p 0x2410 7) = 0 then (s.setDN (dkp p 0x2410 7) 1).raiseMgmt p 0x07 n
  else s.incD (dkp p 0x2410 9)

/-- One adjustment of an effective limit (R121). DESIGN CHOICE (log entry 90): `eff - max(1, eff >> g)` stops at 0 instead of wrapping. -/
def adaptStep (eff lo hi trips checked target gain : Nat) : Nat :=
  let hi := Nat.max lo hi
  let by' := Nat.max 1 (eff / 2 ^ Nat.min gain 15)
  if target * checked < trips * 65536 then Nat.min hi (eff + by')
  else if 2 * (trips * 65536) < target * checked then Nat.max lo (eff - by')
  else eff

/-- The adaptive loop. -/
def State.adapt (s : State) (p : PartId) : State :=
  let f (sub : Nat) : Nat := s.dfN (dkp p 0x2413 sub)
  let ts := (s.part p).tallies.map (·.2)
  let checked1 := ts.foldl (fun a t => a + t.checked1) 0
  if f 1 = 0 ∨ checked1 < f 4 then s
  else
    let gz := ts.foldl (fun a t => a + t.tripGz) 0
    let tiny := ts.foldl (fun a t => a + t.tripTiny) 0
    (s.setDN (dkp p 0x2413 9) (adaptStep (s.dN (dkp p 0x2413 9)) (f 5) (f 6) gz checked1 (f 2) (f 3))).setDN (dkp p 0x2413 0x0A)
      (adaptStep (s.dN (dkp p 0x2413 0x0A)) (f 7) (f 8) tiny checked1 (f 2) (f 3))

/-! ## Reports (R125, R201, R203) -/

/-- Write a report, which ends with a merge of every block it touches (R310): a header that tells how many records follow and whether some were left out. -/
def State.writeReport (s : State) (p : PartId) (addr : W64) (size hdr rec : Nat) (drops : Nat) (mk : Nat → Bool → List Byte)
    (recs : List (List Byte)) : State :=
  if addr = 0 then s
  else if size < hdr ∨ !s.reportOk p addr size then s.incD drops
  else
    let fit := Nat.min recs.length ((size - hdr) / rec)
    let trunc := decide (fit < recs.length)
    let s := s.writeMerge Former.mgmt (aKey addr) (mk fit trunc ++ (recs.take fit).flatten) []
    if trunc then s.incD drops else s

/-- A record of the ladder report (Table 5-5). -/
def ladderRec (q : Part) (l : Nat) : List Byte :=
  let t := q.tally l
  let p := q.pin l
  leBytes 16 (p.left % 65536 * 2 ^ 112 + p.prung % 4 * 2 ^ 110 + l % 4096 * 2 ^ 96 + t.up3 % 2 ^ 32 * 2 ^ 64 + t.up2 % 2 ^ 32 * 2 ^ 32 +
    t.checked % 2 ^ 32)

def ladderHdr (step : W64) (pinned : Nat) (storm : Bool) (n : Nat) (trunc : Bool) : List Byte :=
  leBytes 32 (step.toNat + n * 2 ^ 64 + pinned % 65536 * 2 ^ 96 + b2n storm * 2 ^ 112 + b2n trunc * 2 ^ 113)

/-- The ladder report, which also goes to the companion (R125, R352). -/
def State.ladderReport (s : State) (p : PartId) (step : W64) : State :=
  let q := s.part p
  let ls := q.ladderLayers.filter (fun l => q.tallies.any (fun e => e.1 == l) || decide ((q.pin l).prung ≠ 0))
  let recs := ls.map (ladderRec q)
  let mk := ladderHdr step (s.dN (dkp p 0x2410 8)) (decide (s.dN (dkp p 0x2410 7) ≠ 0))
  let addr := s.df (dkp p 0x2414 1)
  let size := s.dfN (dkp p 0x2414 2)
  let s := s.writeReport p addr size 32 16 (dkp p 0x2414 3) mk recs
  if addr ≠ 0 ∧ 32 ≤ size ∧ s.reportOk p addr size then s.telemetry p 3 step (mk recs.length false ++ recs.flatten) else s

/-! ## Update watch (R200) -/

/-- Figures of one layer in a step. -/
structure LayerUpd where
  layer : Nat
  ssu : W64
  ssw : W64
  nz : Nat
  nf : Nat
  psn : Bool
  low : Bool
  deriving DecidableEq, Repr

def Part.watchOf (q : Part) (l : Nat) : Watch := SMap.get (fun _ => {}) q.watch l

/-- The reports of a step added up for one layer: ascending core, and within a core in order of issue. -/
def layerUpd (f2 : W64) (rs : List UpdRep) (l : Nat) : LayerUpd :=
  let rs := (rs.filter (fun r => r.layer.toNat == l)).mergeSort (fun a b => decide (a.core ≤ b.core))
  let sum (f : UpdRep → W64) : W64 := match rs with
    | [] => 0
    | r :: t => t.foldl (fun a r => dadd a (f r)) (f r)
  let ssu := sum (·.ssu)
  let ssw := sum (·.ssw)
  ⟨l, ssu, ssw, rs.foldl (fun a r => satAdd a r.nz.toNat) 0, rs.foldl (fun a r => satAdd a r.nf.toNat) 0, rs.any (·.psn),
    dlt 0 ssw && dlt ssu (dmul f2 ssw)⟩

/-- Watch state of a layer after a step. -/
def Watch.next (w : Watch) (u : LayerUpd) : Watch :=
  { w with
    lowrun := if u.low then Nat.min (w.lowrun + 1) 0xFFFF else 0
    silrun := if u.nz = 0 then Nat.min (w.silrun + 1) 0xFFFF else 0 }

/-- One layer of the watch: alarms begin and end. STALL_ALARM belongs to the oldest undecided step (R319). -/
def State.watchLayer (s : State) (p : PartId) (n : Nat) (u : LayerUpd) : State :=
  let w := ((s.part p).watchOf u.layer).next u
  let rise := n ≠ 0 ∧ !w.alarm ∧ (n ≤ w.lowrun ∨ n ≤ w.silrun)
  let w1 := if rise then { w with alarm := true } else w
  let fall := w1.alarm ∧ w1.lowrun = 0 ∧ w1.silrun = 0
  let w2 := if fall then { w1 with alarm := false } else w1
  let key := dkp p 0x2450 6
  let s := s.modPart p (fun q => { q with watch := SMap.set (fun _ => {}) q.watch u.layer w2 })
  let s := if rise then (s.incD key).raiseMgmt p 0x08 u.layer else s
  if fall then s.setDN key (s.dN key - 1) else s

/-- A record of the update report (Table 8-8). -/
def updRec (q : Part) (u : LayerUpd) : List Byte :=
  let w := q.watchOf u.layer
  leBytes 32 (w.silrun * 2 ^ 224 + w.lowrun * 2 ^ 208 + b2n u.psn * 2 ^ 207 + b2n w.alarm * 2 ^ 206 + b2n (u.nz == 0) * 2 ^ 205 +
    b2n u.low * 2 ^ 204 + u.layer % 4096 * 2 ^ 192 + u.nf * 2 ^ 160 + u.nz * 2 ^ 128 + u.ssw.toNat * 2 ^ 64 + u.ssu.toNat)

/-- The watch and its report (R200, R201). -/
def State.updateWatch (s : State) (p : PartId) (step : W64) : State :=
  let rs := (s.part p).reports.filter (fun r => r.step == step)
  let floor := toF64 ((s.df (dkp p 0x2450 1)).setWidth 32)
  let ls := (rs.map (fun r => r.layer.toNat)).eraseDups.mergeSort (fun a b => decide (a ≤ b))
  let us := ls.map (layerUpd (dmul floor floor) rs)
  let s := us.foldl (fun s u => s.watchLayer p (s.dfN (dkp p 0x2450 2)) u) s
  let s := s.writeReport p (s.df (dkp p 0x2450 3)) (s.dfN (dkp p 0x2450 4)) 32 32 (dkp p 0x2450 5)
    (fun n t => ladderHdr step (s.dN (dkp p 0x2450 6)) false n t) (us.map (updRec (s.part p)))
  s.modPart p (fun q => { q with reports := q.reports.filter (fun r => r.step != step) })

/-! ## Phase timers (R202, R203) -/

/-- Timers of a core for step n: those of the step its last primary STEPCOMMIT ended, or those still running. -/
def Core.stepTimers (k : Core) (n : W64) : SMap W64 := if n.toNat < k.prim.step.toNat then k.lastTimers else k.timers
def timerAt (m : SMap W64) (i : Nat) : W64 := SMap.get (fun _ => 0) m i

/-- Cores of a partition: those whose primary context it owns. -/
def State.coresIn (s : State) (p : PartId) : List CoreId := s.liveCores.filter (fun c => (s.ctx c .primary).part == some p)

def phaseHdr (step : W64) (cores : List CoreId) (n : Nat) (trunc : Bool) : List Byte :=
  leBytes 64 (step.toNat + n * 2 ^ 64 + b2n trunc * 2 ^ 96 + ((cores.take n).foldl (fun a c => a + 2 ^ (128 + c.val)) 0))

/-- Sums, phase record and phase stream (R203). -/
def State.phaseReport (s : State) (p : PartId) (step : W64) : State :=
  let cs := s.coresIn p
  let ts := cs.map (fun c => (s.core c).stepTimers step)
  let s := (List.range 8).foldl (fun s i => s.setD (dkp p 0x2710 (i + 1)) (ts.foldl (fun a t => a + timerAt t i) 0)) s
  let s := s.setD (dkp p 0x2710 9) step
  let recs := ts.map (fun t => (List.range 8).flatMap (fun i => leBytes 8 (timerAt t i).toNat))
  let s := s.writeReport p (s.df (dkp p 0x2711 1)) (s.dfN (dkp p 0x2711 2)) 64 64 (dkp p 0x2711 4) (phaseHdr step cs) recs
  if s.dfN (dkp p 0x2711 3) = 1 then s.telemetry p 1 step (phaseHdr step cs recs.length false ++ recs.flatten) else s

/-! ## Entries that take effect at a local close (R127, R204) -/

/-- Keys of the rw entries of Tables 5-6 and 8-10. -/
def closeKeys (p : PartId) : List Nat :=
  ([(0x2410, 1, 6), (0x2411, 1, 5), (0x2412, 1, 4), (0x2413, 1, 8), (0x2414, 1, 2), (0x2450, 1, 4), (0x2711, 1, 3)] : List (Nat × Nat × Nat)).flatMap
    (fun e => (List.range e.2.2).map (fun i => dkp p e.1 (e.2.1 + i)))

def clampTo (lo hi x : Nat) : Nat := Nat.min (Nat.max lo hi) (Nat.max lo x)

/-- Written values come into force; an effective limit starts again where the loop or its configured limit takes effect (R121).
DESIGN CHOICE (log entry 90): a rewrite of the value already in force restarts nothing. -/
def State.latchEntries (s : State) (p : PartId) : State :=
  let on := s.dfN (dkp p 0x2413 1) = 0 ∧ s.dN (dkp p 0x2413 1) ≠ 0
  let gz := on ∨ s.df (dkp p 0x2411 1) ≠ s.d (dkp p 0x2411 1)
  let tiny := on ∨ s.df (dkp p 0x2411 2) ≠ s.d (dkp p 0x2411 2)
  let s := (closeKeys p).foldl (fun s k => s.setDf k (s.d k)) s
  let f (i j : Nat) : Nat := s.dfN (dkp p i j)
  let s := if gz then s.setDN (dkp p 0x2413 9) (clampTo (f 0x2413 5) (f 0x2413 6) (f 0x2411 1)) else s
  if tiny then s.setDN (dkp p 0x2413 0x0A) (clampTo (f 0x2413 7) (f 0x2413 8) (f 0x2411 2)) else s

/-- The collectors at the local close of a step (R118 to R128, R200 to R204). -/
def State.collectorsClose (s : State) (p : PartId) (step : W64) : State :=
  let f (sub : Nat) : Nat := s.dfN (dkp p 0x2410 sub)
  let s := s.modPart p (fun q => q.foldPins (f 3) (f 4) (f 2) (f 5))
  let s := (s.stormTest p).adapt p
  let s := ((s.ladderReport p step).updateWatch p step).phaseReport p step
  let s := s.modPart p (fun q => { q with tallies := [], pinStep := step + 1 })
  s.latchEntries p

end Sys2Proof.Machine
end

