-- ==== Sys2Proof/Machine/Ckpt.lean ====
section
/-!
DEFINITION. Checkpoints: the checkpoint table, the copy to the buddy slot, the stream to the companion, and the copy back at a restart
(R326 to R328, R353, R417).
-/
namespace Sys2Proof.Machine

/-! ## The checkpoint table (R326) -/

def ckKey (p : PartId) (sub : Nat) : Nat := dkx 0x2510 p sub
def stepCommittedKey (p : PartId) : Nat := ckKey p 7

structure CkptTab where
  buddy : W16
  stream : Bool
  addr : W64
  slot : Nat
  ranges : List CkptRange
  len : Nat
  deriving DecidableEq, Repr

/-- Bytes of a checkpoint before its first range: its header and the module state (log entry 7). -/
def ckptHead : Nat := 64 + 64 * Config.ckptUnits

/-- Ranges with their places among the checkpoint's bytes. -/
def placeRanges : Nat → List (Nat × Nat) → List CkptRange
  | _, [] => []
  | o, (k, n) :: t => ⟨k, n, o⟩ :: placeRanges (o + n) t

/-- A range record: an address on the own module and a length, both multiples of 64. -/
def State.ckptRange (s : State) (p : PartId) (l : List Byte) : Option (Nat × Nat) :=
  let r : W128 := BitVec.ofNat 128 (ofLe l)
  let a : W64 := fld r 0 64
  let n := fldN r 64 40
  if s.ownMem a n ∧ aOff a % 64 = 0 ∧ n % 64 = 0 ∧ s.check p a n = .ok then some (aKey a, n) else none

/-- A range record names memory of another partition. -/
def State.rangeOther (s : State) (p : PartId) (l : List Byte) : Bool :=
  let r : W128 := BitVec.ofNat 128 (ofLe l)
  s.ownMem (fld r 0 64) (fldN r 64 40) && s.check p (fld r 0 64) (fldN r 64 40) == .part

/-- Read the table, its reserved fields ignored (R5); none when it is malformed, refused, or its checkpoint does not fit its slot. A range
that the partition does not own is refused as the copy's reads would be (R19). -/
def State.ckptTable (s : State) (p : PartId) : State × Option CkptTab :=
  let a := s.d (ckKey p 0x0A)
  if a = 0 ∨ !s.ownMem a 64 ∨ aOff a % 64 ≠ 0 then (s, none)
  else match s.tableRead p a 0 64 with
  | (s, none) => (s, none)
  | (s, some hd) =>
    let h : BitVec 512 := BitVec.ofNat 512 (ofLe hd)
    let n := fldN h 0 32
    if !s.ownMem a (64 + 16 * n) then (s, none)
    else match s.tableRead p a 64 (16 * n) with
    | (s, none) => (s, none)
    | (s, some l) =>
      let rs := (chunksOf 16 n l).map (s.ckptRange p)
      let s := if (chunksOf 16 n l).any (s.rangeOther p) then s.mgmtRefuse p .part else s
      let addr : W64 := fld h 64 64
      let slot := fldN h 128 64
      let ok := rs.filterMap id
      let places := placeRanges ckptHead ok
      let len := ckptHead + ok.foldl (fun a r => a + r.2) 0
      if rs.any Option.isNone ∨ slot < len ∨ aSpace addr ≠ 0 ∨ aOff addr % 64 ≠ 0 ∨ slot % 64 ≠ 0 ∨
        !addrForm addr (2 * slot) then (s, none)
      else (s, some ⟨fld h 32 16, bitAt h 48, addr, slot, places, len⟩)

/-! ## Valid checkpoints (R327) -/

/-- CKPT_LATEST and CKPT_PREV name the steps of the valid checkpoints. -/
def State.showCkpt (s : State) (p : PartId) : State :=
  let k := (s.part p).ckpt
  let none' : W64 := BitVec.allOnes 64
  let (a, b) := match k.slot0, k.slot1 with
    | none, none => (none', none')
    | some x, none => (x, none')
    | none, some y => (y, none')
    | some x, some y => if x.toNat < y.toNat then (y, x) else (x, y)
  (s.setD (ckKey p 0x0D) a).setD (ckKey p 0x0E) b

def Ckpt.setSlot (k : Ckpt) (slot : Nat) (v : Option W64) : Ckpt := if slot = 0 then { k with slot0 := v } else { k with slot1 := v }

/-- A complete copy of a step that has committed becomes valid. -/
def State.ckptValid (s : State) (p : PartId) : State :=
  match (s.part p).ckpt.copied with
  | some (n, slot) =>
    if (s.part p).gate.committed n then
      (s.modPart p (fun q => { q with ckpt := { q.ckpt.setSlot slot (some n) with copied := none } })).showCkpt p
    else s
  | none => s

/-- The slot of a requested checkpoint. -/
def Ckpt.requestSlot (k : Ckpt) : Nat :=
  match k.slot0, k.slot1 with
  | none, none => 0
  | none, some _ => 0
  | some _, none => 1
  | some x, some y => if x.toNat < y.toNat then 0 else 1

/-- The slot of a checkpoint that is due at the local close of step n. -/
def State.ckptDue (s : State) (p : PartId) (n : W64) : Option Nat :=
  let every := s.dN (ckKey p 0x0B)
  let k := (s.part p).ckpt
  if k.copying.isSome then none
  else if every ≠ 0 ∧ n.toNat % every = 0 then some (n.toNat / every % 2)
  else if k.requested then some k.requestSlot
  else none

/-! ## Module state (R128, R200, R326, R372) -/

/-- Keys of the entries a checkpoint carries: those in force of Tables 5-6 and 8-10, the effective limits and STORM_STATE. -/
def savedForce (p : PartId) : List Nat := closeKeys p
def savedDict (p : PartId) : List Nat := [dkp p 0x2410 7, dkp p 0x2413 9, dkp p 0x2413 0x0A]

def State.saveState (s : State) (p : PartId) (slot : Nat) (n : W64) : SavedState :=
  let q := s.part p
  let e := (savedForce p).foldl (fun m k => SMap.set dictDflt m k (s.df k)) []
  let e := (savedDict p).foldl (fun m k => SMap.set dictDflt m k (s.d k)) e
  ⟨slot, n, q.pins, q.watch, e, q.latched⟩

/-- A restart restores the module state of a checkpoint. -/
def State.restoreState (s : State) (p : PartId) (v : SavedState) : State :=
  let at' (k : Nat) : W64 := SMap.get dictDflt v.entries k
  let s := (savedForce p).foldl (fun s k => (s.setDf k (at' k)).setD k (at' k)) s
  let s := (savedDict p).foldl (fun s k => s.setD k (at' k)) s
  let s := s.modPart p (fun q => { q with pins := v.pins, watch := v.watch, latched := v.latched, tallies := [], reports := [], pinStep := v.step + 1, seedWritten := false })
  let s := (s.setDN (dkp p 0x2410 8) (s.part p).pinned).setDN (dkp p 0x2450 6) (cnt (fun (e : Nat × Watch) => e.2.alarm) v.watch)
  match v.latched with
  | l :: _ => ((s.setD (dkp p 0x2440 1) l.sr).setD (dkp p 0x2440 2) l.rot).setD (dkp p 0x2440 3) l.since
  | [] => ((s.setDN (dkp p 0x2440 1) 0).setDN (dkp p 0x2440 2) 0).setDN (dkp p 0x2440 3) 0

/-! ## Requests of the management complex for a checkpoint -/

/-- A request is in flight for a block that a header packet names. -/
def State.ckptOutstanding (s : State) (p : PartId) (a : W64) : Bool :=
  s.reqs.any (fun e => match e.2 with
    | some r => r.sink.ofPart == some p && r.addr.toNat / 4096 == a.toNat / 4096
    | none => false)

/-- The next packet of the copy is sent, where the port has a tag free and no packet of the same block is outstanding. -/
def State.ckptPumpStep (s : State) (p : PartId) : Option State :=
  match (s.part p).ckpt.queue with
  | [] => none
  | (pk, k) :: rest =>
    let a := pAddr pk.hdr
    if pPsn pk.hdr = 0xFE ∧ pOpc pk.hdr = 1 ∧ s.ckptOutstanding p a then none
    else (s.sendReq 2 0 (routeNo 2 0) (s.planOf p) pk ⟨0, .primary, 0, a, k⟩).map
      (fun s => s.modPart p (fun q => { q with ckpt := { q.ckpt with queue := rest, outst := q.ckpt.outst + 1 } }))

/-- Let the copy's queued packets go, in order. -/
def ckptPumpGo (p : PartId) : Nat → State → State
  | 0, s => s
  | n + 1, s =>
    match s.ckptPumpStep p with
    | none => s
    | some s => ckptPumpGo p n s

def State.ckptPump (s : State) (p : PartId) : State := ckptPumpGo p (s.part p).ckpt.queue.length s

/-! ## The copy (R326, R327) -/

/-- What the checkpoint header holds: n and its complement, part number and stepping, numerics edition and length (R326, R358). -/
def ckptFacts (n : W64) (len : Nat) : List W64 := [n, ~~~n, 0x302D54342D564256, 0x31, 0xB1, 3, BitVec.ofNat 64 len]

/-- What the module state of a checkpoint holds: the ladder state, the watch state, the seeds and STEP_COMMITTED (R128, R200, R326). -/
def SavedState.facts (v : SavedState) (committed : W64) : List W64 :=
  let w (n : Nat) : W64 := BitVec.ofNat 64 n
  v.pins.flatMap (fun e => [w e.1, w e.2.prung, w e.2.left, w e.2.period, w e.2.quiet]) ++
    v.watch.flatMap (fun e => [w e.1, w e.2.lowrun, w e.2.silrun, w (b2n e.2.alarm)]) ++ v.entries.flatMap (fun e => [w e.1, e.2]) ++
    v.latched.flatMap (fun l => [l.sr, l.rot, l.since]) ++ [committed]

/-- Bytes of header and module state: what they hold is stated, their layout is free (log entry 7). -/
def ckptHeadBytes (v : SavedState) (committed : W64) (len : Nat) : List Byte :=
  ((List.range 2).flatMap (fun i => leBytes 32 (Config.ckptWord (ckptFacts v.step len) i).toNat)) ++
    (List.range (2 * Config.ckptUnits)).flatMap (fun i => leBytes 32 (Config.ckptWord (v.facts committed) i).toNat)

/-- Own-module address of a memory key, and the place of an offset in a slot. -/
def CkptTab.place (t : CkptTab) (slot off : Nat) : W64 := t.addr + BitVec.ofNat 64 (slot * t.slot + off)

/-- Packets that write header and module state: plain bytes. -/
def State.headPackets (s : State) (p : PartId) (dst : W64) (l : List Byte) : List (Packet × Sink) :=
  (piecesOf (maxPkt (s.pver p)) (aOff dst) l.length).map (fun e =>
    let a := dst + BitVec.ofNat 64 e.1
    (s.reqPkt p 0x01 2 (e.2 / 16 - 1) 0 false a (unitsOfBytes ((l.drop e.1).take e.2)), Sink.ckpt p))

/-- Copy to a slot on this module. -/
def State.ckptLocal (s : State) (p : PartId) (t : CkptTab) (slot : Nat) (head : List Byte) : State × Bool :=
  match s.check p (t.place slot 0) t.len with
  | .ok =>
    let s := s.writeMerge Former.mgmt (aKey (t.place slot 0)) head []
    t.ranges.foldl (fun (a : State × Bool) r =>
      let m := a.1.move Former.mgmt p (keyAddr r.key) (t.place slot r.off) r.len
      (if m.chk = .part then m.st.raiseMgmt p 0x0B 1 else m.st, a.2 && m.chk == .ok)) (s, true)
  | c => (s.mgmtRefuse p c, false)

/-- Queue the copy to a slot on another module. -/
def State.ckptRemote (s : State) (p : PartId) (t : CkptTab) (slot : Nat) (head : List Byte) : State × Bool :=
  if reservedDev (aDev t.addr) ∨ (s.planOf p).isNone ∨ s.ownDev = 0xFFFF then (s, false)
  else
    let q := s.headPackets p (t.place slot 0) head
    let (s, ok, q) := t.ranges.foldl (fun (a : State × Bool × List (Packet × Sink)) r =>
      let (s, c, l) := a.1.putPackets p 2 false (keyAddr r.key) (t.place slot r.off) r.len
      (if c = .part then s.raiseMgmt p 0x0B 1 else s, a.2.1 && c == .ok, a.2.2 ++ l.map (fun e => (e.1, Sink.ckpt p)))) (s, true, q)
    ((s.modPart p (fun k => { k with ckpt := { k.ckpt with queue := q } })).ckptPump p, ok)

/-! ## The stream to the companion (R353) -/

/-- Bytes of a checkpoint with the poison of each 64-byte unit. -/
def State.ckptBytes (s : State) (t : CkptTab) (head : List Byte) : State × List Byte × List Bool :=
  t.ranges.foldl (fun (a : State × List Byte × List Bool) r =>
    let (s, l, ps) := a.1.readMem r.key r.len
    (s, a.2.1 ++ l, a.2.2 ++ ps)) (s, head, List.replicate (head.length / 64) false)

/-- Header of a 4 KiB block of the checkpoint's bytes: that of a source block it equals, else formed here. -/
def State.streamHdr (s : State) (t : CkptTab) (l : List Byte) (b : Nat) : W64 :=
  match t.ranges.find? (fun r => decide (r.off ≤ 4096 * b ∧ 4096 * b + 4096 ≤ r.off + r.len ∧ (r.key + (4096 * b - r.off)) % 4096 = 0)) with
  | some r => s.mem.header ((r.key + (4096 * b - r.off)) / 4096)
  | none =>
    let c := (l.drop (4096 * b)).take 4096
    mkHeader s.ownDev 0 2 (crc32c (c ++ List.replicate (4096 - c.length) 0))

/-- Write bytes to companion memory in messages of the version's size. -/
def State.streamWrite (s : State) (p : PartId) (a : Nat) (l : List Byte) (ps : List Bool) : State :=
  let n := 64 * mclMaxLines s.mclVer
  (List.range ((l.length + n - 1) / n)).foldl (fun s i =>
    let c := (l.drop (n * i)).take n
    let lines := (linesOfBytes c).take ((c.length + 63) / 64)
    let f := (List.range lines.length).foldl (fun a j => if ps.getD (n / 64 * i + j) false then a + 2 ^ j else a) 0
    let psn : Byte := if s.mclVer = 3 then BitVec.ofNat 8 f else 0
    s.mclPost 0x03 p (BitVec.ofNat 64 (a + n * i)) lines (lines.length - 1) psn none) s

/-- The stream header. -/
def streamHead (n : W64) (len state : Nat) : List Byte := leBytes 64 (n.toNat + (~~~n).toNat * 2 ^ 64 + len % 2 ^ 64 * 2 ^ 128 + state * 2 ^ 192)

/-- Stream a checkpoint, when its partition has a window of kind 5. Poison that the version does not carry gives status 0x05 instead
(Table 14-1). -/
def State.ckptStream (s : State) (p : PartId) (t : CkptTab) (n : W64) (head : List Byte) : State :=
  match s.winOf p 5 with
  | none => s
  | some w =>
    let record (st : Byte) (s : State) : State := s.postRecord p (mkRecord n 0 0 4 st 0 false p 0) false none
    let blocks := (t.len + 4095) / 4096
    if w.size < 4096 + 4096 * blocks + 8 * blocks then record 0x02 s
    else if !s.mclActive then record 0x12 s
    else
      let (s, l, ps) := s.ckptBytes t head
      let hs := (List.range blocks).flatMap (fun b => leBytes 8 (s.streamHdr t l b).toNat)
      let s := s.streamWrite p w.base (streamHead n t.len 1) []
      let s := s.streamWrite p (w.base + 4096) l ps
      let s := s.streamWrite p (w.base + 4096 + 4096 * blocks) hs []
      record (if ps.any id && s.mclVer != 3 then stPoison else stOk) (s.streamWrite p w.base (streamHead n t.len 2) [])

/-! ## Starting and ending a copy -/

/-- Start a checkpoint of step n in a slot. The slot's old checkpoint is no longer valid. -/
def State.ckptStart (s : State) (p : PartId) (n : W64) (slot : Nat) : State :=
  match s.ckptTable p with
  | (s, none) => s
  | (s, some t) =>
    let saved := s.saveState p slot n
    let head := ckptHeadBytes saved (s.d (stepCommittedKey p)) t.len
    let s := s.modPart p (fun q => { q with ckpt := { q.ckpt.setSlot slot none with
      copying := some (n, slot)
      ranges := t.ranges.map (fun r => (r.key, r.len))
      copied := none
      requested := false
      saved := q.ckpt.saved.filter (fun v => v.slot != slot) ++ [saved]
      queue := [], outst := 0, failed := false } })
    let s := (s.showCkpt p).setDN (ckKey p 0x0F) 1
    let (s, ok) := if s.isOwn t.addr then s.ckptLocal p t slot head else s.ckptRemote p t slot head
    let s := s.modPart p (fun q => { q with ckpt := { q.ckpt with failed := q.ckpt.failed || !ok } })
    if t.stream then s.ckptStream p t n head else s

/-- The checkpoint of a local close, if one is due (R326). -/
def State.ckptClose (s : State) (p : PartId) (n : W64) : State :=
  match s.ckptDue p n with
  | some slot => s.ckptStart p n slot
  | none => s

/-- An answer to a request of the copy or the restore; `ok` says that it is no error. -/
def State.ckptAnswer (s : State) (p : PartId) (ok : Bool) : State :=
  let s := s.modPart p (fun q => { q with ckpt := { q.ckpt with
    outst := q.ckpt.outst - 1
    failed := q.ckpt.failed || !ok
    queue := if ok then q.ckpt.queue else [] } })
  s.ckptPump p

/-- CHECKPOINT_COPY_DONE (R327). A copy that failed leaves no checkpoint. -/
def execCheckpointCopyDone (p : PartId) (s : State) : Host.Outcome State Fault Refusal :=
  let k := (s.part p).ckpt
  match k.copying with
  | none => .next s
  | some (n, slot) =>
    if k.outst ≠ 0 ∨ !k.queue.isEmpty then .next s
    else
      let s := s.modPart p (fun q => { q with ckpt := { q.ckpt with
        copying := none, ranges := [], copied := if k.failed then none else some (n, slot), failed := false } })
      .next (((s.setDN (ckKey p 0x0F) 0).ckptValid p).settle)

/-! ## The copy back (R328, R353) -/

/-- The slot that holds the checkpoint of a step. -/
def Ckpt.slotOf (k : Ckpt) (c : W64) : Option Nat :=
  if k.slot0 = some c then some 0 else if k.slot1 = some c then some 1 else none

/-- Blocks of a slot that a restore reads: every block its bytes touch. -/
def restoreSpan (base len : Nat) : Nat × Nat := (base / 4096 * 4096, (base + len + 4095) / 4096 * 4096)

/-- Read a slot of another module, data and headers. -/
def State.restorePackets (s : State) (p : PartId) (a : W64) (len : Nat) : List (Packet × Sink) :=
  let (lo, hi) := restoreSpan (aOff a) len
  let at' (k : Nat) : W64 := a - BitVec.ofNat 64 (aOff a) + BitVec.ofNat 64 k
  (piecesOf (maxPkt (s.pver p)) lo (hi - lo)).flatMap (fun e =>
    let k := lo + e.1
    [(s.reqPkt p 0x02 2 (e.2 / 16 - 1) 0 false (at' k) [], Sink.restore p k (e.2 / 16))] ++
    (if (k + e.2) % 4096 = 0 then [(s.reqPkt p 0x02 2 0 0xFE false (at' (k + e.2 - 4096)) [], Sink.restore p (k + e.2 - 4096) 0)] else []))

/-- Keep bytes that arrive for a restore. -/
def Restore.take (r : Restore) (k : Nat) (l : List Byte) (ps : List Bool) : Restore :=
  { r with kept := (r.kept.put k l).setUnits (k / 64) ((List.range ((l.length + 63) / 64)).map (fun i =>
      if ps.getD i false then UnitSt.poisoned else UnitSt.clean)) }

def State.modRestore (s : State) (p : PartId) (f : Restore → Restore) : State :=
  s.modPart p (fun q => { q with ckpt := { q.ckpt with restore := q.ckpt.restore.map f } })

/-- Read the stream of a checkpoint of `len` bytes from companion memory by RDN; the window holds it. -/
def State.streamRead (s : State) (p : PartId) (w : Win) (len : Nat) : State × Nat :=
  let blocks := (len + 4095) / 4096
  let n := mclMaxLines s.mclVer
  let total := (4096 + 4096 * blocks + (8 * blocks + 63) / 64 * 64) / 64
  let spans : List (Nat × Nat) := (0, 1) :: ((List.range ((total - 64 + n - 1) / n)).map (fun i => (64 + n * i, Nat.min n (total - 64 - n * i))))
  (spans.foldl (fun s e => s.mclReq 0x02 p (BitVec.ofNat 64 (w.base + 64 * e.1)) [] (e.2 - 1) 0 (.ckpt p (64 * e.1))) s, spans.length)

/-- Blocks of what a restore keeps are checked (R313). -/
def State.restoreCheck (s : State) (r : Restore) : State × ReadChk :=
  let m := s.mem
  let (t, c) := ({ s with mem := r.kept }).checkRanges [(r.base, r.len)]
  ({ t with mem := m, stackSts := s.stackSts }, c)

/-- Write one range back, with the headers of whole blocks. -/
def State.restoreRange (s : State) (r : Restore) (e : CkptRange) : State :=
  let src := r.base + e.off
  let s := s.writeMem e.key (r.kept.bytes src e.len) []
  (blocksOf e.key e.len).foldl (fun s b =>
    let lo := b * 4096
    if e.key ≤ lo ∧ lo + 4096 ≤ e.key + e.len ∧ (src + (lo - e.key)) % 4096 = 0 then
      { s with mem := s.mem.setHeader b (r.kept.header ((src + (lo - e.key)) / 4096)) }
    else s.mergeBlock Former.mgmt b) s

/-- A restore whose bytes are all here: they are checked and written back; module state, step values and gate follow, and the member
replies. One that fails its checks ends without a reply. -/
def State.restoreEnd (s : State) (p : PartId) : State :=
  let k := (s.part p).ckpt
  match k.restore with
  | none => s
  | some r =>
    if k.outst ≠ 0 ∨ !k.queue.isEmpty then s
    else
      let s := s.modPart p (fun q => { q with ckpt := { q.ckpt with restore := none, failed := false } })
      if k.failed then s
      else
        let (s, c) := s.restoreCheck r
        let s := match c.poison with
          | some a => s.raiseMgmt p 0x01 (s.faultAddr a).toNat
          | none => s
        let s := match c.mismatch with
          | some a => s.raiseMgmt p 0x05 (s.faultAddr a).toNat
          | none => s
        match c.bad, k.saved.find? (fun v => v.step == r.step) with
        | true, _ => s
        | false, none => s
        | false, some v =>
          let s := r.ranges.foldl (fun s e => s.restoreRange r e) s
          let s := s.restoreState p v
          let n := r.step + 1
          let s := (s.ctxsOf p).foldl (fun s e => s.modCtx e.1 e.2 (fun x => { x with step := n })) s
          let s := s.modGate p (fun _ => ⟨n, false, false, none, none, none⟩)
          let s := (s.setCrit (stepCommittedKey p) r.step).setDN (gateStateKey p) 0
          { s with lead := { s.lead with pendingReplies := (s.lead.pendingReplies ++ [(p, 2, r.step)]).eraseDups } }

/-- Start the copy back of checkpoint c: from the buddy slot, or from the companion when the buddy is lost. -/
def State.restoreStart (s : State) (p : PartId) (c : W64) (lost : W16 → Bool) : State :=
  match s.ckptTable p with
  | (s, none) => s
  | (s, some t) =>
  match (s.part p).ckpt.slotOf c with
  | none => s
  | some slot =>
    let a := t.place slot 0
    let begin (r : Restore) (s : State) : State :=
      s.modPart p (fun q => { q with ckpt := { q.ckpt with restore := some r, queue := [], outst := 0, failed := false } })
    if s.isOwn t.addr then (begin ⟨c, t.ranges, t.len, aKey a, s.mem, false⟩ s).restoreEnd p
    else if lost (aDev t.addr) then
      match s.winOf p 5 with
      | none => s
      | some w =>
        let s := begin ⟨c, t.ranges, t.len, 0, Mem.reset, true⟩ s
        if !s.mclActive ∨ w.size < 4096 + 4096 * ((t.len + 4095) / 4096) + 8 * ((t.len + 4095) / 4096) then
          (s.modPart p (fun q => { q with ckpt := { q.ckpt with failed := true } })).restoreEnd p
        else
          let (s, n) := s.streamRead p w t.len
          s.modPart p (fun q => { q with ckpt := { q.ckpt with outst := n } })
    else if (s.planOf p).isNone then s
    else
      let s := begin ⟨c, t.ranges, t.len, aOff a, Mem.reset, false⟩ s
      (s.modPart p (fun q => { q with ckpt := { q.ckpt with queue := s.restorePackets p a t.len } })).ckptPump p

/-- Data of a read of the buddy slot arrives. -/
def State.restoreData (s : State) (p : PartId) (key units : Nat) (pk : Packet) : State :=
  if units = 0 then s.modRestore p (fun r => { r with kept := r.kept.setHeader (key / 4096) (fld (pk.data.headD 0) 0 64) })
  else
    let l := (bytesOfUnits pk.data).take (16 * units)
    s.modRestore p (fun r => r.take key l (psnUnits (s.pver p) l.length (pPsn pk.hdr)))

/-- Bytes of the stream from an offset: what lies past the checkpoint's L bytes was never written, and counts as zero. -/
def streamBody (len off : Nat) (l : List Byte) : List Byte :=
  let n := Nat.min l.length (4096 + len - off)
  l.take n ++ List.replicate (l.length - n) 0

/-- Lines of the companion's stream arrive, from an offset of the window. -/
def State.streamData (s : State) (p : PartId) (off : Nat) (lines : List (BitVec 512)) (psn : Byte) : State :=
  match (s.part p).ckpt.restore with
  | none => s
  | some r =>
    let l := bytesOfLines lines
    let blocks := (r.len + 4095) / 4096
    let ok := decide (off ≠ 0 ∨ l = streamHead r.step r.len 2)
    let split := 4096 + 4096 * blocks - off
    let body := streamBody r.len off (l.take split)
    let tail := l.drop split
    let s := if off = 0 then s else s.modRestore p (fun r =>
      let r := if body.isEmpty then r else r.take (off - 4096) body ((List.range 8).map (fun i => psn.getLsbD i))
      let b0 := (Nat.max off (4096 + 4096 * blocks) - (4096 + 4096 * blocks)) / 8
      let hs := elemsLe 8 (tail.length / 8) tail
      { r with kept := ((List.range hs.length).zip hs).foldl (fun m e =>
          if b0 + e.1 < blocks then m.setHeader (b0 + e.1) (BitVec.ofNat 64 e.2) else m) r.kept })
    (s.ckptAnswer p ok).restoreEnd p

end Sys2Proof.Machine
end

