-- ==== Sys2Proof/Machine/Gate.lean ====
section
/-!
DEFINITION. The step commit gate (R319 to R321): local close with its collectors (R118, R285, R372), the damask wait (R314 to R318), the
clean vote (R287), its result, and VOID messages.
-/
namespace Sys2Proof.Machine

/-! ## Local close (R118, R320) -/

/-- The context has completed the drain of its STEPCOMMIT of step n: it is past the step, or holds the STEPCOMMIT with nothing earlier
left. -/
def State.ctxClosed (s : State) (c : CoreId) (x : CtxId) (n : W64) : Bool :=
  let k := s.ctx c x
  decide (n.toNat < k.step.toNat) ||
    (k.step == n && (match s.heldCommit c x with
      | some (_, id, _) => s.commitDrained c x id
      | none => false))

/-- The step whose local close comes next, when every enabled context of the partition has drained. -/
def State.closing (s : State) (p : PartId) : Option W64 :=
  let g := (s.part p).gate
  let n := if g.closed0 then g.step + 1 else g.step
  let cs := (s.ctxsOf p).filter (fun e => (s.ctx e.1 e.2).en)
  if (g.closed0 && g.closed1) || g.voidFrom.isSome || cs.isEmpty then none
  else if cs.all (fun e => s.ctxClosed e.1 e.2 n) then some n else none

/-- The slowest member of the closed step (R285). -/
def slowest (l : List Late) : Option Late :=
  l.foldl (fun (a : Option Late) x => match a with
    | none => some x
    | some y =>
      if y.ns.toNat < x.ns.toNat ∨ (y.ns = x.ns ∧ (x.gid.toNat < y.gid.toNat ∨ (x.gid = y.gid ∧ x.member < y.member))) then some x else some y) none

/-- SLOWEST entries are written and the figures cleared. -/
def State.slowestClose (s : State) (p : PartId) : State :=
  let (g, m, ns) := match slowest (s.part p).late with
    | some x => (x.gid.toNat, x.member, x.ns)
    | none => (0xFFFF, 0xFFFFFFFF, 0)
  let s := ((s.setDN (ckColl p 8) g).setDN (ckColl p 9) m).setD (ckColl p 0x0A) ns
  s.modPart p (fun q => { q with late := [] })

/-- Seeds written since the last local close are latched for step n + 2 (R372). -/
def State.latchSeeds (s : State) (p : PartId) (n : W64) : State :=
  if !(s.part p).seedWritten then s
  else
    let l : Latched := ⟨s.d (dkp p 0x2440 1), s.d (dkp p 0x2440 2), n + 2⟩
    (s.modPart p (fun q => { q with seedWritten := false, latched := l :: q.latched })).setD (dkp p 0x2440 3) (n + 2)

/-- Captures of a step become urgent when its gate reaches the damask wait (R316). -/
def State.urge (s : State) (p : PartId) (n : W64) : State :=
  { s with caps := s.caps.map (fun k => if k.part = p ∧ k.step = n then { k with urgent := true } else k) }

/-- The gate of the oldest undecided step enters its damask wait. -/
def State.damaskWait (s : State) (p : PartId) : State := (s.setDN (gateStateKey p) 2).urge p (s.part p).gate.step

/-- LOCAL_CLOSE (R118, R320). -/
def execLocalClose (p : PartId) (s : State) : Host.Outcome State Fault Refusal :=
  match s.closing p with
  | none => .next s
  | some n =>
    let first := !(s.part p).gate.closed0
    let s := if first then s.setDN (gateStateKey p) 1 else s
    let s := (((s.collectorsClose p n).slowestClose p).latchSeeds p n).ckptClose p n
    let s := s.modGate p (fun g => if first then { g with closed0 := true } else { g with closed1 := true })
    .next (if first then s.damaskWait p else s).settle

/-! ## Damask (R316 to R318) -/

def State.capOf (s : State) (id : Nat) : Option Capture := s.caps.find? (fun k => k.id == id)
def State.setCap (s : State) (k : Capture) : State := { s with caps := s.caps.map (fun j => if j.id = k.id then k else j) }
def State.dropCap (s : State) (id : Nat) : State := { s with caps := s.caps.filter (fun k => k.id != id) }

/-- The core that re-executes a capture has room for damask work: neither context is busy, or the capture is urgent (R316). Work that has
started stands still otherwise, as filler work that has yielded does. -/
def State.damaskGo (s : State) (k : Capture) : Bool :=
  match s.redoCore k with
  | some c => k.urgent || s.coreIdle c
  | none => false

/-- DAMASK_REEXECUTE (R316): the buddy, or the arbiter of a disputed capture, starts. -/
def execDamaskReexecute (cap : Nat) (s : State) : Host.Outcome State Fault Refusal :=
  match s.capOf cap with
  | none => .next s
  | some k =>
    match k.st, s.damaskGo k with
    | .waiting, true => .next (s.setCap { k with st := .running })
    | .disputed, true => .next (s.setCap { k with st := .arbitrating })
    | _, _ => .next s

/-- DAMASK_MISMATCH (R318). -/
def State.damaskFault (s : State) (k : Capture) (loser : Nat) : State := s.raise k.part 0x06 k.step 0xFF false (loser % 256 + k.core.val * 256)

/-- A check without an outcome. -/
def State.unresolved (s : State) (k : Capture) : State := ((s.dropCap k.id).incD (ckKey k.part 6)).damaskFault k 0xFF

/-- A core loses a check: it is nominated for quarantine (R329). -/
def State.loses (s : State) (k : Capture) (c : Option CoreId) : State :=
  match c with
  | some c => ((s.dropCap k.id).damaskFault k c.val).nominate (s.physical c)
  | none => s.unresolved k

/-- DAMASK_CHECK (R318): the buddy's re-execution ends. `r` says in which bits an upset of the buddy changes its digest, or that the capture
failed its own check when it was read. -/
def execDamaskCheck (cap : Nat) (r : Option W64) (s : State) : Host.Outcome State Fault Refusal :=
  match s.capOf cap with
  | none => .next s
  | some k =>
    if k.st ≠ .running ∨ !s.damaskGo k then .next s
    else match r with
      | none => .next (s.unresolved k).settle
      | some u =>
        let digest := k.redo ^^^ u
        if digest = k.digest then .next (s.dropCap cap)
        else .next ((s.incD (ckKey k.part 5)).setCap { k with st := .disputed, buddyDigest := digest })

/-- DAMASK_ARBITRATION (R318): the arbiter's re-execution ends, with `r` as for DAMASK_CHECK. -/
def execDamaskArbitration (cap : Nat) (r : Option W64) (s : State) : Host.Outcome State Fault Refusal :=
  match s.capOf cap with
  | none => .next s
  | some k =>
    if k.st ≠ .arbitrating ∨ !s.damaskGo k then .next s
    else match r with
      | none => .next (s.unresolved k).settle
      | some u =>
        let digest := k.redo ^^^ u
        if digest = k.digest then .next (s.loses k (s.buddyOf k.core)).settle
        else if digest = k.buddyDigest then .next (s.loses k (some k.core)).settle
        else .next (s.unresolved k).settle

/-- DAMASK_TIMEOUT (R318): only captures of a closed step wait to a limit. -/
def execDamaskTimeout (cap : Nat) (s : State) : Host.Outcome State Fault Refusal :=
  match s.capOf cap with
  | none => .next s
  | some k => if k.urgent then .next (s.unresolved k).settle else .next s

/-! ## The vote (R287, R320) -/

/-- CLEAN_VOTE (R320): the damask wait of the oldest step is over, and its tally goes to the vote. A STEP_COMMITTED that fails its
complement votes dirty (R325 kind 0x05). A vote group that does not match its complements ends the call (R325 kind 0x04), and one in which a
vote has timed out ends every later one (R286): the step is then dirty, and nothing is sent. -/
def execCleanVote (p : PartId) (s : State) : Host.Outcome State Fault Refusal :=
  let g := (s.part p).gate
  if s.dN (gateStateKey p) ≠ 2 ∨ !g.closed0 ∨ s.caps.any (fun k => k.part == p && k.step == g.step) then .next s
  else if s.badGroup p 0xFFFF then
    .next ((((s.raiseMgmt p 0x04 4).raiseMgmt p 0x0B 6).voidPart p g.step 0 true).settle)
  else if (s.part p).failed.contains (0, 0xFFFF) then .next ((s.voidPart p g.step 0 true).settle)
  else
    let ok := s.critOk (stepCommittedKey p)
    let n := s.d (stepCommittedKey p) + 1
    let nn := s.dNot (stepCommittedKey p) - 1
    let c : W64 := if g.dirty0.isNone && ok then 1 else 0
    let s := (s.setDN (gateStateKey p) 3).emit (.vote p c n nn)
    if ok then .next s
    else .next (((s.raiseMgmt p 0x04 5).raiseMgmt p 0x0B 6).settle)

/-- A step commits clean (R320). -/
def State.commitStep (s : State) (p : PartId) : State :=
  let g := (s.part p).gate
  let s := s.setCrit (stepCommittedKey p) g.step
  let s := s.modGate p (fun g => ⟨g.step + 1, g.closed1, false, g.dirty1, none, none⟩)
  let s := s.ckptValid p
  (if g.closed1 then s.damaskWait p else s.setDN (gateStateKey p) 0).settle

/-- The lowest-indexed member of the vote group that a vote still awaits: the least of those named, or of the other modules where none is. -/
def State.votePeer (s : State) (p : PartId) (awaited : List Nat) : Nat :=
  match s.groupOf p 0xFFFF with
  | none => 0
  | some g =>
    let others := (List.range g.members.length).filter (fun j => memberDev (g.members.getD j 0) != s.ownDev)
    match others.filter awaited.contains ++ others with
    | j :: _ => j
    | [] => 0

/-- VOTE_RESULT (R287, R320, R286). -/
def execVoteResult (p : PartId) (r : VoteEnd) (s : State) : Host.Outcome State Fault Refusal :=
  if s.dN (gateStateKey p) ≠ 3 then .next s
  else
    let g := (s.part p).gate
    match r with
    | .result r0 r1 r2 =>
      if r0 = 1 ∧ r1 = ~~~r2 then .next (s.commitStep p)
      else .next ((s.voidPart p g.step ((g.dirty0.getD 0).toNat) true).settle)
    | .timeout awaited =>
      let s := (s.raiseMgmt p 0x09 (0xFFFF * 2 ^ 32 + s.votePeer p awaited)).raiseMgmt p 0x0B 3
      let s := s.modPart p (fun q => { q with failed := q.failed ++ [(0, 0xFFFF)] })
      .next ((s.voidPart p g.step 0 true).settle)

/-- VOID (R320, R321). -/
def execVoid (p : Packet) (s : State) : Host.Outcome State Fault Refusal :=
  s.arrive p (isMsg p 0x05) (fun s => if s.staleTerm p then s else (s.voidPart (msgPart p) (msgField p) (fldN (p.data.headD 0) 8 8) false).settle)

end Sys2Proof.Machine
end

