-- ==== Sys2Proof/Machine/DictAccess.lean ====
section
/-!
DEFINITION. The dictionary server (R356 to R361, R366 to R369, R373): what a read of an entry returns and what a write does, by route; and
the commands that stand for a write with an action of its own.
-/
namespace Sys2Proof.Machine

/-! ## Outcomes (Table 15-6) -/

inductive DRes where
  | ok (v : W64)
  | noIndex
  | noSub
  | readOnly
  | writeOnly
  | refused
  | range
  | length
  | busy
  | pairFail
  deriving DecidableEq, Repr

/-- USDO abort code of an outcome; 0 for success. -/
def DRes.abort : DRes → W32
  | .ok _ => 0
  | .noIndex => 0x06020000
  | .noSub => 0x06090011
  | .readOnly => 0x06010002
  | .writeOnly => 0x06010001
  | .refused => 0x08000020
  | .range => 0x06090030
  | .length => 0x06070010
  | .busy => 0x08000022
  | .pairFail => 0x08000000

/-- Status of a DICT block. -/
def DRes.status : DRes → Byte
  | .ok _ => 0x00
  | .noIndex => 0x01
  | .noSub => 0x01
  | .readOnly => 0x11
  | .writeOnly => 0x00
  | .refused => 0x11
  | .range => 0x01
  | .length => 0x01
  | .busy => 0x10
  | .pairFail => 0x11

/-- What a read delivers; zero for every outcome but success. -/
def DRes.value : DRes → W64
  | .ok v => v
  | _ => 0

/-! ## The server -/

/-- Busy: no service firmware, or REJOINING (R369). -/
def State.serverBusy (s : State) : Bool := !s.board.sfUp || s.dN (dk 0x2530 4) == 1

/-- The partition that an access names. -/
def State.named (s : State) : Route → Option PartId
  | .can => let v := s.dN (dk 0x2600 1); if v < 16 then some (partOf v) else none
  | .mcl p => some p
  | .fabric p => some p

/-- The route may name its partition at all: it is configured, and over MCL set in MCL_PARTMASK. -/
def State.routeOpen (s : State) : Route → Bool
  | .can => true
  | .mcl p => s.configured p && (s.d (dk 0x2A00 9)).getLsbD p.val
  | .fabric p => s.configured p

/-- Indices whose subindices are computed: error logs, fault log, snapshots and their PSN bits. -/
inductive DSpecial where
  | log (d : District)
  | fault (h : Nat)
  | snap (c : CoreId) (n : Nat)
  | psn (c : CoreId)
  deriving DecidableEq, Repr

/-- Where an index and subindex lead. -/
inductive DLoc where
  | entry (e : Ent)
  | maxSub (n : Nat)
  | special (x : DSpecial)
  | noIndex
  | noSub
  deriving DecidableEq, Repr

def dLoc (idx sub : Nat) : DLoc :=
  if 0x2280 ≤ idx ∧ idx < 0x2290 then (if sub ≤ 128 then .special (.log ⟨(idx - 0x2280) % 16, Nat.mod_lt _ (by decide)⟩) else .noSub)
  else if 0x2540 ≤ idx ∧ idx < 0x2542 then (if sub ≤ 128 then .special (.fault (idx - 0x2540)) else .noSub)
  else if 0x2720 ≤ idx ∧ idx < 0x27A0 then
    (if sub = 0 then .maxSub 128 else if sub ≤ 128 then .special (.snap (coreOf (2 * (idx - 0x2720) + (sub - 1) / 64)) ((sub - 1) % 64)) else .noSub)
  else if 0x27A0 ≤ idx ∧ idx < 0x27A4 then
    (if sub = 0 then .maxSub 64 else if sub ≤ 64 then .special (.psn (coreOf (64 * (idx - 0x27A0) + (sub - 1)))) else .noSub)
  else match entOf idx sub with
    | some e => .entry e
    | none => match entMaxSub idx with
      | some n => if sub = 0 then .maxSub n else .noSub
      | none => .noIndex

/-! ## Values -/

/-- The partition of a partition-indexed index, from its row of the table. -/
def Ent.part (e : Ent) (idx : Nat) : PartId := partOf (idx - e.lo)

/-- Contexts of a partition that are enabled. -/
def State.enabledCount (s : State) (p : PartId) : Nat := cnt (fun (e : CoreId × CtxId) => (s.ctx e.1 e.2).en) (s.ctxsOf p)

/-- Fewest spare rows left in any channel (R223). -/
def State.sparesMin (s : State) : Nat := 16 - (s.stackSts.flatMap (fun e => e.2.spares.map (·.2))).foldl Nat.max 0

def word64 (h : BitVec 384) (i : Nat) : Nat := fldN h (64 * i) 64

/-- Values of module scope that the hardware holds elsewhere; none for an entry held in the map. -/
def State.liveM (s : State) (idx sub : Nat) : Option Nat :=
  if idx = 0x1001 then some s.errorRegister.toNat
  else if idx = 0x100A then
    some (ofLe ((List.range 8).map (fun i => Config.swVersion ((s.sec.sfRun.map (·.version)).getD 0) i)))
  else if idx = 0x1014 then some (0x80 + s.nodeId.toNat)
  else if idx = 0x2000 then
    (if sub = 8 then some ((s.sec.tkRun.map (·.version.toNat)).getD 0)
    else if sub = 9 then some ((s.sec.sfRun.map (·.version.toNat)).getD 0)
    else if sub = 13 then some s.nodeId.toNat
    else if sub = 14 then some s.board.slotId.toNat
    else if sub = 15 then some s.readiness.toNat
    else none)
  else if idx = 0x2110 then some (opMhz (s.dist ⟨(sub - 1) % 16, Nat.mod_lt _ (by decide)⟩).op)
  else if idx = 0x2220 ∧ sub = 3 then some (s.stackSts.foldl (fun a e => a + e.2.repairs.length) 0)
  else if idx = 0x2220 ∧ sub = 4 then some s.sparesMin
  else if idx = 0x2800 then
    let f := s.sec.shadow
    let g := s.sec.staged
    if sub = 1 then some (b2n f.lock)
    else if sub = 2 then some (b2n (f.debugLock || g.debugLock))
    else if sub = 3 then some (f.arb ||| g.arb).toNat
    else if sub ≤ 9 then some (word64 (f.hashRsa ||| g.hashRsa) (sub - 4))
    else if sub ≤ 15 then some (word64 (f.hashSlh ||| g.hashSlh) (sub - 10))
    else if sub = 16 then some (f.partLimit ||| g.partLimit).toNat
    else none
  else none

/-- PSTATE and ENABLED. -/
def State.liveP (s : State) (p : PartId) (idx sub : Nat) : Option Nat :=
  if idx = 0x2610 + p.val ∧ sub = 1 then some (if !s.configured p then 0 else if s.anyEnabled p then 2 else 1)
  else if idx = 0x2610 + p.val ∧ sub = 12 then some (s.enabledCount p)
  else none

/-- A value as 8 bytes: signed types are sign-extended (R356). -/
def ETy.widen (t : ETy) (v : W64) : W64 :=
  match t with
  | .i8 => (v.setWidth 8).signExtend 64
  | .i16 => (v.setWidth 16).signExtend 64
  | _ => v

/-- The 64 bits of an error log subindex (R222). -/
def State.logWord (s : State) (d : District) (sub : Nat) : Nat :=
  let st := s.stack d
  if sub = 0 then cnt (fun n => (logGet st n).isSome) (List.range 64)
  else match logGet st ((sub - 1) / 2) with
    | none => 0
    | some e =>
      if (sub - 1) % 2 = 0 then
        e.sympos.toNat * 2 ^ 56 + e.emask.toNat * 2 ^ 48 + (if e.ue then 2 else 1) * 2 ^ 46 + e.src.toNat * 2 ^ 44 +
          e.unit % 2 ^ 34 * 2 ^ 6
      else e.time.toNat % 2 ^ 48 * 2 ^ 16 + e.count.toNat

/-- The 64 bits of a fault log subindex (Table 13-7). -/
def State.faultWord (s : State) (h sub : Nat) : Nat :=
  if sub = 0 then Nat.min 32 (s.faults.length - 32 * h)
  else match s.faults[32 * h + (sub - 1) / 4]? with
    | some r => fldN r (64 * ((sub - 1) % 4)) 64
    | none => 0

/-- The context of a core that belongs to a partition. -/
def State.ctxOfPart (s : State) (c : CoreId) (p : PartId) : Option Ctx :=
  ([CtxId.primary, CtxId.filler].find? (fun x => (s.ctx c x).part == some p)).map (s.ctx c)

/-- A computed index; none when the access is refused (R373). -/
def State.special (s : State) (named : Option PartId) : DSpecial → Option Nat
  | .log d => some (s.logWord d 0)
  | .fault h => some (s.faultWord h 0)
  | .snap c n =>
    match named with
    | some p => if s.offered c then (s.ctxOfPart c p).map (fun k => (k.staOf n).snap.toNat) else none
    | none => none
  | .psn c =>
    match named with
    | some p => if s.offered c then (s.ctxOfPart c p).map (fun k => (List.range 64).foldl (fun a n => if (k.staOf n).snapPsn then a + 2 ^ n else a) 0)
      else none
    | none => none

/-! ## The check of pairs (R325 kinds 0x01, 0x07) -/

/-- A crit entry fails its complement: COMPLEMENT, and PARTITION_FAULT for the owning partition; a module-wide entry is handled as kind
0x01. -/
def State.pairFault (s : State) (own : Option PartId) : State :=
  match own with
  | some p => ((s.raiseMgmt p 0x04 7).raiseMgmt p 0x0B 6).settle
  | none =>
    (s.moduleFault 7).settle

/-! ## Access rights (R361, Table 15-3) -/

def State.refuseD (s : State) : State × DRes := (s.incD (dk 0x2600 4), .refused)
def State.modOwner (s : State) (p : PartId) : Bool := s.dN (dk 0x2600 2) == p.val

/-- The partition whose value an access to an entry reaches, when Table 15-3 grants it. For P-CAN reads of an unconfigured partition's own
index the defaults are given instead (`dflt`). -/
inductive DGrant where
  | key (k : Nat) (p : Option PartId)
  | dflt
  | no
  deriving DecidableEq, Repr

def State.grant (s : State) (r : Route) (e : Ent) (idx sub : Nat) (write : Bool) : DGrant :=
  let named := s.named r
  match e.scope with
  | .m =>
    match r with
    | .can => .key (dk idx sub) none
    | .mcl p => if write && e.acc != .const && e.acc != .ro && e.acc != .crit && !s.modOwner p then .no else .key (dk idx sub) none
    | .fabric p => if write && e.acc != .const && e.acc != .ro && e.acc != .crit && !s.modOwner p then .no else .key (dk idx sub) none
  | .p =>
    match named with
    | some p => if s.configured p then .key (dkp p idx sub) (some p) else .no
    | none => .no
  | .pp =>
    let p := e.part idx
    let own := match r with
      | .can => true
      | .mcl q => p == q
      | .fabric q => p == q
    if !own then .no
    else if s.configured p then .key (dk idx sub) (some p)
    else if r = .can ∧ !write then .dflt
    else .no

/-- The route reaches subindex 0 of an index, as it would the index's entries; the snapshots are P entries. -/
def State.maxSubOpen (s : State) (r : Route) (idx : Nat) : Bool :=
  s.routeOpen r && (match indexRow idx with
  | some e => s.grant r e idx 0 false != .no
  | none => match s.named r with
    | some p => s.configured p
    | none => false)

/-- The route reaches a computed subindex at all: a snapshot only for a partition that has it. -/
def State.specialOpen (s : State) (r : Route) (x : DSpecial) : Bool :=
  s.routeOpen r && (match x with
  | .log _ | .fault _ => true
  | x => (s.special (s.named r) x).isSome)

/-! ## Reads -/

/-- Read an entry over a route. -/
def State.dictRead (s : State) (r : Route) (idx sub : Nat) : State × DRes :=
  if s.serverBusy then (s.incD (dk 0x2600 5), .busy)
  else match dLoc idx sub with
  | .noIndex => (s, .noIndex)
  | .noSub => (s, .noSub)
  | loc =>
    if !s.routeOpen r then s.refuseD
    else match loc with
    | .maxSub n => if s.maxSubOpen r idx then (s, .ok (BitVec.ofNat 64 n)) else s.refuseD
    | .special x =>
      let hidden := match r, x with
        | .fabric _, .log _ => true
        | .fabric _, .fault _ => true
        | _, _ => false
      if hidden then (s, .ok 0)
      else match x with
        | .log d => (s, .ok (BitVec.ofNat 64 (s.logWord d sub)))
        | .fault h => (s, .ok (BitVec.ofNat 64 (s.faultWord h sub)))
        | x => match s.special (s.named r) x with
          | some v => (s, .ok (BitVec.ofNat 64 v))
          | none => s.refuseD
    | .entry e =>
      match s.grant r e idx sub false with
      | .no => s.refuseD
      | .dflt => if e.acc = .wo then (s, .writeOnly) else (s, .ok (e.ty.widen e.dflt))
      | .key k p =>
        if e.acc = .wo then (s, .writeOnly)
        else if e.acc = .crit ∧ !s.critOk k then (s.pairFault p, .pairFail)
        else
          let live := match p with
            | some p => s.liveP p idx sub
            | none => s.liveM idx sub
          (s, .ok (e.ty.widen (match live with
            | some v => BitVec.ofNat 64 v
            | none => s.d k)))
    | _ => (s, .noIndex)

/-! ## Writes -/

/-- Writes that their rules ignore while a context of the partition is enabled (R259, R264, R300). -/
def State.ignored (s : State) (p : PartId) (idx sub : Nat) : Option State :=
  if !s.anyEnabled p then none
  else if idx = 0x2330 + p.val ∧ sub = 1 then some (s.setDN (ckPlan p 8) 6)
  else if idx = 0x2640 + p.val ∧ sub = 1 then some (s.setDN (ckColl p 4) 5)
  else if idx = 0x2900 + p.val ∧ sub = 1 then some s
  else none

/-- Nominate the row that holds a DRAM address (R223). -/
def State.repairNominate (s : State) (v : W64) : State :=
  let u := v.toNat % 2 ^ 40 / 64
  s.nominateRow (stackOf u) (rowOfUnit u)

/-- A write to QUAR_NOMINATE: the core that serves the ID. -/
def State.quarNominate (s : State) (v : W64) : State := s.nominate (s.physical (coreOf v.toNat))

/-- The action of a wo entry, or of an rw entry that acts when written. -/
def State.entryAction (s : State) (p : Option PartId) (idx sub : Nat) (v : W64) : State :=
  match p with
  | some p =>
    if idx = 0x2330 + p.val ∧ sub = 2 then s.planLoad p
    else if idx = 0x2640 + p.val ∧ sub = 2 then s.groupLoad p
    else if idx = 0x2510 + p.val ∧ sub = 12 then s.modPart p (fun q => { q with ckpt := { q.ckpt with requested := true } })
    else if idx = 0x2440 then s.modPart p (fun q => { q with seedWritten := true })
    else s
  | none =>
    if idx = 0x2201 ∧ sub = 1 then s.initStart
    else if idx = 0x2205 ∧ sub = 4 then s.logClear
    else if idx = 0x2220 ∧ sub = 2 then s.repairNominate v
    else if idx = 0x2520 ∧ sub = 6 then s.quarNominate v
    else if idx = 0x2542 ∧ sub = 2 then { s with faults := [] }
    else if idx = 0x2100 ∧ sub = 2 then s.retargetAll
    else s

/-- A value that the entry takes (R359). -/
def Ent.accepts (e : Ent) (v : W64) : Bool :=
  (match e.rng with
  | some (lo, hi) => decide (lo ≤ v.toNat ∧ v.toNat ≤ hi)
  | none => true) && (e.lo != 0x2600 || decide (v.toNat < 16 ∨ v.toNat = 0xFF))

/-- Add bits to the staging store (R357, R376). -/
def Fuses.stage (f : Fuses) (sub : Nat) (v : W64) : Fuses :=
  if sub = 2 then { f with debugLock := f.debugLock || v.getLsbD 0 }
  else if sub = 3 then { f with arb := f.arb ||| v.setWidth 32 }
  else if sub ≤ 9 then { f with hashRsa := f.hashRsa ||| (v.zeroExtend 384 <<< (64 * (sub - 4))) }
  else if sub ≤ 15 then { f with hashSlh := f.hashSlh ||| (v.zeroExtend 384 <<< (64 * (sub - 10))) }
  else { f with partLimit := f.partLimit ||| v.setWidth 4 }

/-- Write an entry over a route. -/
def State.dictWrite (s : State) (r : Route) (idx sub : Nat) (v : W64) : State × DRes :=
  if s.serverBusy then (s.incD (dk 0x2600 5), .busy)
  else match dLoc idx sub with
  | .noIndex => (s, .noIndex)
  | .noSub => (s, .noSub)
  | .maxSub _ => if s.maxSubOpen r idx then (s, .readOnly) else s.refuseD
  | .special x => if s.specialOpen r x then (s, .readOnly) else s.refuseD
  | .entry e =>
    let v := BitVec.ofNat 64 (v.toNat % 2 ^ (8 * e.ty.bytes))
    if !s.routeOpen r then s.refuseD
    else match s.grant r e idx sub true with
    | .no => s.refuseD
    | .dflt => s.refuseD
    | .key k p =>
      match e.acc with
      | .fuse =>
        if r ≠ .can ∨ s.sec.shadow.lock then s.refuseD
        else ({ s with sec := { s.sec with staged := s.sec.staged.stage sub v } }, .ok 0)
      | .wo => if e.accepts v then ((s.entryAction p idx sub v).settle, .ok 0) else (s, .range)
      | .rw =>
        if !e.accepts v then (s, .range)
        else
          let jobId := match p with
            | some p => decide (idx = 0x2610 + p.val) && s.anyEnabled p
            | none => false
          if jobId then (s, .readOnly)
          else match p.bind (fun p => s.ignored p idx sub) with
            | some t => (t, .ok 0)
            | none => (((s.setD k v).entryAction p idx sub v).settle, .ok 0)
      | _ => (s, .readOnly)

/-! ## Commands that are writes with an action of their own

The answer on the route belongs to the access that carries the write. -/

def State.dictCmd (s : State) (r : Route) (idx sub : Nat) (v : W64) : Host.Outcome State Fault Refusal := .next (s.dictWrite r idx sub v).1

/-- PLAN_LOAD (R258). -/
def execPlanLoad (r : Route) (p : PartId) (v : Byte) (s : State) : Host.Outcome State Fault Refusal := s.dictCmd r (0x2330 + p.val) 2 (v.zeroExtend 64)
/-- GROUP_LOAD (R264). -/
def execGroupLoad (r : Route) (p : PartId) (v : Byte) (s : State) : Host.Outcome State Fault Refusal := s.dictCmd r (0x2640 + p.val) 2 (v.zeroExtend 64)
/-- CKPT_REQUEST (R326). -/
def execCkptRequest (r : Route) (p : PartId) (v : Byte) (s : State) : Host.Outcome State Fault Refusal := s.dictCmd r (0x2510 + p.val) 12 (v.zeroExtend 64)
/-- QUAR_NOMINATE (R329). -/
def execQuarNominate (r : Route) (v : Byte) (s : State) : Host.Outcome State Fault Refusal := s.dictCmd r 0x2520 6 (v.zeroExtend 64)
/-- FAULT_CLEAR (R324). -/
def execFaultClear (r : Route) (v : Byte) (s : State) : Host.Outcome State Fault Refusal := s.dictCmd r 0x2542 2 (v.zeroExtend 64)
/-- INIT_START (R220). -/
def execInitStart (r : Route) (v : Byte) (s : State) : Host.Outcome State Fault Refusal := s.dictCmd r 0x2201 1 (v.zeroExtend 64)
/-- LOG_CLEAR (R222). -/
def execLogClear (r : Route) (v : Byte) (s : State) : Host.Outcome State Fault Refusal := s.dictCmd r 0x2205 4 (v.zeroExtend 64)
/-- REPAIR_NOMINATE (R223). -/
def execRepairNominate (r : Route) (v : W64) (s : State) : Host.Outcome State Fault Refusal := s.dictCmd r 0x2220 2 v

/-! ## The mirror (R367) -/

/-- Read entries at an offset of the mirror, each on its own, in ascending subindex. -/
def State.mirrorRead (s : State) (r : Route) (off n : Nat) : State × List W64 :=
  (List.range n).foldl (fun (a : State × List W64) i =>
    let o := off + 8 * i
    let (s, v) := a.1.dictRead r (o / 2048) (o % 2048 / 8)
    (s, a.2 ++ [v.value])) (s, [])

/-- Write entries at an offset of the mirror. -/
def State.mirrorWrite (s : State) (r : Route) (off : Nat) (vs : List W64) : State :=
  ((List.range vs.length).zip vs).foldl (fun s e =>
    let o := off + 8 * e.1
    (s.dictWrite r (o / 2048) (o % 2048 / 8) e.2).1) s

end Sys2Proof.Machine
end

