-- ==== Sys2Proof/Machine/Blocks.lean ====
section
/-!
DEFINITION. Command blocks (R345 to R348, R351, R354): what makes one start, what each kind does, and how blocks complete.
-/
namespace Sys2Proof.Machine

/-! ## Fields (Table 14-4) -/

abbrev BWord := BitVec 1024

def bSeq (w : BWord) : W32 := fld w 0 32
def bKind (w : BWord) : Nat := fldN w 32 8
def bPart (w : BWord) : Nat := fldN w 40 4
def bOrd (w : BWord) : Bool := bitAt w 44
def bIrq (w : BWord) : Bool := bitAt w 45
def bNocmp (w : BWord) : Bool := bitAt w 46
def bTag (w : BWord) : W64 := fld w 64 64
def bCaddr (w : BWord) : W64 := fld w 128 64
def bMaddr (w : BWord) : W64 := fld w 192 64
def bLen (w : BWord) : Nat := fldN w 256 32
def bCore (w : BWord) : CoreId := coreOf (fldN w 288 8)
def bStream (w : BWord) : Nat := fldN w 296 2
def bVal (w : BWord) : W64 := fld w 320 64
def bIndex (w : BWord) : Nat := fldN w 384 16
def bSub (w : BWord) : Nat := fldN w 400 8
def bDwr (w : BWord) : Bool := bitAt w 408
def bSeq2 (w : BWord) : W32 := fld w 992 32

def streamNo (n : Nat) : Option StreamId :=
  match n with
  | 0 => some .s0
  | 1 => some .s1
  | 2 => some .s2
  | _ => none

/-- Bytes of companion memory that a block moves. -/
def bBytes (w : BWord) : Nat := if bKind w = 3 then 32 * bLen w else bLen w

/-- The block moves data over the link. -/
def bMoves (w : BWord) : Bool := bKind w == 1 || bKind w == 2 || bKind w == 3

/-! ## Rings and their blocks -/

def Block.accepted (seq : W32) (w : BWord) : Block := ⟨seq, w, false, 0, 0, 0, none, none, 0, false⟩

def State.cmdWin (s : State) (win : Fin 64) : Option Win := s.windows.find? (fun w => w.idx == win && w.kind == 1)
def State.blk (s : State) (win : Fin 64) (seq : W32) : Option Block := (s.mcl.ring win).blocks.find? (fun b => b.seq == seq)
def State.modBlk (s : State) (win : Fin 64) (seq : W32) (f : Block → Block) : State :=
  let r := s.mcl.ring win
  s.setRing win { r with blocks := r.blocks.map (fun b => if b.seq == seq then f b else b) }

/-- Another block of the same ring is an APPEND to the same stream. -/
def sameAppend (v w : BWord) : Bool := bKind v == 3 && bKind w == 3 && bCore v == bCore w && bStream v == bStream w

/-- The block may start (R345 ORD, R347, R354): blocks start in SEQ order, at most 32 in progress, an APPEND behind those to its stream, and
one that moves data while the link is active. -/
def State.mayStart (s : State) (win : Fin 64) (b : Block) : Bool :=
  let r := s.mcl.ring win
  let before := r.blocks.takeWhile (fun x => x.seq != b.seq)
  before.all Block.started && decide (cnt (fun x => x.started && !x.done) r.blocks < 32) && (!bOrd b.w || before.all Block.done) &&
    before.all (fun x => x.done || !sameAppend x.w b.w) && !s.mclQueueFull && (!bMoves b.w || s.mclActive)

/-- The work of a block is finished. -/
def State.blkEnd (s : State) (win : Fin 64) (seq : W32) (status : Byte) (value : W64) : State :=
  s.modBlk win seq (fun b => { b with status := some status, value := value })

/-! ## Moving data -/

/-- Status that a companion's response stands for. -/
def mclStatus (n : Nat) : Option Byte :=
  match n with
  | 0 => none
  | 2 => some stPart
  | 5 => some stPoison
  | _ => some stAddr

/-- A status that stops a block's requests. -/
def stops : Option Byte → Bool
  | none => false
  | some st => st != stPoison

/-- Requests that a block keeps outstanding. -/
def blockDepth : Nat := 8

/-- Send the next request of a block: a read of companion lines, or a write of module bytes. -/
def State.blkSend (s : State) (w : Win) (b : Block) : State :=
  let n := Nat.min (64 * mclMaxLines s.mclVer) ((bBytes b.w - b.next + 63) / 64 * 64)
  let step (s : State) : State := s.modBlk w.idx b.seq (fun b => { b with outst := b.outst + 1, next := b.next + n })
  let ca := bCaddr b.w + BitVec.ofNat 64 b.next
  if bKind b.w = 2 then
    let ma := bMaddr b.w + BitVec.ofNat 64 b.next
    match s.check w.part ma n with
    | .ok =>
      let (s, l, ps) := s.readMem (aKey ma) n
      let bad := ps.any id
      let lines := (linesOfBytes l).take (n / 64)
      let psn : Byte := if s.mclVer = 3 then mkPsn 3 n ((List.range (n / 64)).map (fun i => (List.range ps.length).any (fun j =>
        ps.getD j false && decide (aKey ma / 64 + j = (aKey ma + 64 * i) / 64 ∨ aKey ma / 64 + j = (aKey ma + 64 * i + 63) / 64)))) else 0
      let s := if bad && s.mclVer != 3 then s.modBlk w.idx b.seq (fun b => { b with fail := b.fail <|> some stPoison }) else s
      (step s).mclReq 0x03 w.part ca lines (n / 64 - 1) psn (.blockWrite w.idx b.seq n)
    | c => (s.mgmtRefuse w.part c).modBlk w.idx b.seq (fun b => { b with fail := some c.status })
  else (step s).mclReq 0x02 w.part ca [] (n / 64 - 1) 0 (.block w.idx b.seq b.next (n / 64))

/-- Slot of a stream that command i of an APPEND fills: from TAIL on (R156). -/
def State.appendSlot (s : State) (c : CoreId) (st : StreamId) (i : Nat) : Nat :=
  let t := s.stream c st
  t.slotOff (t.tail + i)

/-- A block whose last request has been answered: merges, TAIL, and its status (R310, R346, R347). -/
def State.blkFinish (s : State) (w : Win) (b : Block) : State :=
  let st := b.fail.getD stOk
  let value := BitVec.ofNat 64 b.moved
  if bKind b.w = 1 then ((s.merges Former.mgmt (aKey (bMaddr b.w)) b.next).blkEnd w.idx b.seq st value)
  else if bKind b.w = 2 then s.blkEnd w.idx b.seq st value
  else
    let s := match streamNo (bStream b.w), stops b.fail with
      | some x, false => (s.modStream (bCore b.w) x (fun t => t.writeTail (BitVec.ofNat 32 (t.tail + bLen b.w)))).fetchXd (bCore b.w) x
      | _, _ => s
    s.blkEnd w.idx b.seq st 0

/-- Send what a block may send, and finish it when nothing is left. -/
def blkPumpGo (w : Win) (seq : W32) : Nat → State → State
  | 0, s => s
  | n + 1, s =>
    match s.blk w.idx seq with
    | none => s
    | some b =>
      if b.status.isSome then s
      else if stops b.fail ∨ bBytes b.w ≤ b.next then (if b.outst = 0 then s.blkFinish w b else s)
      else if blockDepth ≤ b.outst then s
      else blkPumpGo w seq n (s.blkSend w b)

def State.blkPump (s : State) (w : Win) (seq : W32) : State := blkPumpGo w seq (blockDepth + 2) s

/-- Data of a WRITE or an APPEND arrives: it is written under the block's partition, with its poison (R342, R346). -/
def State.blkData (s : State) (w : Win) (b : Block) (off : Nat) (l : List Byte) (ps : List Bool) : State × Option Byte :=
  let l := l.take (bBytes b.w - off)
  if bKind b.w = 1 then
    let a := bMaddr b.w + BitVec.ofNat 64 off
    match s.check w.part a l.length with
    | .ok => (s.writeMem (aKey a) l (unitFlags (aKey a) l.length ps), none)
    | c => (s.mgmtRefuse w.part c, some c.status)
  else match streamNo (bStream b.w) with
    | none => (s, some stDesc)
    | some x =>
      (List.range (l.length / 32)).foldl (fun (a : State × Option Byte) i =>
        let o := a.1.appendSlot (bCore b.w) x (off / 32 + i)
        match a.1.check w.part (coreAddr (bCore b.w) o) 32 with
        | .ok =>
          let k := ckey (bCore b.w) o
          (a.1.writeMerge Former.mgmt k ((l.drop (32 * i)).take 32) (unitFlags k 32 [ps.getD (i / 2) false]), a.2)
        | c => (a.1.mgmtRefuse w.part c, a.2 <|> some c.status)) (s, none)

/-! ## What makes a block fail before it starts (R346) -/

/-- Field rules of a block that moves `n` bytes between companion memory and the module. -/
def State.dataBad (s : State) (w : Win) (b : BWord) (n : Nat) : Bool :=
  bCaddr b % 64 != 0 || !s.inDataWin w.part (bCaddr b).toNat n

/-- The status of a block that does nothing: its fields break a rule, or an access is refused under R17 or R19. -/
def State.blkBad (s : State) (w : Win) (b : BWord) : Option (Byte × Chk) :=
  let access (c : Chk) : Option (Byte × Chk) := if c = .ok then none else some (c.status, c)
  let desc : Option (Byte × Chk) := some (stDesc, .ok)
  if bPart b ≠ w.part.val then desc
  else if bKind b = 1 ∨ bKind b = 2 then
    if bLen b = 0 ∨ bLen b % 64 ≠ 0 ∨ s.dataBad w b (bLen b) ∨ !s.isOwn (bMaddr b) ∨ 1 < aSpace (bMaddr b) then desc
    else access (s.check w.part (bMaddr b) (bLen b))
  else if bKind b = 3 then
    match streamNo (bStream b) with
    | none => desc
    | some x =>
      if s.dataBad w b (32 * bLen b) ∨ (s.stream (bCore b) x).slots ≤ bLen b then desc
      else if !s.offered (bCore b) then access .addr
      else if s.partOfCtx (bCore b) (streamCtx x) ≠ some w.part then access .part
      else none
  else if bKind b = 4 then
    if !s.isOwn (bMaddr b) ∨ aSpace (bMaddr b) ≠ 2 ∨ aOff (bMaddr b) % 8 ≠ 0 then desc
    else access (s.check w.part (bMaddr b) 8)
  else none

/-- Room in a stream for the commands of an APPEND: slots up to RETIRE + 2^SIZE, one of them free so that HEAD = TAIL means empty
(R155, R156). -/
def State.appendRoom (s : State) (b : BWord) : Bool :=
  match streamNo (bStream b) with
  | none => true
  | some x =>
    let t := s.stream (bCore b) x
    decide (bLen b ≤ t.slots - 1 - (t.tail + t.slots - t.retire % t.slots) % t.slots)

/-- Start a block of a kind: `f` is what it does when nothing is wrong with it. -/
def State.runBlock (s : State) (win : Fin 64) (seq : W32) (kind : Nat) (f : Win → Block → State → State) :
    Host.Outcome State Fault Refusal :=
  match s.cmdWin win, s.blk win seq with
  | some w, some b =>
    if b.started ∨ bKind b.w ≠ kind ∨ !s.mayStart win b then .next s
    else
      match s.blkBad w b.w with
      | some (st, c) => .next (((s.mgmtRefuse w.part c).modBlk win seq (fun b => { b with started := true })).blkEnd win seq st 0).settle
      | none =>
        if kind = 3 ∧ !s.appendRoom b.w then .next s
        else .next (f w b (s.modBlk win seq (fun b => { b with started := true }))).settle
  | _, _ => .next s

/-! ## The kinds (Table 14-5) -/

/-- BLOCK_NOP. -/
def execBlockNop (win : Fin 64) (seq : W32) (s : State) : Host.Outcome State Fault Refusal :=
  s.runBlock win seq 0 (fun _ _ s => s.blkEnd win seq stOk 0)

/-- WRITE: companion memory to module memory, by RDN. -/
def execWrite (win : Fin 64) (seq : W32) (s : State) : Host.Outcome State Fault Refusal :=
  s.runBlock win seq 1 (fun w _ s => s.blkPump w seq)

/-- READ: module memory to companion memory, by WRI. -/
def execRead (win : Fin 64) (seq : W32) (s : State) : Host.Outcome State Fault Refusal :=
  s.runBlock win seq 2 (fun w _ s => s.blkPump w seq)

/-- APPEND: commands into a stream, then its TAIL. -/
def execAppend (win : Fin 64) (seq : W32) (s : State) : Host.Outcome State Fault Refusal :=
  s.runBlock win seq 3 (fun w _ s => s.blkPump w seq)

/-- BLOCK_SIGNAL: the add of a SYNCADD. No context issues it, so it carries the period of the object's own context and matches no owner
record. -/
def execBlockSignal (win : Fin 64) (seq : W32) (s : State) : Host.Outcome State Fault Refusal :=
  s.runBlock win seq 4 (fun _ b s =>
    let o := aOff (bMaddr b.w)
    let c := coreOf (o / 2 ^ 15)
    let k := o % 2 ^ 15 / 8
    (s.applySync c k ⟨.add, 0xFFFF, 0, false, s.periodOf c (s.objCtx c k) % 256, 0, fld (bVal b.w) 0 48⟩).blkEnd win seq stOk 0)

/-- The value of an entry as a DICT block reads it: zero-extended from its own size (R351, log entry 92). -/
def zeroExt (idx sub : Nat) (v : W64) : W64 :=
  match dLoc idx sub with
  | .entry e => BitVec.ofNat 64 (v.toNat % 2 ^ (8 * e.ty.bytes))
  | _ => v

/-- DICT (R351). -/
def execDict (win : Fin 64) (seq : W32) (s : State) : Host.Outcome State Fault Refusal :=
  s.runBlock win seq 5 (fun w b s =>
    let (s, r) := if bDwr b.w then s.dictWrite (.mcl w.part) (bIndex b.w) (bSub b.w) (bVal b.w)
      else s.dictRead (.mcl w.part) (bIndex b.w) (bSub b.w)
    s.blkEnd win seq r.status (zeroExt (bIndex b.w) (bSub b.w) r.value))

/-! ## Completion (R348 to R350) -/

/-- DONE(r) moves past every block that has completed in SEQ order. -/
def Ring.prune (r : Ring) : Ring :=
  let gone := r.blocks.takeWhile Block.done
  { r with
    blocks := r.blocks.drop gone.length
    doneSeq := match gone.getLast? with
      | some b => b.seq
      | none => r.doneSeq }

/-- A block completes with a status and a value. -/
def State.completeBlk (s : State) (w : Win) (b : Block) (st : Byte) (value : W64) : State :=
  let p := w.part
  let s := s.modBlk w.idx b.seq (fun b => { b with started := true, status := some st, done := true })
  let s := s.incD (dkx 0x2A60 p 1)
  let s := if st = stOk then s else s.incD (dkx 0x2A60 p 2)
  let s := if st = 0x12 then s.incD (dk 0x2A00 0x0B) else s
  let s := if bNocmp b.w && st == stOk then s
    else s.postRecord p (mkRecord (bTag b.w) value b.seq 1 st 0 false p (s.ringPlace w)) (bIrq b.w) none
  let r := s.mcl.ring w.idx
  let s := s.setRing w.idx r.prune
  let s := if r.prune.doneSeq = r.doneSeq then s else s.postDone p
  s.latchWindows

/-- BLOCK_COMPLETE (R348). A block of a reserved kind completes with status 0x04 in its turn (R346). -/
def execBlockComplete (win : Fin 64) (seq : W32) (s : State) : Host.Outcome State Fault Refusal :=
  match s.cmdWin win, s.blk win seq with
  | some w, some b =>
    if b.done then .next s
    else match b.status with
      | some st => .next (s.completeBlk w b st b.value).settle
      | none =>
        if !b.started ∧ 5 < bKind b.w ∧ s.mayStart win b then .next (s.completeBlk w b stOpc 0).settle else .next s
  | _, _ => .next s

/-- IRQ_HOLDOFF_END (R349): one MSI covers the records that called for it meanwhile. -/
def execIrqHoldoffEnd (win : Fin 64) (s : State) : Host.Outcome State Fault Refusal :=
  let h := SMap.get (fun _ => 0) s.mcl.holdoff win.val
  let s := { s with mcl := { s.mcl with holdoff := SMap.set (fun _ => 0) s.mcl.holdoff win.val 0 } }
  match s.windows.find? (fun w => w.idx == win && w.kind == 2), decide (h = 2) with
  | some w, true => .next (s.msi w)
  | _, _ => .next s

/-! ## Link reset (R354) -/

/-- A block that was moving data is abandoned: what it wrote stands, with merged headers. -/
def State.abandon (s : State) (w : Win) (b : Block) : State :=
  if b.started ∧ b.status.isNone ∧ bMoves b.w then
    let s := if bKind b.w = 1 then s.merges Former.mgmt (aKey (bMaddr b.w)) b.next else s
    (s.modBlk w.idx b.seq (fun b => { b with outst := 0 })).blkEnd w.idx b.seq 0x12 (BitVec.ofNat 64 (if bKind b.w = 3 then 0 else b.moved))
  else s

def State.abandonAll (s : State) : State :=
  (s.windows.filter (fun w => w.kind == 1)).foldl (fun s w => (s.mcl.ring w.idx).blocks.foldl (fun s b => s.abandon w b) s) s

end Sys2Proof.Machine
end

