-- ==== Sys2Proof/Machine/Can.lean ====
section
/-!
DEFINITION. The field network: USDO transfers and their outcomes (R356, R357, R364 to R366), NMT commands and the heartbeat (R364).
-/
namespace Sys2Proof.Machine

/-- The node is on the network: the module has power and is not held in reset (R409). -/
def State.canUp (s : State) : Bool := s.board.pg && !s.board.resetPin

/-- USDO is served in pre-operational and operational. -/
def State.usdoServed (s : State) : Bool := s.canUp && s.nmt != .stopped

/-- Characters of a str entry, padded to 32 bytes (R356). -/
def strBytes (l : List Nat) : List Byte := (l.map (BitVec.ofNat 8) ++ List.replicate 32 0).take 32

/-- The str entries, whole (Tables 15-5 and 15-8). -/
def State.strEntry (s : State) (idx sub : Nat) : Option (List Byte) :=
  if idx = 0x1008 then some (strBytes [0x56, 0x49, 0x42, 0x45, 0x56, 0x41, 0x53, 0x20, 0x56, 0x34, 0x54])
  else if idx = 0x1009 then some (strBytes [0x42, 0x31])
  else if idx = 0x100A then some ((List.range 32).map (Config.swVersion ((s.sec.sfRun.map Image.version).getD 0)))
  else if idx = 0x2000 ∧ sub = 1 then some (strBytes [0x56, 0x42, 0x56, 0x2D, 0x34, 0x54, 0x2D, 0x30, 0x31])
  else none

/-- Bytes that an upload of an entry returns. -/
def State.usdoData (s : State) (idx sub : Nat) (v : W64) : List Byte :=
  match s.strEntry idx sub with
  | some l => l
  | none =>
    match dLoc idx sub with
    | .entry e => leBytes e.ty.bytes v.toNat
    | .maxSub _ => leBytes 1 v.toNat
    | .special (.log _) | .special (.fault _) => leBytes (if sub = 0 then 1 else 8) v.toNat
    | _ => leBytes 8 v.toNat

/-- Length of a value written over P-CAN is its type's (R366); asked where the write would be taken otherwise. -/
def State.usdoLength (s : State) (idx sub len : Nat) : Bool :=
  match dLoc idx sub with
  | .entry e =>
    let takes := e.acc == .rw || e.acc == .wo || e.acc == .fuse
    let fused := e.acc == .fuse && s.sec.shadow.lock
    !takes || fused || s.grant .can e idx sub true == .no || e.ty.bytes == len
  | _ => true

/-- A USDO download. -/
def State.usdoWrite (s : State) (idx : W16) (sub : Byte) (len : Nat) (v : W64) : State :=
  if !s.usdoServed then s
  else
    let i := idx.toNat
    let j := sub.toNat
    let (s, r) := if !s.serverBusy && !s.usdoLength i j len then (s, DRes.length) else s.dictWrite .can i j v
    s.emit (.usdo idx sub r.abort [])

/-- USDO_DOWNLOAD (R366). -/
def execUsdoDownload (idx : W16) (sub : Byte) (len : Nat) (v : W64) (s : State) : Host.Outcome State Fault Refusal :=
  .next (s.usdoWrite idx sub len v)

/-- FUSE_STAGE (R357, R376): a download to one of the rw-fuse entries. -/
def execFuseStage (sub : Byte) (len : Nat) (v : W64) (s : State) : Host.Outcome State Fault Refusal := .next (s.usdoWrite 0x2800 sub len v)

/-- USDO_UPLOAD (R366). -/
def execUsdoUpload (idx : W16) (sub : Byte) (s : State) : Host.Outcome State Fault Refusal :=
  if !s.usdoServed then .next s
  else
    let (s, r) := s.dictRead .can idx.toNat sub.toNat
    .next (s.emit (.usdo idx sub r.abort (match r with
      | .ok v => s.usdoData idx.toNat sub.toNat v
      | _ => [])))

/-! ## NMT (R364) -/

/-- The CANopen FD stack starts again: its entries take their defaults, and nothing else is reset. -/
def State.canRestart (s : State) : State :=
  let s := (s.setDN (dk 0x1015 0) 0).setDN (dk 0x1017 0) 1000
  { s with nmt := .preop }.emit (.bootup s.nodeId)

/-- NMT_RESET_NODE. -/
def execNmtResetNode (s : State) : Host.Outcome State Fault Refusal := .next (if s.canUp then s.canRestart else s)

/-- NMT_RESET_COMMUNICATION. -/
def execNmtResetCommunication (s : State) : Host.Outcome State Fault Refusal := .next (if s.canUp then s.canRestart else s)

def nmtState : NmtCmd → Nmt
  | .start => .operational
  | .stop => .stopped
  | .preop => .preop

/-- NMT_STATE_COMMAND. -/
def execNmtStateCommand (c : NmtCmd) (s : State) : Host.Outcome State Fault Refusal := .next (if s.canUp then { s with nmt := nmtState c } else s)

/-- NMT states in a heartbeat (CiA 1301). -/
def Nmt.code : Nmt → Byte
  | .stopped => 0x04
  | .operational => 0x05
  | .preop => 0x7F

/-- HEARTBEAT: none while HEARTBEAT_TIME is 0. -/
def execHeartbeat (s : State) : Host.Outcome State Fault Refusal :=
  if !s.canUp ∨ s.dN (dk 0x1017 0) = 0 then .next s else .next (s.emit (.heartbeat s.nodeId s.nmt.code))

end Sys2Proof.Machine
end

