-- ==== Sys2Proof/Machine/Link.lean ====
section
/-!
DEFINITION. The fabric's link layer: codewords, replay and link control flits (R228 to R230, R256), training and versions (R231, R232,
R418), spare lanes (R226), ports that go down (R227, R260), equalisation (R406), and the passage of packets for other modules (R247).
-/
namespace Sys2Proof.Machine

/-! ## Link control flits (Tables 10-1 and 10-7) -/

def lcType (f : W256) : Nat := fldN f 248 8
def flowFlit (ack : W16) (nak : Bool) : W256 := BitVec.ofNat 256 (1 * 2 ^ 248 + ack.toNat * 2 ^ 232 + b2n nak * 2 ^ 231)
def dcVmask (f : W256) : BitVec 4 := fld f 212 4
def dcVsel (f : W256) : BitVec 4 := fld f 208 4
def dcRolePort (f : W256) : Nat := fldN f 200 8
def dcId (f : W256) : Nat := fldN f 184 16
def dcReach (f : W256) : W64 := fld f 120 64

/-- The DISC that a port sends (R256). -/
def State.discFlit (s : State) (n : PortId) : W256 :=
  let own := s.dN (ckPort n.val 9)
  let pid := if 8 ≤ n.val ∧ own < 16 then s.dN (ckPlan (partOf own) 4) else 0
  BitVec.ofNat 256 (2 * 2 ^ 248 + pid % 2 ^ 32 * 2 ^ 216 + 7 * 2 ^ 212 + (s.portSt n).vsel.toNat * 2 ^ 208 + (if 8 ≤ n.val then 1 else 0) * 2 ^ 204 +
    n.val * 2 ^ 200 + s.ownDev.toNat * 2 ^ 184)

/-- Highest version in both masks (R232). -/
def commonVer (mask : BitVec 4) : Nat := if bitAt mask 2 then 3 else if bitAt mask 1 then 2 else if bitAt mask 0 then 1 else 0

/-! ## Ports that go down (R227) -/

/-- A port goes down: what it holds is lost, and PARTITION_FAULT is raised for every partition whose accepted plan uses it. -/
def State.portGoesDown (s : State) (n : PortId) : State :=
  let us := s.portUsers n.val
  let s := s.setDN (ckPort n.val 1) 0
  let s := s.modPort n (fun q => { Port.reset with leftTraining := q.leftTraining })
  us.foldl (fun s p => s.raiseMgmt p 0x0B 2) s

/-- PORT_DOWN (R227). -/
def execPortDown (n : PortId) (s : State) : Host.Outcome State Fault Refusal :=
  if s.portTrained n.val then .next (s.portGoesDown n).settle else .next s

/-! ## Spare lane (R226) -/

/-- Move a logical lane onto the spare; no new codewords leave meanwhile. -/
def State.swapLane (s : State) (n : PortId) (lane : Fin 16) : State :=
  (s.modPort n (fun q => { q with used := true, swapping := true, ser := q.ser.filter (fun e => e.2 ≠ lane) })).setDN (ckPort n.val 5) lane.val

/-- A lane fails: the first is moved onto the spare, and the two ends coordinate it by LANE; a second takes the port down. -/
def State.laneFails (s : State) (n : PortId) (lane : Fin 16) : State :=
  if (s.portSt n).used then s.portGoesDown n
  else
    let f := (Config.internalWord 1 s.free &&& BitVec.ofNat 256 (2 ^ 248 - 1)) ||| BitVec.ofNat 256 (3 * 2 ^ 248)
    ({ s with free := s.free + 1 }.swapLane n lane).emit (.lcf n f)

/-! ## Codewords (R228, R230) -/

/-- Opcodes whose packets carry data. -/
def hasData (opc : Nat) : Bool :=
  opc == 0x01 || opc == 0x03 || opc == 0x06 || opc == 0x07 || opc == 0x08 || opc == 0x09 || opc == 0x0A || opc == 0x11 || opc == 0x12 || opc == 0x14

/-- A unit between packets is idle: its first byte is 0x00 and it is no header (R228, Table 10-4). -/
def idleUnit (u : W128) : Bool := fld u 120 8 == 0 && (pOpc u == 0 || !hchkOk u)

/-- Take whole packets off the front of the units received; their effects are those of their own commands. -/
def takeWhole : Nat → List W128 → List W128
  | 0, l => l
  | _, [] => []
  | n + 1, u :: t =>
    if idleUnit u then takeWhole n t
    else
      let len := if hasData (pOpc u) then pLen u else 0
      if t.length < len then u :: t else takeWhole n (t.drop len)

/-- Units of a codeword's data flits, lower address first: those in slots whose kind bit is 0 (R228). -/
def slotUnits (kinds : BitVec 20) (flits : List W256) : List W128 :=
  flits.zipIdx.flatMap (fun e => if kinds.getLsbD e.2 then [] else [fld e.1 0 128, fld e.1 128 128])

/-- Logical lane of a symbol (R228). -/
def laneOfSym (n : Fin 544) : Fin 16 := ⟨n.val % 16, Nat.mod_lt _ (by decide)⟩

/-- Corrected symbols of the last second on each lane, with those of one more codeword. -/
def Port.addSer (q : Port) (now : W64) (errs : List (Fin 544)) : Port :=
  { q with ser := q.ser.filter (fun e => decide (now.toNat < e.1.toNat + 1000000000)) ++ errs.map (fun n => (now, laneOfSym n)) }

/-- The lowest lane whose corrected symbols of the last second exceed LANE_SER_LIMIT (R226). -/
def State.serLane (s : State) (n : PortId) : Option (Fin 16) :=
  (List.finRange 16).find? (fun l => decide (s.dN (dk 0x2300 0x0A) < cnt (fun (e : W64 × Fin 16) => e.2 == l) (s.portSt n).ser))

/-- CODEWORD (R228, R230). The RS(544,514) code corrects up to 15 symbols; a codeword with more in error is uncorrectable, is discarded with what
follows, and asks for a replay. Only the codeword expected next is taken. Its link control flits have their effects under their own rows. A
lane with too many corrected symbols fails. -/
def execCodeword (n : PortId) (seq : W16) (errs : List (Fin 544)) (kinds : BitVec 20) (flits : List W256) (s : State) :
    Host.Outcome State Fault Refusal :=
  if !s.portTrained n.val then .next s
  else
    let q := s.portSt n
    if 15 < errs.length then
      let s := (s.incD (ckPort n.val 7)).setPort n { q with nak := true, discard := true }
      .next (s.emit (.lcf n (flowFlit q.rxSeq true)))
    else
      let q := q.addSer s.now errs
      let us := q.rx ++ slotUnits kinds flits
      let q := if seq ≠ q.rxSeq then q else { q with rxSeq := q.rxSeq + 1, nak := false, discard := false, rx := takeWhole us.length us }
      let s := (s.addD (ckPort n.val 6) errs.length).setPort n q
      match s.serLane n with
      | some l => .next (s.laneFails n l).settle
      | none => .next s

/-- Codewords to send again, from `seq` on. -/
def Port.replayFrom (q : Port) (seq : W16) : List (W16 × List CwSlot) := q.replay.filter (fun e => decide ((e.1 - seq).toNat < 2 ^ 15))

/-- Credit returns of a FLOW (Table 10-1). -/
def Port.addCredits (q : Port) (f : W256) : Port :=
  (List.range 20).foldl (fun q v => q.setCredit v (q.credit v + fldN f (64 + 8 * v) 8)) q

/-- FLOW (R229, R230). -/
def execFlow (n : PortId) (f : W256) (s : State) : Host.Outcome State Fault Refusal :=
  if lcType f ≠ 1 ∨ !s.portTrained n.val then .next s
  else
    let ack : W16 := fld f 232 16
    let s := s.modPort n (fun q => { q.addCredits f with acked := ack })
    if bitAt f 231 then
      let s := (s.incD (ckPort n.val 8)).modPort n (fun q => { q with msReplays := q.msReplays + 1 })
      if s.dN (dk 0x2300 9) < (s.portSt n).msReplays then .next (s.portGoesDown n).settle
      else .next ((s.emits (((s.portSt n).replayFrom ack).map (fun e => Out.codeword n e.1 e.2))).drainPort n)
    else .next (s.drainPort n)

/-! ## Discovery and training (R232, R256, R260, R418) -/

/-- DISC (R256). While training it gives the version choice; on a port in use, a changed neighbour takes the port down (R260). -/
def execDisc (n : PortId) (f : W256) (s : State) : Host.Outcome State Fault Refusal :=
  if lcType f ≠ 2 then .next s
  else if s.dN (ckPort n.val 1) = 1 then .next (s.modPort n (fun q => { q with vsel := BitVec.ofNat 4 (commonVer (dcVmask f)) }))
  else if !s.portTrained n.val then .next s
  else if dcId f ≠ s.dN (ckPort n.val 3) ∨ dcRolePort f ≠ s.dN (ckPort n.val 4) then .next (s.portGoesDown n).settle
  else .next ((s.modPort n (fun q => { q with reach := dcReach f })).plansAgain).settle

/-- DISC_SEND (R256). -/
def execDiscSend (n : PortId) (s : State) : Host.Outcome State Fault Refusal :=
  if s.portTrained n.val ∨ s.dN (ckPort n.val 1) = 1 then .next (s.emit (.lcf n (s.discFlit n))) else .next s

/-- LINK_TRAINING_ATTEMPT (R418): from the start of the trusted kernel, on a port that is not up. -/
def execLinkTrainingAttempt (n : PortId) (s : State) : Host.Outcome State Fault Refusal :=
  if !s.board.tkUp ∨ s.portTrained n.val then .next s
  else
    let again := s.dN (ckPort n.val 1) = 1
    let s := s.modPort n (fun q => { Port.reset with leftTraining := q.leftTraining || again })
    .next ((s.setDN (ckPort n.val 1) 1).emit (.train n))

/-- LINK_TRAINED (R232): with no common version STATE is 4; else the link is up once both ends chose the same version. -/
def execLinkTrained (n : PortId) (f : W256) (s : State) : Host.Outcome State Fault Refusal :=
  if s.dN (ckPort n.val 1) ≠ 1 ∨ lcType f ≠ 2 then .next s
  else
    let v := commonVer (dcVmask f)
    let up := { Port.reset with leftTraining := true, vsel := BitVec.ofNat 4 v, reach := dcReach f, txq := (s.portSt n).txq }
    if v = 0 then .next ((s.setPort n up).setDN (ckPort n.val 1) 4)
    else if (dcVsel f).toNat ≠ v then .next (s.modPort n (fun q => { q with vsel := BitVec.ofNat 4 v }))
    else
      let s := (s.setPort n up).setDN (ckPort n.val 1) 2
      let s := ((s.setDN (ckPort n.val 2) v).setDN (ckPort n.val 3) (dcId f)).setDN (ckPort n.val 4) (dcRolePort f)
      .next (((s.setDN (ckPort n.val 5) 0xFF).portRoles.plansAgain).drainPort n).settle

/-- EQUALISATION_UPDATE (R406). -/
def execEqualisationUpdate (n : PortId) (s : State) : Host.Outcome State Fault Refusal :=
  if s.portTrained n.val then .next (s.incD (dk 0x2150 (n.val + 1))) else .next s

/-- LANE_FAILURE (R226). -/
def execLaneFailure (n : PortId) (lane : Fin 16) (s : State) : Host.Outcome State Fault Refusal :=
  if s.portTrained n.val then .next (s.laneFails n lane).settle else .next s

/-- LANE (R229): the other end swaps a lane, and so does this one. -/
def execLane (n : PortId) (f : W256) (s : State) : Host.Outcome State Fault Refusal :=
  if lcType f ≠ 3 ∨ !s.portTrained n.val ∨ (s.portSt n).used then .next s else .next (s.swapLane n (Config.laneOf f))

/-- SPARE_LANE_SWAP_DONE (R226). -/
def execSpareLaneSwapDone (n : PortId) (s : State) : Host.Outcome State Fault Refusal :=
  if (s.portSt n).swapping then .next ((s.modPort n (fun q => { q with swapping := false })).drainPort n) else .next s

/-! ## Forwarding (R247 to R249, R251) -/

/-- The route number that a packet of another module was sent under (R246): SADD and SSET name the core in their data (R292), and no other
request names its unit (log entry 22). -/
def fwdRoute (p : Packet) : Nat :=
  if pTc p.hdr = 4 ∧ pOpc p.hdr = 0x14 then 0xC0
  else if pOpc p.hdr = 0x06 ∨ pOpc p.hdr = 0x07 then fldN (p.data.headD 0) 75 8
  else
    let r := Config.requestUnit (pSrc p.hdr) (pTag p.hdr)
    routeNo r.1.val r.2.toNat

/-- Route number of a response, from the unit its ADDR names (R239). -/
def rspRoute (h : W128) : Nat := routeNo (fldN h 38 2) (fldN h 30 8)

/-- The plan a forwarded packet follows: its partition's accepted one, else one whose slice holds both racks. -/
def State.fwdPlan (s : State) (p : Packet) : Option PathPlan :=
  match if pOpc p.hdr = 0x14 then none else s.planOf (pPart p.hdr) with
  | some pl => some pl
  | none => s.taskPlan (pSrc p.hdr) (pDst p.hdr)

/-- PACKET_FORWARD (R247). A sprayed packet picks its plane afresh; another keeps the plane it arrived on. -/
def execPacketForward (p : Packet) (s : State) : Host.Outcome State Fault Refusal :=
  if s.ownDev = 0xFFFF then .next s
  else if !hchkOk p.hdr then .next ((s.freeBuffer p).incD (dk 0x2300 5))
  else if pDst p.hdr = s.ownDev ∨ pOpc p.hdr = 0 then .next s
  else match s.fwdPlan p with
    | none => .next (s.freeBuffer p)
    | some pl =>
      let tc := pTc p.hdr
      let blk := tc = 2
      let keep := match p.port with
        | some n => if blk then pl.planes else if n.val < 8 then [n.val] else pl.planes
        | none => pl.planes
      let s := s.freeBuffer p
      let u := if tc = 3 then rspRoute p.hdr else fwdRoute p
      match s.nextHop { pl with planes := keep } u (pSrc p.hdr) (pDst p.hdr) (pPart p.hdr) tc blk with
      | none => .next s
      | some h =>
        let s := if blk then { s with spray := s.spray + 1 } else s
        .next (s.toPort h.port { p with hdr := withVc p.hdr h.vc })

end Sys2Proof.Machine
end

