-- ==== Sys2Proof/Machine/Fabric.lean ====
section
/-!
DEFINITION. The requester side of the fabric: responses and what they do for the command that asked (R239 to R242, R310 to R312), response
timeouts, and messages between service firmware instances (R388).
-/
namespace Sys2Proof.Machine

/-! ## Requests and their responses -/

/-- Key of the request that a response answers, and the status it carries (R239). -/
def rspKey (p : Packet) : Nat := reqKey (fldN (pAddr p.hdr) 38 2) (fldN (pAddr p.hdr) 30 8) (pTag p.hdr).toNat
def rspStatus (p : Packet) : Nat := fldN (pAddr p.hdr) 26 4

/-- The management complex made the request: no command waits for it. -/
def Req.ofMgmt (r : Req) : Bool := match r.sink with
  | .reserve _ _ _ => true
  | .ckpt _ => true
  | .restore _ _ _ => true
  | .mgmt => true
  | _ => false

/-- What the requests of a command, sent or queued, are for. -/
def State.sinksOf (s : State) (c : CoreId) (x : CtxId) (id : Nat) : List Sink :=
  s.reqs.filterMap (fun e => match e.2 with
    | some r => if r.core == c && r.ctx == x && r.job == id && !r.ofMgmt then some r.sink else none
    | none => none) ++
  (match s.job c x id with
  | some j => j.queue.map (·.2)
  | none => [])

/-- Blocks of memory whose data a sink writes. -/
def Sink.blocks : Sink → List Nat
  | .mem a u => blocksOf a (16 * u)
  | _ => []

/-! ## Blocks a GET writes (R310 to R312)

A block carries the marks: data written and header not yet in place, header received, a part of the data not received. -/

def mkWritten (b : Nat) : Nat := 4 * b
def mkHeld (b : Nat) : Nat := 4 * b + 1
def mkSpoilt (b : Nat) : Nat := 4 * b + 2

def Job.mark (j : Job) (k : Nat) (v : Bool) : Job := { j with fpoison := SMap.set (fun _ => false) j.fpoison k v }
def Job.marked (j : Job) (k : Nat) : Bool := SMap.get (fun _ => false) j.fpoison k
def Job.markAll (j : Job) (ks : List Nat) : Job := ks.foldl (fun j k => j.mark k true) j

/-- Put headers in place: a block whose data is all there takes the header that was read for it, or a merge. -/
def State.getBlocks (s : State) (c : CoreId) (x : CtxId) (id : Nat) : State :=
  match s.job c x id with
  | none => s
  | some j =>
    if j.engine ≠ .transfer then s
    else
      let sinks := s.sinksOf c x id
      let bs := (j.fpoison.filter (fun e => e.1 % 4 == 0)).map (fun e => e.1 / 4)
      bs.foldl (fun s b =>
        let spoilt := j.marked (mkSpoilt b)
        let clear (s : State) : State := s.modJob c x id (fun j => j.mark (mkWritten b) false)
        if sinks.any (fun k => k.blocks.contains b) then s
        else if j.marked (mkHeld b) && !spoilt then
          clear { s with mem := s.mem.setHeader b (BitVec.ofNat 64 (ofLe (SMap.range (fun _ => 0) j.fetched (8 * b) 8))) }
        else if sinks.contains (.header b) && !spoilt then s
        else clear (s.mergeBlock (Former.core c) b)) s

/-- A request of a command has its response, or counts as having it: the command goes on. -/
def State.answered (s : State) (r : Req) : State :=
  if r.ofMgmt then
    match r.sink.ofPart with
    | some p => (s.ckptAnswer p true).restoreEnd p
    | none => s
  else
    let s := (s.modJob r.core r.ctx r.job (fun j => { j with outst := j.outst - 1 })).getBlocks r.core r.ctx r.job
    match s.job r.core r.ctx r.job with
    | none => s
    | some j =>
      match j.work, j.engine with
      | .rq d, _ => s.rqStep (s.asIssued r.core r.ctx r.job) d
      | _, .coll => s.collPump
      | _, .tensor => s.pump r.core r.ctx r.job
      | _, _ => s.jobNext r.core r.ctx r.job

/-- An error on a request of a command: no further packets (R240). Data that was still to come stays away. -/
def State.reqFails (s : State) (r : Req) (status : BitVec 4) : State :=
  if r.ofMgmt then
    match r.sink.ofPart with
    | some p =>
      let s := s.modPart p (fun q => { q with ckpt := { q.ckpt with failed := true, queue := [] } })
      if status = 2 then s.raiseMgmt p 0x0B 1 else s
    | none => s
  else s.modJob r.core r.ctx r.job (fun j =>
    let lost := (r.sink :: j.queue.map (·.2)).flatMap Sink.blocks
    let j := if j.engine = .transfer then j.markAll (lost.map mkSpoilt) else j
    { j with errs := j.errs ++ [status], queue := [] })

/-! ## Data that a response brings -/

/-- Data of a read arrives for a GET, or for a SYNCREAD (R291). -/
def State.takeData (s : State) (r : Req) (addr units : Nat) (p : Packet) : State :=
  let part := s.partD r.core r.ctx
  let l := (bytesOfUnits p.data).take (16 * units)
  let ps := psnUnits (s.pver part) l.length (pPsn p.hdr)
  match s.job r.core r.ctx r.job with
  | none => s
  | some j =>
    match j.work with
    | .syncread off => s.writeMerge (Former.core r.core) (ckey r.core off) (l.take 8) []
    | _ =>
      match s.check part (keyAddr addr) l.length with
      | .ok =>
        (s.writeMem addr l (unitFlags addr l.length ps)).modJob r.core r.ctx r.job (fun j =>
          { j.markAll ((blocksOf addr l.length).map mkWritten) with poison := j.poison || ps.any id })
      | c => (s.refuse c).reqFails r (if c = .part then 2 else 1)

/-- What the data of a response is for. -/
def State.takeRsp (s : State) (r : Req) (p : Packet) : State :=
  let unit := p.data.headD 0
  match r.sink with
  | .mem addr units => s.takeData r addr units p
  | .header b => s.modJob r.core r.ctx r.job (fun j =>
      { j.mark (mkHeld b) true with fetched := SMap.setRange (fun _ => 0) j.fetched (8 * b) (leBytes 8 (fldN unit 0 64)) })
  | .fetch key units =>
    if units = 0 then s.modJob r.core r.ctx r.job (fun j => j.keepHdr (key.toNat / 4096) (fld unit 0 64))
    else
      let l := (bytesOfUnits p.data).take (16 * units)
      s.modJob r.core r.ctx r.job (fun j => j.keep key.toNat l (psnUnits (s.pver (s.partD r.core r.ctx)) l.length (pPsn p.hdr)))
  | .reserve part gid plane => s.resOutcome part gid plane (if bitAt unit 0 then some (fld unit 16 16) else none)
  | .restore part key units => s.restoreData part key units p
  | .ckpt _ => s
  | .ack => s
  | .collReady _ _ => s
  | .mgmt => s

/-- A response arrives: `f` is what it does for its request. One that answers no request is late (R242). -/
def State.response (s : State) (p : Packet) (opc : Nat) (f : Req → State → State) : Host.Outcome State Fault Refusal :=
  s.arrive p (pOpc p.hdr == opc) (fun s =>
    match s.req (rspKey p) with
    | none => s.incD (dk 0x2300 7)
    | some r => ((f r (s.setReq (rspKey p) none)).answered r).settle)

/-- RDR (R239). -/
def execRdr (p : Packet) (s : State) : Host.Outcome State Fault Refusal := s.response p 0x03 (fun r s => s.takeRsp r p)

/-- MRR (R239). -/
def execMrr (p : Packet) (s : State) : Host.Outcome State Fault Refusal := s.response p 0x12 (fun r s => s.takeRsp r p)

/-- ACK (R239): a READY answered with status 4 is kept and sent again (R268). -/
def execAck (p : Packet) (s : State) : Host.Outcome State Fault Refusal :=
  s.response p 0x04 (fun r s =>
    match r.sink, decide (rspStatus p = 4) with
    | .collReady dev m, true => s.modPart m.part (fun q => { q with retries := q.retries ++ [(dev, m)] })
    | _, _ => s)

/-- ERR (R240). -/
def execErr (p : Packet) (s : State) : Host.Outcome State Fault Refusal :=
  s.response p 0x05 (fun r s => s.reqFails r (BitVec.ofNat 4 (rspStatus p)))

/-! ## Timeouts -/

/-- No response in time: CHECK_MISMATCH (R242), with the request's address. -/
def State.reqTimeout (s : State) (r : Req) : State :=
  match r.sink with
  | .reserve part _ _ => s.raiseMgmt part 0x05 r.addr.toNat
  | .ckpt part => (s.raiseMgmt part 0x05 r.addr.toNat).reqFails r 0
  | .restore part _ _ => (s.raiseMgmt part 0x05 r.addr.toNat).reqFails r 0
  | .mgmt => s.raiseMgmt 0 0x05 r.addr.toNat
  | _ =>
    match s.job r.core r.ctx r.job with
    | none => s
    | some j =>
      (s.raiseCtx r.core r.ctx j.step 0x05 r.addr.toNat).modJob r.core r.ctx r.job (fun j =>
        let j := if j.engine = .transfer then j.markAll (r.sink.blocks.map mkSpoilt) else j
        { j with timedOut := true })

/-- RESPONSE_TIMEOUT (R242). -/
def execResponseTimeout (req : ReqId) (s : State) : Host.Outcome State Fault Refusal :=
  let k := reqKey req.kind.val req.unit.toNat req.tag.toNat
  match s.req k with
  | none => .next s
  | some r => .next (((s.setReq k none).reqTimeout r).answered r).settle

/-! ## Messages (R388) -/

/-- MSG: the outcome of a switch reservation (R280). Messages with a row of their own have their effect there. -/
def execMsg (p : Packet) (s : State) : Host.Outcome State Fault Refusal :=
  s.arrive p (isMsg p 0x20) (fun s =>
    let f := msgField p
    (s.reserved (msgPart p) (fld f 0 16) (fldN f 16 16) (fldN f 32 8) (if bitAt f 40 then some (fld f 48 16) else none)).settle)

end Sys2Proof.Machine
end

