-- ==== Sys2Proof/Machine/Mcl.lean ====
section
/-!
DEFINITION. The companion link: notices and the acceptance of blocks (R344), responses (R341, R347, R348), requests of the companion (R342,
R351), training, flits and retraining (R338, R339, R354), and attestation (R393).
-/
namespace Sys2Proof.Machine

/-- Answer a message of the companion under its TAG (R341). -/
def State.mclAnswer (s : State) (m : MclMsg) (opc status : Nat) (psn : Byte) (lines : List (BitVec 512)) : State :=
  s.mclSend ⟨mkMcl opc (mTag m.hdr) (mPart m.hdr) (lines.length - 1) psn status (mAddr m.hdr), lines⟩

def State.mclCmp (s : State) (m : MclMsg) (status : Nat) : State := s.mclAnswer m 0x21 status 0 []

/-- Opcodes of Table 14-3. -/
def mclListed (opc : Nat) : Bool := [0x01, 0x02, 0x03, 0x04, 0x05, 0x10, 0x20, 0x21, 0x30, 0x31, 0x40].contains opc

/-- A message arrives on the active link: an unlisted opcode is answered with status 3 (R341), and one of this row is taken. -/
def State.mclArrive (s : State) (m : MclMsg) (opc : Nat) (f : State → State) : Host.Outcome State Fault Refusal :=
  if !s.mclActive then .next s
  else if !mclListed (mOpc m.hdr) then .next (s.mclCmp m 3)
  else if mOpc m.hdr = opc then .next (f s).settle
  else .next s

/-! ## Lines of rings (R344) -/

/-- A read of the line is outstanding. -/
def State.lineAsked (s : State) (w : Win) (line : Nat) : Bool :=
  s.mcl.reqs.any (fun e => match e.2 with
    | some (.line v l _) => v == w.idx && l == line
    | _ => false)

def State.consAsked (s : State) (w : Win) : Bool :=
  s.mcl.reqs.any (fun e => match e.2 with
    | some (.cons p t _) => p == w.part && t == (w.kind == 4)
    | _ => false)

/-- Data still to come of a line or of CONS is stale. -/
def MclSink.outdate (w : Win) (line : Nat) : MclSink → MclSink
  | .line v l st => .line v l (st || (w.kind == 1 && v == w.idx && l == line))
  | .cons p t st => .cons p t (st || (w.kind != 1 && p == w.part && t == (w.kind == 4)))
  | k => k

def State.outdate (s : State) (w : Win) (line : Nat) : State :=
  { s with mcl := { s.mcl with reqs := s.mcl.reqs.map (fun (e : Nat × Option MclSink) => (e.1, e.2.map (MclSink.outdate w line))) } }

def Ring.line (r : Ring) (l : Nat) : Option (BitVec 512) := SMap.get (fun _ => none) r.lines l
def Ring.setLine (r : Ring) (l : Nat) (v : Option (BitVec 512)) : Ring := { r with lines := SMap.set (fun _ => none) r.lines l v }

/-- A held line of a ring is invalidated: both lines of its slot are read again. -/
def State.ringNotice (s : State) (w : Win) (line : Nat) : State :=
  if s.lineAsked w line then s.outdate w line
  else if ((s.mcl.ring w.idx).line line).isNone then s
  else
    let slot := line / 2
    [2 * slot, 2 * slot + 1].foldl (fun s l =>
      if s.lineAsked w l then s
      else (s.setRing w.idx ((s.mcl.ring w.idx).setLine l none)).holdLine w l) s

/-- An invalidation of a line that the module may hold. -/
def State.notice (s : State) (a : Nat) : State :=
  match s.windows.find? (fun w => decide (w.base ≤ a ∧ a < w.base + w.size)) with
  | none => s
  | some w =>
    let line := (a - w.base) / 64
    if w.kind = 1 then s.ringNotice w line
    else if (w.kind = 2 ∧ line = 0) ∨ (w.kind = 4 ∧ line = 1) then (if s.consAsked w then s.outdate w line else s.readCons w)
    else s

/-- SNPI (R344): it is answered, and the line is read again. -/
def execSnpi (m : MclMsg) (s : State) : Host.Outcome State Fault Refusal :=
  s.mclArrive m 0x10 (fun s => (s.mclCmp m 0).notice (mAddr m.hdr).toNat)

/-- Drop a line that has been accepted. -/
def State.evict (s : State) (w : Win) (line : Nat) : State :=
  (s.setRing w.idx ((s.mcl.ring w.idx).setLine line none)).mclReq 0x05 w.part (BitVec.ofNat 64 (w.base + 64 * line)) [] 0 0 .drop

/-- The expected slot holds the expected block: it is accepted, and the slot four further is held. -/
def acceptGo (w : Win) : Nat → State → State
  | 0, s => s
  | n + 1, s =>
    let r := s.mcl.ring w.idx
    let slot := w.slotOf r.expect
    let asked := s.lineAsked w (2 * slot) || s.lineAsked w (2 * slot + 1)
    match r.line (2 * slot), r.line (2 * slot + 1), asked with
    | some lo, some hi, false =>
      let b : BWord := hi ++ lo
      let q := seqOf r.expect
      if bSeq b = q ∧ bSeq2 b = q then
        let s := s.setRing w.idx { r with expect := r.expect + 1, blocks := r.blocks ++ [Block.accepted q b] }
        let s := ((s.evict w (2 * slot)).evict w (2 * slot + 1)).holdSlot w (w.slotOf (r.expect + 4))
        acceptGo w n s
      else s
    | _, _, _ => s

/-- Data of a ring's line arrives. Data that came with an error or with poison is no block. -/
def State.lineData (s : State) (win : Fin 64) (line : Nat) (stale : Bool) (m : MclMsg) : State :=
  match s.cmdWin win with
  | none => s
  | some w =>
    if stale then s.holdLine w line
    else
      let v := if mStatus m.hdr = 0 ∧ mPsn m.hdr = 0 then m.lines.headD 0 else 0
      acceptGo w 4 (s.setRing win ((s.mcl.ring win).setLine line (some v)))

/-! ## Responses -/

/-- Outcome of a response for a block's request. -/
def State.blkAnswer (s : State) (win : Fin 64) (seq : W32) (status : Option Byte) (bytes : Nat) : State :=
  s.modBlk win seq (fun b => { b with
    outst := b.outst - 1
    moved := if stops status then b.moved else b.moved + bytes
    fail := if stops b.fail then b.fail else if stops status then status else b.fail <|> status })

/-- Data for a WRITE or an APPEND arrives. Under 1.x a response with status 5 is poisoned whole (Table 14-1). -/
def State.blkRsp (s : State) (win : Fin 64) (seq : W32) (off units : Nat) (m : MclMsg) : State :=
  match s.cmdWin win, s.blk win seq with
  | some w, some b =>
    let st := mclStatus (mStatus m.hdr)
    if stops st then (s.blkAnswer win seq st 0).blkPump w seq
    else
      let l := (bytesOfLines m.lines).take (64 * units)
      let ps := (List.range units).map (fun i => st.isSome || (s.mclVer == 3 && bitAt (mPsn m.hdr) i))
      let (s, bad) := s.blkData w b off l ps
      (s.blkAnswer win seq (bad <|> st) l.length).blkPump w seq
  | _, _ => s

/-- Take the request that a response answers, and do what the response is for. -/
def State.mclResponse (s : State) (m : MclMsg) (data : Bool) : State :=
  let t := mTag m.hdr
  match SMap.get (fun _ => none) s.mcl.reqs t with
  | none => s
  | some k =>
    let s := { s with mcl := { s.mcl with reqs := SMap.set (fun _ => none) s.mcl.reqs t none } }
    let s := match k with
      | .line win line stale => s.lineData win line stale m
      | .cons p tlm stale =>
        (match s.winOf p (if tlm then 4 else 2) with
        | none => s
        | some w =>
          if stale then s.readCons w
          else if !data then s
          else
            let v : W32 := fld (m.lines.headD 0) 0 32
            let c := s.mcl.compOf p
            s.setComp p (if tlm then { c with tcons := v } else { c with cons := v }))
      | .block win seq off units =>
        if data then s.blkRsp win seq off units m
        else (match s.cmdWin win with
        | some w => (s.blkAnswer win seq (mclStatus (mStatus m.hdr) <|> some stAddr) 0).blkPump w seq
        | none => s)
      | .blockWrite win seq bytes =>
        (match s.cmdWin win with
        | some w => (s.blkAnswer win seq (mclStatus (mStatus m.hdr)) bytes).blkPump w seq
        | none => s)
      | .post note _ =>
        (match note with
        | some (c, x, id) => s.finish c x id stOk
        | none => s)
      | .ckpt p off => if data ∧ mStatus m.hdr = 0 then s.streamData p off m.lines (mPsn m.hdr) else (s.ckptAnswer p false).restoreEnd p
      | .drop => s
    s.flushMcl

/-- DATA (R341, R344). -/
def execData (m : MclMsg) (s : State) : Host.Outcome State Fault Refusal := s.mclArrive m 0x20 (fun s => s.mclResponse m true)

/-- CMP (R341, R348). -/
def execCmp (m : MclMsg) (s : State) : Host.Outcome State Fault Refusal := s.mclArrive m 0x21 (fun s => s.mclResponse m false)

/-! ## Requests of the companion (R342, R351) -/

/-- MCL_PARTMASK bars the partition of a request. -/
def State.mclBarred (s : State) (m : MclMsg) : Bool := !(s.d (dk 0x2A00 9)).getLsbD (mPart m.hdr).val

/-- A request may have this form: it names this module, a space that MRD and MWR reach, and no more than a message carries (R342). -/
def State.mclForm (s : State) (m : MclMsg) (n : Nat) : Bool :=
  let a := mAddr m.hdr
  s.isOwn a && (aSpace a == 0 || aSpace a == 1 || aSpace a == 3) && decide (n ≤ mclMaxLines s.mclVer * 64)

/-- Status of a request under MCL_PARTMASK, R17 and R19; 0 when it is accepted. -/
def State.mclRefusal (s : State) (m : MclMsg) (n : Nat) : Nat :=
  if s.mclBarred m then 2
  else if !s.mclForm m n then 1
  else match s.check (mPart m.hdr) (mAddr m.hdr) n with
    | .ok => 0
    | .addr | .bad => 1
    | .part => 2

/-- A refused request is counted: one that MCL_PARTMASK bars from SPACE 0x3 as a refusal of the dictionary (R361), one that fails its check
under R19 with the fault of its partition. -/
def State.mclRefuse (s : State) (m : MclMsg) (n : Nat) : State :=
  if s.mclBarred m then (if aSpace (mAddr m.hdr) = 3 then s.incD (dk 0x2600 4) else s.refuse .part)
  else if !s.mclForm m n then s.refuse .addr
  else s.mgmtRefuse (mPart m.hdr) (s.check (mPart m.hdr) (mAddr m.hdr) n)

/-- The answer of an MRD that reads entries of the mirror. -/
def State.mrdMirror (s : State) (m : MclMsg) : State :=
  let n := 64 * mLen m.hdr
  let q := s.mirrorRead (.mcl (mPart m.hdr)) (aOff (mAddr m.hdr)) (n / 8)
  q.1.mclAnswer m 0x20 0 0 ((linesOfBytes (q.2.flatMap (fun v => leBytes 8 v.toNat))).take (n / 64))

/-- The answer of an MRD that reads memory: a poisoned code unit marks each line it gives bytes to. -/
def State.mrdMemory (s : State) (m : MclMsg) : State :=
  let n := 64 * mLen m.hdr
  let k := aKey (mAddr m.hdr)
  let q := s.readMem k n
  let ps := q.2.2
  let f := (List.range (n / 64)).map (fun i => (List.range ps.length).any (fun j =>
    ps.getD j false && decide (k / 64 + j = (k + 64 * i) / 64 ∨ k / 64 + j = (k + 64 * i + 63) / 64)))
  if s.mclVer = 3 then q.1.mclAnswer m 0x20 0 (mkPsn 3 n f) ((linesOfBytes q.2.1).take (n / 64))
  else q.1.mclAnswer m 0x20 (if ps.any id then 5 else 0) 0 ((linesOfBytes q.2.1).take (n / 64))

/-- MCL_MRD: memory with its poison, or entries of the mirror. -/
def execMclMrd (m : MclMsg) (s : State) : Host.Outcome State Fault Refusal :=
  s.mclArrive m 0x30 (fun s =>
    let n := 64 * mLen m.hdr
    let st := s.mclRefusal m n
    if st ≠ 0 then (s.mclRefuse m n).mclCmp m st
    else if aSpace (mAddr m.hdr) = 3 then
      if s.serverBusy then (s.addD (dk 0x2600 5) (n / 8)).mclCmp m 3 else s.mrdMirror m
    else s.mrdMemory m)

/-- MCL_MWR: memory, ending with a merge (R310), or entries of the mirror. -/
def execMclMwr (m : MclMsg) (s : State) : Host.Outcome State Fault Refusal :=
  s.mclArrive m 0x31 (fun s =>
    let n := 64 * mLen m.hdr
    let a := mAddr m.hdr
    let l := (bytesOfLines m.lines ++ List.replicate n 0).take n
    let st := s.mclRefusal m n
    if st ≠ 0 then (s.mclRefuse m n).mclCmp m st
    else if aSpace a = 3 then
      if s.serverBusy then (s.addD (dk 0x2600 5) (n / 8)).mclCmp m 3
      else (s.mirrorWrite (.mcl (mPart m.hdr)) (aOff a) ((elemsLe 8 (n / 8) l).map (BitVec.ofNat 64))).mclCmp m 0
    else
      let ps := (List.range (n / 64)).map (fun i => s.mclVer == 3 && bitAt (mPsn m.hdr) i)
      (s.writeMerge Former.mgmt (aKey a) l (unitFlags (aKey a) n ps)).mclCmp m 0)

/-! ## Training and link state (R339, R354) -/

/-- The link becomes active with a version: expected slots are read, DONE words and what waits are sent. -/
def State.mclUp (s : State) (ver : Nat) : State :=
  let s := ((s.setDN mclStateKey 2).setDN mclVerKey ver).setDN (dk 0x2A00 4) 16
  let waits := s.mcl.queue
  let s := ({ s with mcl := { s.mcl with queue := [] } }).holdAll
  let s := { s with mcl := { s.mcl with queue := s.mcl.queue ++ waits } }
  let parts := (allParts.filter (fun p => s.windows.any (fun w => w.part == p && w.kind == 1 && !(s.mcl.ring w.idx).doneSeq == 0)))
  (parts.foldl (fun s p => s.postDone p) s).flushMcl

/-- MCL_MSG (R339, R341): in training it carries the other end's mask and choice. The link is active once that choice equals this end's.
Messages of an active link that ask for attestation have a row of their own. -/
def execMclMsg (m : MclMsg) (s : State) : Host.Outcome State Fault Refusal :=
  if mOpc m.hdr ≠ 0x40 ∨ s.dN mclStateKey ≠ 1 then .next s
  else
    let v := mclCommon (Config.mclTraining m.lines).1
    let echo := (Config.mclTraining m.lines).2.toNat
    if v = 0 then .next (s.setDN mclStateKey 3)
    else if echo = v then .next ((s.mclTrainMsg v).mclUp v).settle
    else .next (s.mclTrainMsg v)

/-- What a response will not come for any more. -/
def MclSink.lost (k : MclSink) (s : State) : State :=
  match k with
  | .post note q => { s with mcl := { s.mcl with queue := s.mcl.queue ++ [MclWait.req q (.post note q)] } }
  | .ckpt p _ => (s.ckptAnswer p false).restoreEnd p
  | _ => s

/-- Requests outstanding, oldest first. -/
def Mcl.asked (m : Mcl) : List MclSink :=
  (m.reqs.filter (fun e => decide (m.nextTag ≤ e.1)) ++ m.reqs.filter (fun e => decide (e.1 < m.nextTag))).filterMap (fun e => e.2)

/-- The link retrains (R354): held lines and messages in flight are dropped, blocks moving data are abandoned, and writes that the
companion has not acknowledged wait to be sent again before what waits already. -/
def State.mclRetrain (s : State) : State :=
  let s := s.abandonAll
  let asked := s.mcl.asked
  let waits := s.mcl.queue
  let sinks := waits.filterMap (fun w => match w with
    | .req _ k => some k
    | _ => none)
  let s := { s with mcl := { s.mcl with
    rings := s.mcl.rings.map (fun (e : Nat × Ring) => (e.1, { e.2 with lines := [] }))
    reqs := []
    queue := [] } }
  let s := (asked ++ sinks).foldl (fun s k => k.lost s) s
  let s := { s with mcl := { s.mcl with queue := s.mcl.queue ++ waits.filter (fun (w : MclWait) => !w.isReq) } }
  (s.incD (dk 0x2A00 7)).mclTrain

/-- MCL_RETRAIN (R354). -/
def execMclRetrain (s : State) : Host.Outcome State Fault Refusal := if s.mclActive then .next s.mclRetrain.settle else .next s

/-- MCL_LANE_FAILURE (R339, R354): under 2.0 the first lane to fail leaves the link at 8 lanes; any other failure retrains it. -/
def execMclLaneFailure (s : State) : Host.Outcome State Fault Refusal :=
  if !s.mclActive then .next s
  else if s.mclVer = 3 ∧ s.dN (dk 0x2A00 4) = 16 then .next (s.setDN (dk 0x2A00 4) 8)
  else .next s.mclRetrain.settle

/-! ## Flits (R338) -/

/-- A slot between messages that begins none: its opcode is unlisted zero. -/
def idleSlot (u : W128) : Bool := mOpc u == 0

/-- Lines of data that follow a message's header. -/
def mclDataLines (u : W128) : Nat :=
  if [0x03, 0x04, 0x20, 0x31, 0x40].contains (mOpc u) then mLen u else 0

/-- Take whole messages off the front of the slots received: what is left, and the classes of the messages taken. Their effects are those of
their own commands. -/
def takeMsgs : Nat → List W128 → List Nat → List W128 × List Nat
  | 0, l, cs => (l, cs)
  | _, [], cs => ([], cs)
  | n + 1, u :: t, cs =>
    if idleSlot u then takeMsgs n t cs
    else
      let len := 4 * mclDataLines u
      if t.length < len then (u :: t, cs) else takeMsgs n (t.drop len) (cs ++ [mclClass (mOpc u)])

/-- A flit in sequence is taken: it returns credits, acknowledges flits of this end, and each message in it gives a credit back. -/
def Mcl.takeFlit (q : Mcl) (hdr : W64) (slots : List W128) : Mcl :=
  let us := q.rx ++ flitSlots slots
  let r := takeMsgs us.length us []
  { q with
    rxSeq := (q.rxSeq + 1) % 1024
    nak := false
    ackDue := true
    rx := r.1
    replay := q.unacked (fAck hdr)
    owed := r.2.foldl (fun m c => SMap.set (fun _ => 0) m c (SMap.get (fun _ => 0) m c + 1)) q.owed
    credits := (List.range 5).foldl (fun m c => SMap.set (fun _ => 0) m c (SMap.get (fun _ => 0) m c + fCredit hdr c)) q.credits }

/-- MCL_FLIT (R338): a flit whose CRC fails, and every one after it, is discarded and asked for again. One that is taken returns credits,
acknowledges, and may ask for a replay. -/
def execMclFlit (hdr : W64) (slots : List W128) (crc : W64) (s : State) : Host.Outcome State Fault Refusal :=
  if !s.mclActive then .next s
  else if crc64 (flitBytes hdr slots) ≠ crc then
    .next ({ s.incD (dk 0x2A00 5) with mcl := { s.mcl with nak := true } })
  else if fSeq hdr ≠ s.mcl.rxSeq then .next s
  else
    let s : State := { s with mcl := s.mcl.takeFlit hdr slots }
    if fNak hdr then
      let s : State := { s.incD (dk 0x2A00 6) with mcl := { s.mcl with msReplays := s.mcl.msReplays + 1 } }
      if s.dN (dk 0x2A00 8) < s.mcl.msReplays then .next s.mclRetrain.settle
      else .next (s.emits (s.mcl.replay.map s.mcl.again))
    else .next s

/-! ## Attestation (R392, R393) -/

/-- Bytes from one offset up to another, zeros but for the pieces given. -/
def layBytes (n : Nat) (ps : List (Nat × List Byte)) : List Byte :=
  ps.foldl (fun l p => l.take p.1 ++ p.2 ++ l.drop (p.1 + p.2.length)) (List.replicate n 0)

def sigBytes (item n : Nat) : List Byte := (List.range n).map (Config.signature Config.deviceSecret item)

/-- Both signatures over a signed part, at the offsets of Table 16-2. -/
def signed (item : Nat) (part : List Byte) : List Byte :=
  layBytes 17632 [(0, part), (1024, sigBytes item 384), (1408, sigBytes (item + 1) 16224)]

/-- The identity certificate. -/
def identityCert : List Byte :=
  signed 2 (layBytes 1024 [(0, leBytes 4 0x54444956), (8, leBytes 8 Config.serial.toNat), (128, leBytes 4 65537),
    (132, sigBytes 0 384), (516, sigBytes 1 48)])

/-- The shadows of Table 16-1 in table order. -/
def Fuses.bytes (f : Fuses) : List Byte :=
  leBytes 1 (b2n f.lock) ++ leBytes 1 (b2n f.debugLock) ++ leBytes 4 f.arb.toNat ++ leBytes 48 f.hashRsa.toNat ++ leBytes 48 f.hashSlh.toNat ++
    leBytes 1 f.partLimit.toNat ++ leBytes 8 Config.serial.toNat

/-- Keys of the partition table's crit entries, in ascending index and subindex (R374). -/
def ptableKeys : List Nat :=
  let rows := dictTable.flatten.filter (fun e => e.acc == .crit && e.lo != 0x2500 && e.lo != 0x2510)
  (rows.flatMap (fun e => (List.range e.n).flatMap (fun i => (List.range e.k).map (fun j => dk (e.lo + i) (e.sub + j))))).mergeSort

/-- The signed part of a report (Table 16-7). -/
def State.attestPart (s : State) (p : PartId) (nonce : BitVec 256) : List Byte :=
  let hash (i : Option Image) : List Byte := leBytes 48 ((i.map Image.hash).getD 0).toNat
  let ver (i : Option Image) : List Byte := leBytes 4 ((i.map Image.version).getD 0).toNat
  layBytes 1024 [(0, leBytes 4 0x52545441), (4, leBytes 2 1), (6, [BitVec.ofNat 8 p.val]), (8, leBytes 8 Config.serial.toNat),
    (16, leBytes 2 s.ownDev.toNat), (20, leBytes 4 (s.dN (dk 0x2800 0x11))), (24, ver s.sec.tkRun ++ ver s.sec.sfRun),
    (32, leBytes 32 nonce.toNat), (64, hash s.sec.tkRun), (112, hash s.sec.sfRun),
    (160, sha384 s.sec.shadow.bytes),
    (208, sha384 (ptableKeys.flatMap (fun k => leBytes 8 (s.dN k)))),
    (256, leBytes 8 s.now.toNat), (264, leBytes 4 (s.dN (dk 0x2600 3))), (272, leBytes 8 (s.dN (dkx 0x2610 p 2))),
    (280, leBytes 2 (s.dN (dk 0x2520 1)))]

/-- Room that a report takes. -/
def reportLen : Nat := 35264

/-- The status message of a request. -/
def State.attestStatus (s : State) (p : PartId) (status : Nat) : State :=
  s.mclSend ⟨mkMcl 0x40 0 p 0 0 0 0, [BitVec.ofNat 512 (0x21 + status * 2 ^ 8)]⟩

/-- ATTESTATION_REQUEST (R393). -/
def execAttestationRequest (m : MclMsg) (s : State) : Host.Outcome State Fault Refusal :=
  s.mclArrive m 0x40 (fun s =>
    let l := m.lines.headD 0
    let p := mPart m.hdr
    let a : W64 := fld l 320 64
    if fldN l 0 8 ≠ 0x20 ∨ !s.board.tkUp then s
    else if 4 ≤ s.sec.attest.length then s.attestStatus p 2
    else if !s.inDataWin p a.toNat reportLen then s.attestStatus p 1
    else { s with sec := { s.sec with attest := s.sec.attest ++ [(p, fld l 64 256, a)] } })

/-- ATTESTATION_REPORT (R393): the oldest request's report is signed, written by WRI, and its status sent. -/
def execAttestationReport (s : State) : Host.Outcome State Fault Refusal :=
  match s.sec.attest with
  | [] => .next s
  | (p, nonce, a) :: t =>
    if !s.mclActive then .next s
    else
      let s := { s with sec := { s.sec with attest := t } }
      if !s.inDataWin p a.toNat reportLen then .next (s.attestStatus p 1)
      else
        let part := s.attestPart p nonce
        let l := signed (16 * (ofLe part + 1)) part ++ identityCert
        .next ((s.streamWrite p a.toNat l []).attestStatus p 0)

end Sys2Proof.Machine
end

