-- ==== Sys2Proof/Machine/Mgmt.lean ====
section
/-!
DEFINITION. Fabric requests to the dictionary mirror and to core control windows (R179, R237, R366, R367): MRD and MWR, and the accesses
of the module's own cores to the same spaces.
-/
namespace Sys2Proof.Machine

/-! ## Accesses -/

/-- What an access to SPACE 0x3 or 0x4 gives: its data, a refusal under R17 or R19, or ERR with status 3 while the server is busy. -/
inductive MgtRes where
  | data (l : List Byte)
  | refused (k : Chk)
  | busy
  deriving DecidableEq, Repr

/-- The checks of an access: 16-byte aligned, in SPACE 0x3 or 0x4, then R17 and R19. -/
def State.mgtCheck (s : State) (p : PartId) (a : W64) (n : Nat) : Chk :=
  if aOff a % 16 ≠ 0 ∨ (aSpace a ≠ 3 ∧ aSpace a ≠ 4) then .addr else s.check p a n

/-- Read `n` bytes of SPACE 0x3 or 0x4 for a partition. -/
def State.mgtRead (s : State) (p : PartId) (a : W64) (n : Nat) : State × MgtRes :=
  match s.mgtCheck p a n with
  | .ok =>
    if aSpace a = 3 then
      if s.serverBusy then (s.addD (dk 0x2600 5) (n / 8), .busy)
      else
        let (s, vs) := s.mirrorRead (.fabric p) (aOff a) (n / 8)
        (s, .data (vs.flatMap (fun v => leBytes 8 v.toNat)))
    else
      match s.winCheck (winCore a) p (winOff a) n false with
      | .ok => (s, .data (s.winRead (winCore a) (winOff a) n))
      | k => (s, .refused k)
  | k => (s, .refused k)

/-- Write bytes of SPACE 0x3 or 0x4 for a partition. A refusal is not yet counted. -/
def State.mgtWrite (s : State) (p : PartId) (a : W64) (l : List Byte) : State × MgtRes :=
  match s.mgtCheck p a l.length with
  | .ok =>
    if aSpace a = 3 then
      if s.serverBusy then (s.addD (dk 0x2600 5) (l.length / 8), .busy)
      else (s.mirrorWrite (.fabric p) (aOff a) ((elemsLe 8 (l.length / 8) l).map (BitVec.ofNat 64)), .data [])
    else
      match s.winCheck (winCore a) p (winOff a) l.length true with
      | .ok => ((s.winWrite (winCore a) (winOff a) l).settle, .data [])
      | k => (s, .refused k)
  | k => (s, .refused k)

/-- Refuse an access of the own module's cores: counted like any refused request (R240); its command's status. -/
def State.mgtStatus (s : State) (r : MgtRes) : State × Byte :=
  match r with
  | .data _ => (s, stOk)
  | .refused k => (s.refuse k, k.status)
  | .busy => (s.refuse .addr, stAddr)

/-! ## Requests of other modules -/

/-- MRD (R237, R367): answered by MRR with four units. -/
def execMrd (p : Packet) (s : State) : Host.Outcome State Fault Refusal :=
  s.arrive p (pOpc p.hdr == 0x10) (fun s =>
    match s.mgtRead (pPart p.hdr) (pAddr p.hdr) 64 with
    | (s, .data l) => s.respond p 0x12 0 0 (unitsOfBytes l)
    | (s, .refused k) => s.sendErr p k
    | (s, .busy) => s.unsupported p)

/-- MWR (R237, R367): 1 to 4 units. -/
def execMwr (p : Packet) (s : State) : Host.Outcome State Fault Refusal :=
  s.arrive p (pOpc p.hdr == 0x11) (fun s =>
    if 4 < p.data.length then s.unsupported p
    else match s.mgtWrite (pPart p.hdr) (pAddr p.hdr) (bytesOfUnits p.data) with
      | (s, .data _) => s.sendAck p
      | (s, .refused k) => s.sendErr p k
      | (s, .busy) => s.unsupported p)

end Sys2Proof.Machine
end

