-- ==== Sys2Proof/Machine/Recovery.lean ====
section
/-!
DEFINITION. The recovery leader and its members (R328, R332 to R335): leases, replication, the phases of a restart, lapses, and the watchdog
of the service firmware.
-/
namespace Sys2Proof.Machine

/-! ## The pod (R331, R333) -/

def roleKey : Nat := dk 0x2530 3
def rejoinKey : Nat := dk 0x2530 4
def State.leader (s : State) : W16 := (s.d leaderKey).setWidth 16
def State.leads (s : State) : Bool := s.dN roleKey == 1 && s.dN rejoinKey == 0

/-- Place of a module in its pod's health map: 64 x (rack mod 8) + slot. -/
def podIdx (d : W16) : Nat := d.toNat % 512
def State.podDev (s : State) (i : Nat) : W16 := BitVec.ofNat 16 (s.ownDev.toNat / 512 * 512 + i)

/-- Healthy modules of the pod, in ID order. -/
def State.healthyIdx (s : State) : List Nat := (List.range 512).filter (fun i => !s.lead.unhealthy.contains i)

/-- Every other module of the pod. -/
def State.podOthers (s : State) : List W16 :=
  ((List.range 512).map s.podDev).filter (fun d => decide (d.toNat < 0xC000) && d != s.ownDev)

/-- The replicas of a leader: the next two healthy modules in ID order (R332). -/
def State.replicasOf (s : State) (ldr : W16) : List W16 := ((s.healthyIdx.filter (fun i => decide (podIdx ldr < i))).take 2).map s.podDev
def State.replicas (s : State) : List W16 := s.replicasOf s.ownDev

def State.term (s : State) : Nat := s.dN termKey
def State.modLead (s : State) (f : Lead → Lead) : State := { s with lead := f s.lead }

/-! ## State that the leader replicates (R332, R334)

The units after the first: four of the health map, then eleven with the restarts, 88 bits for each: a mark in bit 87, the partition in
[75:72], the phase in [65:64] and the step in [63:0] (log entry 26). -/

def State.healthUnits (s : State) : List W128 :=
  (List.range 4).map (fun i => BitVec.ofNat 128 ((List.range 128).foldl (fun a j =>
    if s.lead.unhealthy.contains (128 * i + j) then a else a + 2 ^ j) 0))

def Restart.bits (r : Restart) : Nat := 2 ^ 87 + r.part.val * 2 ^ 72 + r.phase.toNat * 2 ^ 64 + r.step.toNat

/-- Each partition has one restart at most, so that all fit. -/
def State.replUnits (s : State) : List W128 :=
  let v := (s.lead.restarts.take 16).foldr (fun r a => a * 2 ^ 88 + r.bits) 0
  s.healthUnits ++ (List.range 11).map (fun i => BitVec.ofNat 128 (v / 2 ^ (128 * i)))

/-- Modules that a health map marks unhealthy. -/
def unhealthyOf (l : List W128) : List Nat := (List.range 512).filter (fun i => !bitAt (l.getD (i / 128) 0) (i % 128))

/-- Restarts that replicated state names, without their members. -/
def restartsOf (l : List W128) : List Restart :=
  let v := (l.drop 4).foldr (fun u a => a * 2 ^ 128 + u.toNat) 0
  (List.range 16).filterMap (fun i =>
    let r := v / 2 ^ (88 * i)
    if r / 2 ^ 87 % 2 = 1 then some ⟨partOf (r / 2 ^ 72 % 16), BitVec.ofNat 64 r, BitVec.ofNat 2 (r / 2 ^ 64), false, [], [], []⟩ else none)

/-- Send the state to the replicas. With no other module to hold it, the leader acts at once. -/
def State.replicate (s : State) : State :=
  let s := s.modLead (fun l => { l with replSeq := l.replSeq + 1, replicaAcks := [] })
  let u := s.replUnits
  let m := recUnit 0x03 0 s.term 0 s.lead.replSeq :: (u ++ u.map (~~~ ·))
  s.replicas.foldl (fun s d => s.sendMsg 0 d m) s

/-! ## Messages of a restart (R328, R334) -/

def restartMsg (p : PartId) (term : Nat) (phase : BitVec 2) (reply : Bool) (c : W64) : W128 :=
  BitVec.ofNat 128 (c.toNat * 2 ^ 64 + term % 2 ^ 32 * 2 ^ 32 + p.val * 2 ^ 16 + b2n reply * 2 ^ 10 + phase.toNat * 2 ^ 8 + 7)

def State.modRestartOf (s : State) (p : PartId) (f : Restart → Restart) : State :=
  s.modLead (fun l => { l with restarts := l.restarts.map (fun r => if r.part = p then f r else r) })

/-- A member's reply reaches the leader: sent, or taken at once when this module leads. -/
def State.replyPhase (s : State) (p : PartId) (phase : BitVec 2) (c : W64) : State :=
  if s.leader = s.ownDev then
    s.modRestartOf p (fun r => if r.phase = phase then { r with replies := (r.replies ++ [s.ownDev]).eraseDups } else r)
  else s.sendMsg 0 s.leader [restartMsg p s.term phase true c]

/-- The plan and the group table that a warm reset kept are in state 2 again (R417). -/
def State.reloaded (s : State) (p : PartId) : Bool :=
  !(s.part p).planReq && !(s.part p).groupReq && s.dN (ckPlan p 3) % 2 == 0 && s.dN (ckColl p 3) % 2 == 0

/-- The partition's mapping needs a core ID that has been withdrawn (R330). -/
def State.unfit (s : State) (p : PartId) : Bool := s.withdrawn.any (fun c => s.mapBit p 3 c || s.mapBit p 7 c)

/-- The steps that a member reports to be valid: none where its mapping needs a withdrawn core, so that the job cannot restart with it (R328,
R330; log 67). -/
def State.validSteps (s : State) (p : PartId) : W64 × W64 :=
  if s.unfit p then (BitVec.allOnes 64, BitVec.allOnes 64) else (s.d (ckKey p 0x0D), s.d (ckKey p 0x0E))

/-- CKPT_STATUS of this module reaches the leader. -/
def State.sendStatus (s : State) (p : PartId) : State :=
  let v := s.validSteps p
  if s.leader = s.ownDev then s.modRestartOf p (fun r => { r with status := r.status.filter (fun e => e.1 != s.ownDev) ++ [(s.ownDev, v)] })
  else s.sendMsg 0 s.leader (s.ckptUnits p v.1 v.2)

/-- The module state of a partition is that of a restore to step c. -/
def State.restored (s : State) (p : PartId) (c : W64) : Bool := (s.part p).gate.step == c + 1 && s.d (stepCommittedKey p) == c

/-- A reply that can be sent: that of RESET once the tables are there again (R417), that of RESTORE once the copy is back. -/
def State.replyDue (s : State) (e : PartId × BitVec 2 × W64) : Bool :=
  if e.2.1 = 1 then s.unfit e.1 || s.reloaded e.1 else if e.2.1 = 2 then s.restored e.1 e.2.2 else true

/-- Send the replies that are due, once there is a leader. REJOINING clears when none is left (R335). -/
def State.sendReplies (s : State) : State :=
  if s.leader = 0xFFFF ∨ !s.board.sfUp then s
  else
    let due := s.lead.pendingReplies.filter s.replyDue
    let s := due.foldl (fun s e => if e.2.1 = 1 ∧ s.unfit e.1 then s.sendStatus e.1 else s.replyPhase e.1 e.2.1 e.2.2) s
    let s := s.modLead (fun l => { l with pendingReplies := l.pendingReplies.filter (fun e => !due.contains e) })
    if s.lead.leased && s.lead.pendingReplies.isEmpty then s.setDN rejoinKey 0 else s

/-- What a member does in a phase. Each phase is idempotent. -/
def State.memberPhase (s : State) (p : PartId) (phase : BitVec 2) (c : W64) : State :=
  if !s.configured p then s
  else match phase.toNat with
  | 0 =>
    let s := if s.hasRun p then (s.haltPart p).partReset p else s
    let s := s.modLead (fun l => { l with readied := l.readied.filter (fun e => e.1 != p) })
    s.sendStatus p
  | 1 =>
    if s.quar.isEmpty then (if s.unfit p then s.sendStatus p else s.replyPhase p 1 c)
    else (s.modLead (fun l => { l with pendingReplies := (l.pendingReplies ++ [(p, 1, c)]).eraseDups })).requestWarm 5
  | 2 =>
    match (s.part p).ckpt.restore with
    | some _ => s
    | none =>
      if s.restored p c then s.replyPhase p 2 c
      else (s.restoreStart p c (fun d => samePod d s.ownDev && s.lead.unhealthy.contains (podIdx d))).sendReplies
  | _ =>
    let s := if s.lead.readied.contains (p, c) then s
      else (s.modLead (fun l => { l with readied := l.readied ++ [(p, c)] })).postRecord p (mkRecord (c + 1) 0 0 3 0 0 false p 0) true none
    s.replyPhase p 3 c

/-! ## The leader's side -/

/-- Members of a job: the partition's vote group, or as it was when a reset ended it; those of a job that does not include this module are a
free value (log 67). -/
def State.jobDevs (s : State) (p : PartId) : List W16 :=
  if !(s.voteDevs p).isEmpty then s.voteDevs p
  else if !(s.part p).job.isEmpty then (s.part p).job
  else Config.jobMembers p s.term

/-- The job's lowest device ID lies in this pod (R331). -/
def State.leadsJob (s : State) (ds : List W16) : Bool :=
  match ds with
  | [] => false
  | d :: t => samePod (t.foldl (fun a b => if b.toNat < a.toNat then b else a) d) s.ownDev

/-- Send the phase of one restart to its members, this module included. -/
def State.sendPhase (s : State) (r : Restart) : State :=
  let s := s.modRestartOf r.part (fun r => { r with sent := true })
  let s := (r.devs.filter (· ≠ s.ownDev)).foldl (fun s d => s.sendMsg 0 d [restartMsg r.part s.term r.phase false r.step]) s
  if r.devs.contains s.ownDev then s.memberPhase r.part r.phase r.step else s

/-- Notices for each context of a module that is declared lost go to the vote groups it belongs to (R297, R333). -/
def State.lossOf (s : State) (d : W16) : State :=
  (allParts.filter (fun p => (s.jobDevs p).contains d)).foldl (fun s p =>
    let devs := s.jobDevs p
    allCores.foldl (fun s c => (s.sendLoss p devs d (BitVec.ofNat 8 c.val) false 0xFFFF).sendLoss p devs d (BitVec.ofNat 8 c.val) true 0xFFFF) s) s

/-- The leader reports to the companion that a job cannot restart with its mapping (R328). -/
def State.reportEnded (s : State) (p : PartId) : State :=
  let st : Byte := (Config.internalWord 4 s.free).setWidth 8
  ({ s with free := s.free + 1 }).postRecord p (mkRecord (BitVec.allOnes 64) 0 0 3 st 0 false p 0) true none

/-- The replicated state is with both replicas, one at least: losses are declared, jobs that cannot restart are reported, and phases not yet
sent are sent (R332, R333). -/
def State.actOn (s : State) : State :=
  if !s.leads ∨ s.replicas.isEmpty ∨ !(s.replicas.all (fun d => s.lead.replicaAcks.contains d)) then s
  else
    let ds := s.lead.declare
    let es := s.lead.ended
    let s := s.modLead (fun l => { l with declare := [], ended := [] })
    let s := es.foldl State.reportEnded (ds.foldl State.lossOf s)
    (s.lead.restarts.filter (fun r => !r.sent)).foldl State.sendPhase s

/-- Change the state, replicate it, and act when nothing has to be waited for. -/
def State.newState (s : State) (f : Lead → Lead) : State := ((s.modLead f).replicate).actOn

/-- Highest step valid on every member (R328). -/
def commonStep (st : List (W16 × W64 × W64)) (ds : List W16) : Option W64 :=
  let of (d : W16) : List W64 := match st.find? (fun e => e.1 == d) with
    | some (_, a, b) => [a, b].filter (· ≠ BitVec.allOnes 64)
    | none => []
  match ds with
  | [] => none
  | d :: _ => ((of d).filter (fun c => ds.all (fun e => (of e).contains c))).foldl (fun (a : Option W64) c => match a with
    | none => some c
    | some b => if b.toNat < c.toNat then some c else some b) none

/-- The job cannot restart with this mapping (R328): its restart ends, and the report leaves once the replicas know. -/
def State.cannotRestart (s : State) (p : PartId) : State :=
  s.newState (fun l => { l with restarts := l.restarts.filter (fun r => r.part != p), ended := (l.ended ++ [p]).eraseDups })

/-- A member is lost and holds no copy elsewhere, or has no step to restart from (R328). -/
def State.beyond (s : State) (r : Restart) : Bool :=
  r.devs.any (fun d => samePod d s.ownDev && s.lead.unhealthy.contains (podIdx d) && !Config.copyElsewhere d r.part) ||
    r.status.any (fun e => r.devs.contains e.1 && e.2.1 == BitVec.allOnes 64 && e.2.2 == BitVec.allOnes 64)

/-- A restart goes on when every member has answered, one that is lost but holds a copy elsewhere once it is back. -/
def State.advance (s : State) (r : Restart) : State :=
  let ds := r.devs
  let upd (f : Restart → Restart) : State :=
    s.newState (fun l => { l with restarts := l.restarts.map (fun x => if x.part = r.part then f x else x) })
  if !r.sent ∨ ds.isEmpty then s
  else if s.beyond r then s.cannotRestart r.part
  else if r.phase = 0 then
    if !(ds.all (fun d => r.status.any (fun e => e.1 == d))) then s
    else match commonStep r.status ds with
      | none => s.cannotRestart r.part
      | some c => upd (fun x => { x with phase := 1, step := c, sent := false, replies := [] })
  else if !(ds.all (fun d => r.replies.contains d)) then s
  else if r.phase = 3 then s.newState (fun l => { l with restarts := l.restarts.filter (fun x => x.part != r.part) })
  else upd (fun x => { x with phase := x.phase + 1, sent := false, replies := [] })

/-- A restart in its first phase, with a member's status where one has come. -/
def State.firstPhase (s : State) (p : PartId) (st : List (W16 × W64 × W64)) : Restart := ⟨p, 0, 0, false, [], st, s.jobDevs p⟩

/-- Partitions whose steps are void and whose job the leader leads: their restart begins (R328). -/
def State.beginRestarts (s : State) : State :=
  let ps := allParts.filter (fun p => (s.part p).gate.voidFrom.isSome && !(s.lead.restarts.any (fun r => r.part == p)) && s.leadsJob (s.jobDevs p))
  if ps.isEmpty then s
  else s.newState (fun l => { l with restarts := l.restarts ++ ps.map (fun p => s.firstPhase p []) })

/-- CKPT_STATUS of a job that does not include this module, and that it leads: its restart begins (log 67). -/
def State.beginOther (s : State) (p : PartId) (st : W16 × W64 × W64) : State :=
  if !s.leads ∨ s.lead.restarts.any (fun r => r.part == p) ∨ !(s.voteDevs p).isEmpty ∨ !(s.part p).job.isEmpty ∨ !s.leadsJob (s.jobDevs p) then s
  else s.newState (fun l => { l with restarts := l.restarts ++ [s.firstPhase p [st]] })

/-- The leader's work after anything that could move a restart on. -/
def State.leadStep (s : State) : State :=
  if !s.leads then s.sendReplies
  else
    let s := s.sendReplies.beginRestarts
    s.lead.restarts.foldl State.advance s

/-- A message of a lower term is ignored (R333). -/
def State.inTerm (s : State) (p : Packet) : Bool := decide (s.term ≤ msgTerm p)

/-- RESTART (R328): a phase at a member, or a reply at the leader. -/
def execRestart (p : Packet) (s : State) : Host.Outcome State Fault Refusal :=
  s.arrive p (isMsg p 0x07) (fun s =>
    let u := p.data.headD 0
    let part := msgPart p
    let phase : BitVec 2 := fld u 8 2
    if !s.inTerm p then s
    else if bitAt u 10 then
      (s.modRestartOf part (fun r => if r.phase = phase then { r with replies := (r.replies ++ [pSrc p.hdr]).eraseDups } else r)).leadStep.settle
    else
      let s := (s.setDN termKey (msgTerm p)).setDN leaderKey (pSrc p.hdr).toNat
      ((s.memberPhase part phase (msgField p)).sendReplies).settle)

/-- CKPT_STATUS (R328). -/
def execCkptStatus (p : Packet) (s : State) : Host.Outcome State Fault Refusal :=
  s.arrive p (isMsg p 0x06) (fun s =>
    let src := pSrc p.hdr
    let st : W16 × W64 × W64 := (src, msgField p, fld (p.data.getD 1 0) 0 64)
    if !s.inTerm p then s
    else ((s.modRestartOf (msgPart p) (fun r => { r with status := r.status.filter (fun e => e.1 != src) ++ [st] })).beginOther
      (msgPart p) st).leadStep.settle)

/-! ## Leases (R333) -/

/-- The role that a leader's health map gives this module. -/
def State.roleUnder (s : State) (ldr : W16) : Nat :=
  match s.replicasOf ldr with
  | [] => 0
  | [a] => if a = s.ownDev then 2 else 0
  | a :: b :: _ => if a = s.ownDev then 2 else if b = s.ownDev then 3 else 0

/-- LEASE. A module that holds a lease in this boot and finds itself marked lost does not answer: it is healthy again only after its next
warm or cold reset. -/
def execLease (p : Packet) (s : State) : Host.Outcome State Fault Refusal :=
  s.arrive p (isMsg p 0x01) (fun s =>
    let src := pSrc p.hdr
    if !s.inTerm p ∨ (s.leads ∧ msgTerm p = s.term) then s
    else
      let lost := unhealthyOf (p.data.drop 1)
      let mine := lost.contains (podIdx s.ownDev)
      let answer := !s.lead.stopped && (!mine || !s.lead.leased)
      let s := s.modLead (fun l => { l with
        unhealthy := lost
        leased := l.leased || answer
        stopped := l.stopped || (mine && l.leased)
        restarts := if s.leads then [] else l.restarts })
      let s := ((s.setDN termKey (msgTerm p)).setDN leaderKey src.toNat)
      let s := if answer then s.sendMsg 0 src [recUnit 0x02 0 s.term 0 0] else s
      let s := s.sendReplies
      let s := (s.lead.pendingReplies.filter (fun e => e.2.1 == 2)).foldl (fun s e => s.memberPhase e.1 2 e.2.2) s
      (s.setDN roleKey (if mine ∨ s.dN rejoinKey = 1 then 0 else s.roleUnder src)).settle)

/-- Modules are to be declared lost: the health map changes now, and the notices leave once the replicas know (R332, R333). -/
def Lead.lose (l : Lead) (ds : List W16) : Lead := { l with
  unhealthy := (l.unhealthy ++ ds.map podIdx).eraseDups
  missed := ds.foldl (fun m d => SMap.set (fun _ => 0) m (podIdx d) 0) l.missed
  declare := (l.declare ++ ds).eraseDups }

/-- Send LEASE to every module of the pod that can be reached (R436). -/
def State.sendLease (s : State) : State :=
  let ds := s.podOthers.filter (fun d => s.reaches d)
  let m := recUnit 0x01 0 s.term 0 0 :: s.healthUnits
  let s := s.modLead (fun l => { l with awaiting := ds })
  ds.foldl (fun s d => s.sendMsg 0 d m) s

/-- Leadership goes back to a lower healthy module once no restart is in progress (R333). -/
def State.handOver (s : State) : Bool :=
  s.lead.restarts.isEmpty && s.healthyIdx.any (fun i => decide (i < podIdx s.ownDev)) && s.lead.leased

/-- LEASE_SEND. State that a replica has not acknowledged is replicated again, as it is when a replica has discarded it (R325 kind 0x08). -/
def execLeaseSend (s : State) : Host.Outcome State Fault Refusal :=
  if !s.leads ∨ s.ownDev = 0xFFFF then .next s
  else
    let miss (d : W16) : Nat := SMap.get (fun _ => 0) s.lead.missed (podIdx d) + 1
    let lost := s.lead.awaiting.filter (fun d => s.reaches d && decide (3 ≤ miss d) && !s.lead.unhealthy.contains (podIdx d))
    let s := s.modLead (fun l => { l with missed := s.lead.awaiting.foldl (fun m d => SMap.set (fun _ => 0) m (podIdx d) (miss d)) l.missed })
    if s.handOver then .next ((s.setDN roleKey 0).setDN leaderKey 0xFFFF).settle
    else
      let s := if !lost.isEmpty then s.newState (fun l => l.lose lost)
        else if s.replicas.all (fun d => s.lead.replicaAcks.contains d) then s
        else s.replicate
      .next (s.sendLease.leadStep).settle

/-- LEASE_ACK. A module that answers is healthy. -/
def execLeaseAck (p : Packet) (s : State) : Host.Outcome State Fault Refusal :=
  s.arrive p (isMsg p 0x02) (fun s =>
    let d := pSrc p.hdr
    if !s.leads ∨ msgTerm p ≠ s.term then s
    else
      let f (l : Lead) : Lead := { l with
        awaiting := l.awaiting.filter (· ≠ d)
        missed := SMap.set (fun _ => 0) l.missed (podIdx d) 0
        unhealthy := l.unhealthy.filter (· ≠ podIdx d) }
      if s.lead.unhealthy.contains (podIdx d) then (s.newState f).settle else s.modLead f)

/-! ## Replicas (R332, R325 kind 0x08) -/

/-- A stored replica whose halves disagree is discarded, with a NOTE. -/
def State.replicaOk (s : State) : Bool := s.lead.replicaN == s.lead.replica.map (~~~ ·)
def State.dropReplica (s : State) : State := (s.modLead (fun l => { l with replica := [], replicaN := [] })).raiseMgmt 0 0x04 8

/-- REPL. -/
def execRepl (p : Packet) (s : State) : Host.Outcome State Fault Refusal :=
  s.arrive p (isMsg p 0x03) (fun s =>
    if !s.inTerm p then s
    else
      let l := p.data.drop 1
      let n := l.length / 2
      let s := ((s.setDN termKey (msgTerm p)).setDN leaderKey (pSrc p.hdr).toNat).modLead (fun k => { k with replica := l.take n, replicaN := l.drop n })
      if s.replicaOk then s.sendMsg 0 (pSrc p.hdr) [recUnit 0x04 0 s.term 0 (msgField p)] else s.dropReplica)

/-- REPL_ACK. -/
def execReplAck (p : Packet) (s : State) : Host.Outcome State Fault Refusal :=
  s.arrive p (isMsg p 0x04) (fun s =>
    if !s.leads ∨ msgTerm p ≠ s.term ∨ msgField p ≠ s.lead.replSeq then s
    else ((s.modLead (fun l => { l with replicaAcks := (l.replicaAcks ++ [pSrc p.hdr]).eraseDups })).actOn).settle)

/-! ## Lapses (R333) -/

/-- A restart through STOP of every job of the pod (R333). -/
def State.podJobs (s : State) : List Restart := (allParts.filter (fun p => s.leadsJob (s.jobDevs p))).map (fun p => s.firstPhase p [])

/-- A new term begins here, with the state replicated before it, or with none. -/
def State.startTerm (s : State) (withState : Bool) : State :=
  let old := s.leader
  let l := if withState then s.lead.replica else []
  let s := s.setDN termKey (s.term + 1)
  let s := s.modLead (fun k => { k with
    unhealthy := if l.isEmpty then k.unhealthy else unhealthyOf l
    restarts := if l.isEmpty then s.podJobs else (restartsOf l).map (fun r => { r with devs := s.jobDevs r.part })
    missed := [], awaiting := [], leased := true, declare := [], ended := [] })
  let s := (s.setDN leaderKey s.ownDev.toNat).setDN roleKey 1
  let lost := if old ≠ 0xFFFF ∧ old ≠ s.ownDev ∧ samePod old s.ownDev then [old] else []
  ((s.modLead (fun l => l.lose lost)).sendLease.newState id).leadStep

/-- LEASE_LAPSE: a replica starts a term, unless its copy fails its complement and is discarded; without one, the lowest healthy module
does. -/
def execLeaseLapse (s : State) : Host.Outcome State Fault Refusal :=
  let role := s.dN roleKey
  if role = 1 ∨ s.dN rejoinKey = 1 ∨ s.lead.stopped ∨ s.ownDev = 0xFFFF ∨ !s.board.sfUp then .next s
  else if role = 2 ∨ role = 3 then (if s.replicaOk then .next (s.startTerm true).settle else .next (s.dropReplica.setDN roleKey 0).settle)
  else if s.healthyIdx.all (fun i => decide (podIdx s.ownDev ≤ i) || (s.leader != 0xFFFF && i == podIdx s.leader)) then
    .next (s.startTerm false).settle
  else .next s

/-- LEADER_ACK_EXPIRY: a leader that has heard from no replica for 400 ms becomes a follower. -/
def execLeaderAckExpiry (s : State) : Host.Outcome State Fault Refusal :=
  if !s.leads then .next s
  else .next ((s.setDN roleKey 0).setDN leaderKey 0xFFFF)

/-! ## The watchdog of the service firmware (R335) -/

/-- Copies and restores of a partition are abandoned. -/
def State.abandonCopies (s : State) (p : PartId) : State :=
  let s := s.modPart p (fun q => { q with ckpt := { q.ckpt with
    copying := none, ranges := [], copied := none, queue := [], outst := 0, failed := false, restore := none } })
  let s := { s with reqs := s.reqs.filter (fun e => match e.2 with
    | some r => r.sink.ofPart != some p
    | none => false) }
  s.setDN (ckKey p 0x0F) 0

/-- SF_WATCHDOG_EXPIRY: `unhealthy` says that it is the third restart within ten minutes. A restore that it abandons has still to be replied
to, and begins again with the next LEASE. -/
def execSfWatchdogExpiry (unhealthy : Bool) (s : State) : Host.Outcome State Fault Refusal :=
  if !s.board.sfUp then .next s
  else
    let s := ((s.incD (dk 0x2530 5)).setDN rejoinKey 1).setDN roleKey 0
    let s := s.modLead (fun l => { l with leased := false, stopped := l.stopped || unhealthy })
    let ps := allParts.filter s.configured
    let s := (ps.filter s.hasRun).foldl (fun s p => s.voidPart p (s.oldestStep p) 0 true) s
    let open' := ps.filterMap (fun p => (s.part p).ckpt.restore.map (fun r => (p, (2 : BitVec 2), r.step)))
    let s := s.modLead (fun l => { l with pendingReplies := (l.pendingReplies ++ open').eraseDups })
    .next (ps.foldl State.abandonCopies s).settle

end Sys2Proof.Machine
end

