-- ==== Sys2Proof/Machine/Transfer.lean ====
section
/-!
DEFINITION. The transfer commands (R163, R171 to R173, R238 to R242), the synchronisation commands that send an operation or read an object
(R291, R292), XD, FENCE, and SYNCDUMP (R305).
-/
namespace Sys2Proof.Machine

/-! ## Address rules (Tables 7-5, 7-6, 7-10) -/

/-- An address of a space among `spaces`, wholly in that space (R16), aligned to `al`. -/
def xAddrOk (a : W64) (len al : Nat) (spaces : List Nat) : Bool :=
  aOff a % al == 0 && spaces.contains (aSpace a) && addrForm a len

/-- Two ranges of this module's memory overlap. -/
def xOverlap (a b : W64) (len : Nat) : Bool := overlaps (aKey a) (aKey a + len) (aKey b) (aKey b + len)

/-- The object that a PUTSIG signals: SOBJ on the device of DST. -/
def xSig (w : W256) : W64 := BitVec.ofNat 64 ((aDev (xDst w)).toNat * 2 ^ 48 + 2 * 2 ^ 44 + xSobj w)

/-- The source rule of Table 7-10. -/
def State.xSrcOk (s : State) (op : Nat) (w : W256) : Bool :=
  let a := xSrc w
  let n := xLen w
  match op with
  | 0x1C => true
  | 0x1A => xAddrOk a n 64 [0, 1] || (n == 64 && xAddrOk a n 64 [3, 4])
  | _ => xAddrOk a n 64 [0, 1] && s.isOwn a

/-- The destination rule of Table 7-10. -/
def State.xDstOk (s : State) (op : Nat) (w : W256) : Bool :=
  xAddrOk (xDst w) (xLen w) 64 [0, 1] && (op == 0x19 || op == 0x1B || s.isOwn (xDst w))

/-- A format X command keeps Table 7-5 and R171; PUTSIG's object is 8-byte aligned (R291). -/
def State.xOk (s : State) (op : Nat) (w : W256) : Bool :=
  decide (xLen w ≠ 0 ∧ xLen w % 64 = 0) && s.xSrcOk op w && s.xDstOk op w &&
    !(op == 0x18 && xOverlap (xSrc w) (xDst w) (xLen w)) && !(op == 0x1B && decide (xSobj w % 8 ≠ 0))

/-! ## Format X -/

/-- The poison that write packets carry. -/
def putPoison (ps : List (Packet × Sink)) : Bool := ps.any (fun e => pPsn e.1.hdr != 0 && !isHeader e.1)

/-- Send data to another module (R238), with the work that follows it. A refused source piece ends the command as an ERR would. -/
def State.putRemote (s : State) (i : Issued) (w : W256) (work : Work) : State :=
  if s.noPath (s.partD i.core i.ctx) (aDev (xDst w)) then s.work i stAddr
  else
    let (s, k, ps) := s.putPackets (s.partD i.core i.ctx) (if xBlk w then 2 else 0) (xLc w) (xSrc w) (xDst w) (xLen w)
    let s := s.modJob i.core i.ctx i.id (fun j => { j with
      work := work
      errs := if k = .ok then [] else [k.errCode]
      poison := putPoison ps })
    s.startReqs i (aDev (xDst w)) ps

/-- COPY, and the data of PUT, PUTSIG and GET within the module. -/
def State.moveCmd (s : State) (i : Issued) (w : W256) : State :=
  let m := s.move (Former.core i.core) (s.partD i.core i.ctx) (xSrc w) (xDst w) (xLen w)
  m.st.workChk i m.status

/-- PUTSIG within the module: the signal after the data, when all of it is written (R172). -/
def State.putsigLocal (s : State) (i : Issued) (w : W256) : State :=
  let p := s.partD i.core i.ctx
  let m := s.move (Former.core i.core) p (xSrc w) (xDst w) (xLen w)
  if m.chk ≠ .ok then m.st.workChk i m.status
  else
    let (s, k) := m.st.localSync p (xSig w) (s.issueOp i.core i.ctx .add 1)
    s.workChk i (if k ≠ .ok then k.status else m.status)

/-- GET of SPACE 0x3 or 0x4 of this module (R171): 64 bytes, ending with a merge. -/
def State.getMgt (s : State) (i : Issued) (w : W256) : State :=
  let p := s.partD i.core i.ctx
  match s.mgtRead p (xSrc w) 64 with
  | (s, .data l) =>
    match s.check p (xDst w) 64 with
    | .ok => (s.writeMerge (Former.core i.core) (aKey (xDst w)) l []).work i stOk
    | k => (s.refuse k).workChk i k.status
  | (s, r) => let (s, st) := s.mgtStatus r; s.workChk i st

/-- Packets of a GET: RDQ requests, or one MRD on TC-MGT (R238). -/
def State.getCmdPackets (s : State) (p : PartId) (w : W256) : List (Packet × Sink) :=
  if aSpace (xSrc w) ≤ 1 then s.getPackets p (if xBlk w then 2 else 0) (xLc w) (xSrc w) (xDst w) (xLen w)
  else [(s.reqPkt p 0x10 4 0 0 (xLc w) (xSrc w) [], Sink.mem (aKey (xDst w)) 4)]

/-- A format X command, by opcode (R171, R172). -/
def State.xCmd (op : Nat) (w : W256) (i : Issued) (s : State) : State :=
  if !s.xOk op w then s.done i stDesc
  else
    let p := s.partD i.core i.ctx
    match op with
    | 0x18 => s.moveCmd i w
    | 0x19 => if s.isOwn (xDst w) then s.moveCmd i w else s.putRemote i w .none
    | 0x1A =>
      if s.isOwn (xSrc w) then (if aSpace (xSrc w) ≤ 1 then s.moveCmd i w else s.getMgt i w)
      else s.startReqs i (aDev (xSrc w)) (s.getCmdPackets p w)
    | 0x1B =>
      if s.isOwn (xDst w) then s.putsigLocal i w
      else s.putRemote i w (.signal (xSig w) (s.issueOp i.core i.ctx .add 1).data (!xBlk w))
    | _ =>
      let m := s.fillMove (Former.core i.core) p (xSrc w) (xDst w) (xLen w)
      m.st.workChk i m.status

/-- A format X command enters the engine. -/
def xStart (op : Nat) (w : W256) (i : Issued) (s : State) : State := s.enter i w (State.xCmd op w)

/-- COPY (R171). -/
def execCopy (sl : Slot) (w : W256) (s : State) : Host.Outcome State Fault Refusal := s.dispatch sl w 0x18 (xStart 0x18 w)
/-- PUT (R171, R238). -/
def execPut (sl : Slot) (w : W256) (s : State) : Host.Outcome State Fault Refusal := s.dispatch sl w 0x19 (xStart 0x19 w)
/-- GET (R171, R238). -/
def execGet (sl : Slot) (w : W256) (s : State) : Host.Outcome State Fault Refusal := s.dispatch sl w 0x1A (xStart 0x1A w)
/-- PUTSIG (R172). -/
def execPutsig (sl : Slot) (w : W256) (s : State) : Host.Outcome State Fault Refusal := s.dispatch sl w 0x1B (xStart 0x1B w)
/-- FILL (R171). -/
def execFill (sl : Slot) (w : W256) (s : State) : Host.Outcome State Fault Refusal := s.dispatch sl w 0x1C (xStart 0x1C w)

/-! ## XD (R163) -/

/-- Reserved bits of format X in a stored command: one event (R5). -/
def State.xdRsv (s : State) (i : Issued) (v : W256) : State :=
  if v.toNat &&& (rsvMask 0x18 - rsvHead) = 0 then s
  else s.modCtx i.core i.ctx (fun k => { k with rsvcnt := k.rsvcnt + 1 })

/-- Execute a stored command: of its header only OP counts. -/
def State.xdCmd (v : W256) (i : Issued) (s : State) : State :=
  let op := (cOp v).toNat
  if !isXop op then s.done i stDesc else (s.xdRsv i v).xCmd op v i

/-- XD (R163). -/
def execXd (sl : Slot) (w : W256) (s : State) : Host.Outcome State Fault Refusal :=
  let doff := match srcStream sl.src with
    | some st => descOff (s.stream sl.core st) w
    | none => ((s.core sl.core).dq.next.map (·.desc)).getD 0
  let v := s.xdWord sl.core sl.src doff
  s.dispatch sl w 0x16 (withDesc 0x16 (fun i s => s.enter i v (State.xdCmd v)))

/-! ## FENCE (R172) -/

/-- FENCE: it issues at once, and holds back later transfer commands of its scope until the earlier ones have completed. -/
def execFence (sl : Slot) (w : W256) (s : State) : Host.Outcome State Fault Refusal :=
  s.dispatch sl w 0x1E (fun i s =>
    s.modCtx i.core i.ctx (fun k => { k with fences := k.fences ++ [(i.id, if cScope w then none else srcStream i.src)] }))

/-! ## PUTI (Table 7-6) -/

/-- PUTI within the module. -/
def State.putiLocal (s : State) (i : Issued) (a : W64) (l : List Byte) : State :=
  let p := s.partD i.core i.ctx
  if aSpace a ≤ 1 then
    match s.check p a 16 with
    | .ok => (s.writeMerge (Former.core i.core) (aKey a) l []).work i stOk
    | k => (s.refuse k).workChk i k.status
  else
    let (s, r) := s.mgtWrite p a l
    let (s, st) := s.mgtStatus r
    s.workChk i st

/-- The packet of a PUTI: WR on TC-ORD, or MWR on TC-MGT (R238). -/
def State.putiPkt (s : State) (p : PartId) (w : W256) : Packet :=
  if aSpace (iDst w) ≤ 1 then s.reqPkt p 0x01 0 0 0 false (iDst w) [iData w] else s.reqPkt p 0x11 4 0 0 false (iDst w) [iData w]

/-- Work of a PUTI (R171). -/
def State.putiCmd (w : W256) (i : Issued) (s : State) : State :=
  if !xAddrOk (iDst w) 16 16 [0, 1, 3, 4] then s.done i stDesc
  else if s.isOwn (iDst w) then s.putiLocal i (iDst w) (leBytes 16 (iData w).toNat)
  else s.startReqs i (aDev (iDst w)) [(s.putiPkt (s.partD i.core i.ctx) w, Sink.ack)]

/-- PUTI (R171). -/
def execPuti (sl : Slot) (w : W256) (s : State) : Host.Outcome State Fault Refusal :=
  s.dispatch sl w 0x1F (fun i s => s.enter i w (State.putiCmd w))

/-! ## Synchronisation commands (R291, R292) -/

/-- Send an operation to an object, here or at another module. -/
def State.syncCmd (s : State) (i : Issued) (w : W256) (kind : SyncKind) (v : BitVec 48) : State :=
  let a := sObj w
  if !xAddrOk a 8 8 [2] then s.done i stDesc
  else
    let o := s.issueOp i.core i.ctx kind v
    let p := s.partD i.core i.ctx
    if s.isOwn a then
      let (s, k) := s.localSync p a o
      s.workChk i k.status
    else s.startReqs i (aDev a) [(s.syncPkt p o a, Sink.ack)]

/-- Work of a SIGNAL and of a SYNCADD. -/
def State.signalCmd (w : W256) (i : Issued) (s : State) : State := s.syncCmd i w .add 1
def State.syncaddCmd (w : W256) (i : Issued) (s : State) : State := s.syncCmd i w .add (fld (sVal w) 0 48)

/-- SIGNAL: adds 1. -/
def execSignal (sl : Slot) (w : W256) (s : State) : Host.Outcome State Fault Refusal :=
  s.dispatch sl w 0x20 (fun i s => s.enter i w (State.signalCmd w))

/-- SYNCADD: adds VAL[47:0]. -/
def execSyncadd (sl : Slot) (w : W256) (s : State) : Host.Outcome State Fault Refusal :=
  s.dispatch sl w 0x21 (fun i s => s.enter i w (State.syncaddCmd w))

/-- The three rows of SYNCSET act by the set mode of the command; mode 0b11 is a descriptor error (R291). -/
def State.syncsetCmd (w : W256) (i : Issued) (s : State) : State :=
  match setKind (sCond w) with
  | none => s.done i stDesc
  | some k => s.syncCmd i w k (fld (sVal w) 0 48)

/-- SYNCSET, mode 0b00. -/
def execSyncset (sl : Slot) (w : W256) (s : State) : Host.Outcome State Fault Refusal := s.dispatch sl w 0x22 (fun i s => s.enter i w (State.syncsetCmd w))
/-- SYNCSET, mode 0b01: claim. -/
def execSyncsetClaim (sl : Slot) (w : W256) (s : State) : Host.Outcome State Fault Refusal := s.dispatch sl w 0x22 (fun i s => s.enter i w (State.syncsetCmd w))
/-- SYNCSET, mode 0b10: release. -/
def execSyncsetRelease (sl : Slot) (w : W256) (s : State) : Host.Outcome State Fault Refusal := s.dispatch sl w 0x22 (fun i s => s.enter i w (State.syncsetCmd w))

/-- SYNCREAD within the module: the object word is written to core memory, ending with a merge. -/
def State.syncreadLocal (s : State) (i : Issued) (a : W64) (off : Nat) : State :=
  let p := s.partD i.core i.ctx
  match s.check p a 8 with
  | .ok =>
    let (s, v) := s.readObj (coreOf (aOff a / 2 ^ 15)) (aOff a % 2 ^ 15 / 8)
    (s.writeMerge (Former.core i.core) (ckey i.core off) (leBytes 8 v.toNat) []).work i stOk
  | k => (s.refuse k).workChk i k.status

/-- Work of a SYNCREAD (R291). -/
def State.syncreadCmd (w : W256) (i : Issued) (s : State) : State :=
  let a := sObj w
  let off := sAddr w
  let p := s.partD i.core i.ctx
  if !xAddrOk a 8 8 [2] ∨ off % 8 ≠ 0 then s.done i stDesc
  else match s.check p (coreAddr i.core off) 8 with
    | .ok =>
      if s.isOwn a then s.syncreadLocal i a off
      else (s.modJob i.core i.ctx i.id (fun j => { j with work := .syncread off })).startReqs i (aDev a)
        [(s.reqPkt p 0x02 0 0 0 false a [], Sink.mem (ckey i.core off) 1)]
    | k => (s.refuse k).workChk i k.status

/-- SYNCREAD (R291). -/
def execSyncread (sl : Slot) (w : W256) (s : State) : Host.Outcome State Fault Refusal :=
  s.dispatch sl w 0x24 (fun i s => s.enter i w (State.syncreadCmd w))

/-! ## Commands that waited in the engine's queue (R173) -/

/-- A command starts at the transfer engine, by opcode; `v` is the command it executes. -/
def State.startCmd (op : Nat) (v : W256) (i : Issued) (s : State) : State :=
  match op with
  | 0x12 => s.rqCmd v i
  | 0x16 => s.xdCmd v i
  | 0x1F => s.putiCmd v i
  | 0x20 => s.signalCmd v i
  | 0x21 => s.syncaddCmd v i
  | 0x22 => s.syncsetCmd v i
  | 0x24 => s.syncreadCmd v i
  | 0x28 => s.stwriteCmd v i
  | 0x29 => s.streadCmd v i
  | op => s.xCmd op v i

/-- The next command of a context's queue starts, where fewer than 16 are in progress. -/
def State.startNext (s : State) (c : CoreId) (x : CtxId) : Option State :=
  let k := s.ctx c x
  match k.jobs.find? Job.isQueued with
  | none => none
  | some j =>
    if k.suspended ∨ 16 ≤ k.moving j.id then none
    else match j.work with
      | .queued v doff => some ((s.modJob c x j.id (fun j => { j with work := .none })).startCmd j.op.toNat v
          { s.asIssued c x j.id with
            doff := doff
            w := v })
      | _ => none

def startGo (c : CoreId) (x : CtxId) : Nat → State → State
  | 0, s => s
  | n + 1, s => match s.startNext c x with
    | some s => startGo c x n s
    | none => s

/-- Queued commands of a context start as far as they can. -/
def State.startQueued (s : State) (c : CoreId) (x : CtxId) : State := startGo c x (cnt Job.isQueued (s.ctx c x).jobs) s

/-! ## SYNCDUMP (R305 to R307) -/

def sdAddr (d : BitVec 512) : W64 := fld d 448 64
def sdSize (d : BitVec 512) : Nat := fldN d 416 32

/-- Reserved bits of the SYNCDUMP descriptor: one event (R5). -/
def State.sdRsv (s : State) (i : Issued) (d : BitVec 512) : State :=
  if fldN d 2 414 = 0 then s else s.modCtx i.core i.ctx (fun k => { k with rsvcnt := k.rsvcnt + 1 })

/-- SYNCDUMP (R305). -/
def execSyncdump (sl : Slot) (w : W256) (s : State) : Host.Outcome State Fault Refusal :=
  s.dispatch sl w 0x17 (withDesc 0x17 (fun i s =>
    let d := BitVec.ofNat 512 (s.coreWord i.core i.doff 64)
    let s := s.sdRsv i d
    if !s.reportOk (s.partD i.core i.ctx) (sdAddr d) 1 then s.done i stDesc
    else (s.syncDump i.core i.ctx (aKey (sdAddr d)) (sdSize d) (bitAt d 1) (bitAt d 0) false).work i stOk))

end Sys2Proof.Machine
end

