-- ==== Sys2Proof/Machine/VecRun.lean ====
section
/-!
DEFINITION. Vector commands (R129 to R137, R149 to R153): the descriptor and its refusals, input tiles, the rows of a tile, output tiles,
row state and tile records.
-/
namespace Sys2Proof.Machine

/-! ## Refusals (R134) -/

def inFmtOk (f : Nat) : Bool := decide (f ≤ 4) || f == 8 || f == 9 || f == 10
def outFmtOk (f : Nat) : Bool := decide (f ≤ 2) || f == 5 || f == 6
/-- Element format of a strided stream (R132). -/
def strFmt (f : Nat) : Fmt := if f = 0 then fp32 else if f = 1 then bf16 else if f = 2 then fp16 else if f = 3 then e4m3 else e5m2

/-- IN0 reads the tensor engine's results (R149, R150). -/
def vdFromTensor (d : BitVec 1024) : Bool := vsEn (vdStream d 0) && decide (9 ≤ vsFmt (vdStream d 0))

/-- Column extent of tile t for memory inputs (R132). -/
def vdCols (d : BitVec 1024) (t : Nat) : Nat := if t + 1 = vdNt d then vdN d else 128

/-- A word of memory that an image's header starts at, in tile t. -/
def vsTile (v : W128) (t : Nat) : W64 := vsAddr v + BitVec.ofNat 64 (t * vsTstep v)

/-- The element size, or the alignment of an image. -/
def vsAlign (v : W128) : Nat := if 5 ≤ vsFmt v then 64 else srcBytes (vsFmt v)

/-- Addresses of a stream's tiles are aligned (R134). -/
def vsAligned (d : BitVec 1024) (v : W128) : Bool :=
  decide (aOff (vsAddr v) % vsAlign v = 0) && (decide (vdNt d = 1) || decide (vsTstep v % vsAlign v = 0))

/-- Bytes of input tile t from its address; what the tensor engine's extents decide is left to the tile. -/
def vdInLen (d : BitVec 1024) (v : W128) (t : Nat) : Nat :=
  if vsFmt v = 8 then 64
  else if vdFromTensor d then srcBytes (vsFmt v)
  else (vdM d - 1) * vsStride v + vdCols d t * srcBytes (vsFmt v)

/-- The input streams that lie in memory. -/
def vdMemIns (d : BitVec 1024) : List W128 := ([0, 1].map (vdStream d)).filter (fun v => vsEn v && decide (vsFmt v ≤ 8))
def vdOuts (d : BitVec 1024) : List W128 := ([2, 3].map (vdStream d)).filter vsEn

/-- The addresses of a descriptor besides its streams: address, length, alignment. -/
def vdFixed (d : BitVec 1024) : List (W64 × Nat × Nat) :=
  [(vdProg d, 4 * vdLen d, 4), (vdConst d, 128, 4)] ++ (if vdRsi d || vdRso d then [(vdRowst d, 2048, 64)] else []) ++
    (if vdTrec d ≠ 0 then [(vdTrec d, 16 * vdNt d, 16)] else [])

/-- Refusals that the descriptor alone decides (items 1 to 4). -/
def State.vdBad (s : State) (c : CoreId) (d : BitVec 1024) : Bool :=
  [0, 1].any (fun k => vsEn (vdStream d k) && !inFmtOk (vsFmt (vdStream d k))) ||
    (vdOuts d).any (fun v => !outFmtOk (vsFmt v)) ||
    (vsEn (vdStream d 1) && decide (9 ≤ vsFmt (vdStream d 1))) ||
    (vdFixed d).any (fun e => !s.inOwnCore c e.1 e.2.1 || decide (aOff e.1 % e.2.2 ≠ 0)) ||
    (vdMemIns d).any (fun v => !vsAligned d v ||
      (List.range (vdNt d)).any (fun t => !s.inOwnCore c (vsTile v t) (vdInLen d v t))) ||
    (vdOuts d).any (fun v => !vsAligned d v ||
      (List.range (vdNt d)).any (fun t => !s.inOwnCore c (vsTile v t) (outBytes v)))

/-- Keys of the image tiles of the inputs. -/
def vdImages (d : BitVec 1024) : List Nat :=
  ((vdMemIns d).filter (fun v => vsFmt v == 8)).flatMap (fun v => (List.range (vdNt d)).map (fun t => aKey (vsTile v t)))

/-- Input images that are refused (items 3 and 5). -/
def State.vdImgBad (s : State) (c : CoreId) (d : BitVec 1024) : Bool :=
  (vdImages d).any (fun k => imgBad (s.mem.imgHdr k) || !keysInCore c [(k, s.mem.imgLen k (s.mem.imgHdr k))])

/-- Enabled streams: IN0, IN1, OUT0, OUT1. -/
def vdEn (d : BitVec 1024) : BitVec 4 :=
  BitVec.ofNat 4 (b2n (vsEn (vdStream d 0)) + 2 * b2n (vsEn (vdStream d 1)) + 4 * b2n (vsEn (vdStream d 2)) + 8 * b2n (vsEn (vdStream d 3)))

/-- Nonzero reserved bits of a descriptor are one event, and each reserved rounding another (R5, R30; log entry 44). -/
def vdEvents (d : BitVec 1024) : Nat :=
  b2n (fldN d 0 96 != 0 || [0, 1].any (fun k => fldN (vdStream d k) 0 11 != 0) || [2, 3].any (fun k => fldN (vdStream d k) 0 7 != 0)) + ((vdOuts d).filter (fun v => (rndIeee (vsRnd v)).2)).length

/-! ## Start of a command (R135, R153) -/

/-- Words of memory as a list. -/
def Mem.words32 (m : Mem) (k n : Nat) : List W32 := (elemsLe 4 n (m.bytes k (4 * n))).map (BitVec.ofNat 32)

/-- The program of a descriptor: the one loaded, when it has the same address and length (R153). -/
def State.vecProgram (s : State) (c : CoreId) (x : CtxId) (d : BitVec 1024) : List W32 :=
  let fresh := s.mem.words32 (aKey (vdProg d)) (vdLen d)
  match (s.ctx c x).vprog with
  | some (a, l) => if a = vdProg d ∧ l.length = vdLen d then l else fresh
  | none => fresh

/-- Marks of the row state, one unit of four rows at a time (R151). -/
def Mem.rowMarks (m : Mem) (k : Nat) : SMap Bool :=
  SMap.entries (fun _ => false) 0 ((List.range 512).map (fun i => m.unitPoison (k / 64 + i / 16)))

/-- Registers at the start of a command (R135). -/
def State.progStart (s : State) (d : BitVec 1024) : Prog :=
  { Prog.reset with
    c := SMap.entries zero32 0 (s.mem.words32 (aKey (vdConst d)) 32)
    a := if vdRsi d then SMap.entries zero32 0 (s.mem.words32 (aKey (vdRowst d)) 512) else []
    pa := if vdRsi d then s.mem.rowMarks (aKey (vdRowst d)) else [] }

def vdPos (d : BitVec 1024) (step sr : W64) : VecPos :=
  let o0 := vdStream d 2
  let o1 := vdStream d 3
  { VecPos.reset with
    row0 := vdRow0 d
    col0 := vdCol0 d
    step := step
    sr := sr
    en := vdEn d
    rnd0 := vsRnd o0
    rnd1 := vsRnd o1
    ovf0 := vsOvf o0
    ovf1 := vsOvf o1
    fmt0 := BitVec.ofNat 4 (vsFmt o0)
    fmt1 := BitVec.ofNat 4 (vsFmt o1)
    tensor0 := vdTensor0 d
    tensor1 := vdTensor1 d }

/-- A vector engine command leaves the engine with a status. -/
def State.vecLeave (s : State) (c : CoreId) (x : CtxId) (id : Nat) (status : Byte) : State :=
  (s.modCtx c x (fun k => { k with vecq := k.vecq.filter (fun j => j.id ≠ id) })).setStatus c x id status

/-- A refused descriptor (R134). -/
def State.vecRefuse (s : State) (c : CoreId) (x : CtxId) (id : Nat) : State := (s.modCtx c x Ctx.vecRefuse).vecLeave c x id stDesc

/-- A refused access (R19, R322). -/
def State.vecDenied (s : State) (c : CoreId) (x : CtxId) (j : VecJob) (k : Chk) : State :=
  (if k = .part then (s.refuse k).partFault c x j.step else s.refuse k).vecLeave c x j.id k.status

def State.modVec (s : State) (c : CoreId) (x : CtxId) (id : Nat) (f : VecJob → VecJob) : State :=
  s.modCtx c x (fun k => { k with vecq := k.vecq.map (fun j => if j.id = id then f j else j) })

/-- Ranges a command reads before its first tile. -/
def vdLoads (d : BitVec 1024) : List (Nat × Nat) :=
  [(aKey (vdProg d), 4 * vdLen d), (aKey (vdConst d), 128)] ++ (if vdRsi d then [(aKey (vdRowst d), 2048)] else []) ++
    (vdImages d).map (fun k => (k, 64))

/-- Load what a command needs, or refuse it (R134, R135, R153). -/
def State.vecStart (s : State) (c : CoreId) (x : CtxId) (j : VecJob) : State :=
  let d := j.desc
  let s := s.modCtx c x (fun k => { k with vec := { k.vec with rsvcnt := k.vec.rsvcnt + BitVec.ofNat 32 (vdEvents d) } })
  if s.vdBad c d then s.vecRefuse c x j.id
  else
    let p := s.partD c x
    let k := s.checkKeys p (vdLoads d)
    if k ≠ .ok then s.vecDenied c x j k
    else if s.vdImgBad c d then s.vecRefuse c x j.id
    else
      let words := s.vecProgram c x d
      if words.any (fun w => !elemOk (eOp w) w (vdEn d)) then s.vecRefuse c x j.id
      else
        let pr := s.progStart d
        let q := vdPos d j.step (s.seeds p j.step).1
        (s.modCtx c x (fun k => { k with vprog := some (vdProg d, words), prog := pr, pos := q })).modVec c x j.id
          (fun j => { j with started := true })

/-! ## Input tiles (R132, R149 to R151) -/

/-- An input tile: its extents, its lines by rows, whether it is bad, and its tile record where it has one. -/
structure VecIn where
  rows : Nat
  cols : Nat
  lines : List (List (W32 × Flags))
  bad : Bool
  deriving DecidableEq, Repr

/-- Tile record (R149). -/
def trecWord (t : FTile) : W128 :=
  BitVec.ofNat 128 (b2n t.poisoned * 2 ^ 60 + t.nM1.toNat * 2 ^ 53 + t.mM1.toNat * 2 ^ 46 + t.rung.toNat * 2 ^ 44 +
    t.layer.toNat * 2 ^ 32 + t.tag.toNat)

/-- A tile of the tensor engine as an input. -/
def accIn (acc : List W32) (mM1 nM1 : BitVec 7) (bad : Bool) : VecIn :=
  let rows := mM1.toNat + 1
  let cols := nM1.toNat + 1
  let ls := rowsOf 128 128 acc
  ⟨rows, cols, padTile rows cols (fun i j => ((ls.getD i []).getD j 0, {})), bad⟩

/-- Take the first tile of a context from the queue. -/
def takeTile (x : CtxId) : List FTile → Option (FTile × List FTile)
  | [] => none
  | t :: l => if t.ctx = x then some (t, l) else (takeTile x l).map (fun r => (r.1, t :: r.2))

/-- The next finished tile of a context (R149): from the queue, or directly from a bank that waits for room in it. -/
def State.nextTile (s : State) (c : CoreId) (x : CtxId) : Option (State × FTile) :=
  match takeTile x (s.core c).ftq with
  | some (t, l) => some (s.modCore c (fun k => { k with ftq := l }), t)
  | none =>
    match (s.ctx c x).tenq.find? (fun o => o.stage == .finished && !tdHold o.desc) with
    | some op =>
      if (s.core c).ftq.length < 32 then none
      else some ((s.tenLeave c x op).modCtx c x (fun k => { k with vec := { k.vec with accreads := k.vec.accreads + 1 } }), op.tile x)
    | none => none

/-- IN0 from the tensor engine; none while the command waits. -/
def State.tensorIn (s : State) (c : CoreId) (x : CtxId) (j : VecJob) : Option (State × VecIn) :=
  let d := j.desc
  if vsFmt (vdStream d 0) = 9 then
    match s.nextTile c x with
    | none => none
    | some (s, t) =>
      let s := if vdTrec d = 0 then s
        else s.writeMerge (Former.core c) (aKey (vdTrec d) + 16 * j.tile) (leBytes 16 (trecWord t).toNat) []
      some (s, accIn t.acc t.mM1 t.nM1 t.poisoned)
  else
    match (s.ctx c x).exposed with
    | [] => none
    | e :: l => some (s.modCtx c x (fun k => { k with exposed := l }), accIn e.acc e.mM1 e.nM1 e.poisoned)

/-- Ranges of rows `r` to `r + rows - 1` of a memory input tile: positions outside the extents are not fetched (R132). -/
def Mem.vecRows (m : Mem) (v : W128) (key r rows cols : Nat) : List (Nat × Nat) :=
  if vsFmt v = 8 then
    let h := m.imgHdr key
    if ihOri h = 2 then m.imgRanges key h (List.range cols) r rows
    else m.imgRanges key h ((List.range rows).map (· + r)) 0 cols
  else rowRanges (key + r * vsStride v) (vsStride v) (cols * srcBytes (vsFmt v)) rows

/-- Ranges of a memory input tile. -/
def Mem.vecRanges (m : Mem) (v : W128) (key rows cols : Nat) : List (Nat × Nat) := m.vecRows v key 0 rows cols

/-- The lines of a memory input tile, widened, with +0 outside the extents and the exceptions that widening each element raises (R132, R139).
A signalling NaN of an FP32 stream is taken as it stands and raises invalid (log entry 88). -/
def Mem.vecLines (m : Mem) (v : W128) (key rows cols : Nat) : List (List (W32 × Flags)) :=
  if vsFmt v = 8 then m.imgTile key rows cols (m.imgHdr key)
  else
    let t := m.srcElems ⟨vsFmt v, key, vsStride v, 0, rows, cols⟩
    if vsFmt v = 0 then t.map (fun l => l.map (fun e => (e.1, { inv := (up e.1).isSnan }))) else t

/-- Tile t of an output stream. -/
def outTile (v : W128) (t : Nat) : Nat × Nat := (aKey (vsTile v t), outBytes v)

/-- Two ranges share a byte. -/
def rangesMeet (a b : Nat × Nat) : Bool := overlaps a.1 (a.1 + a.2) b.1 (b.1 + b.2)

/-- Whether tile t of a memory input overlaps what the command writes, so that its rows are read one by one (R129). -/
def vdOverlap (d : BitVec 1024) (rs : List (Nat × Nat)) (t : Nat) : Bool := (vdOuts d).any (fun v => rs.any (rangesMeet (outTile v t)))

/-- Whether the two outputs overlap in tile t. -/
def vdOutsMeet (d : BitVec 1024) (t : Nat) : Bool :=
  vsEn (vdStream d 2) && vsEn (vdStream d 3) && rangesMeet (outTile (vdStream d 2) t) (outTile (vdStream d 3) t)

/-! ## Output rows (R133, R151) -/

/-- Parameters of an FP8 output image. -/
def outCtl (d : BitVec 1024) (v : W128) (tensor : W32) (t : Nat) (step : W64) (seeds : W64 × W64) : QCtl :=
  { qctl (plainQpw (vsFmt v)) false false (vdRow0 d) (vdCol0 d + BitVec.ofNat 32 (128 * t)) step seeds with
    rnd := vsRnd v, ovf := vsOvf v, tensor := tensor }

/-- What an output tile has so far: its rows with their poison, and the scales and trouble record of an FP8 image. -/
structure OutAcc where
  rows : List (List Byte × Bool) := []
  scales : List Byte := []
  tr : Trouble := {}
  fl : Flags := {}
  deriving DecidableEq, Repr

/-- Add row r of an output tile from its lane values. -/
def OutAcc.row (a : OutAcc) (p : QCtl) (v : W128) (r : Nat) (vals : List W32) (bad : Bool) : OutAcc :=
  if 5 ≤ vsFmt v then
    let (ln, tr, fl, _) := p.line r 0 vals
    ⟨a.rows ++ [(ln.codes.map (BitVec.ofNat 8), bad)], a.scales ++ leBytes 4 (pow2w ln.e).toNat, a.tr.add tr, a.fl.or fl⟩
  else { a with rows := a.rows ++ [(vals.flatMap (fun x => leBytes (srcBytes (vsFmt v)) x.toNat), bad)] }

/-- Poison flags of the units of consecutive rows of `w` bytes from `k`: a unit that a flagged row touches is flagged. -/
def rowFlags (k w : Nat) (ps : List Bool) : List Bool :=
  (unitsOf k (w * ps.length)).map (fun u =>
    ((List.range ps.length).zip ps).any (fun e => e.2 && overlaps (k + e.1 * w) (k + e.1 * w + w) (64 * u) (64 * u + 64)))

/-- A row of an output tile goes to memory at once, with its poison (R129, R151). -/
def State.rowOut (s : State) (v : W128) (key r : Nat) (bad : Bool) (scale : List Byte) (row : List Byte × Bool) : State :=
  if 5 ≤ vsFmt v then
    (s.writeMem (key + 576 + 128 * r) row.1 (rowFlags (key + 576 + 128 * r) 128 [row.2])).writeMem (key + 64 + 4 * r) scale [bad]
  else s.writeMem (key + r * vsStride v) row.1 (rowFlags (key + r * vsStride v) row.1.length [row.2])

/-- End of an output tile whose executed rows are in memory already: the rows that were not executed, the header, and fresh check values. -/
def State.outRest (s : State) (c : CoreId) (p : QCtl) (v : W128) (key rows cols : Nat) (bad : Bool) (a : OutAcc) : State × Flags :=
  let f := Former.core c
  let s := (List.range (128 - rows)).foldl (fun (s : State) i =>
    s.rowOut v key (rows + i) bad ((a.scales.drop (4 * (rows + i))).take 4) (a.rows.getD (rows + i) ([], bad))) s
  if 5 ≤ vsFmt v then
    let s := s.writeMem key (leBytes 64 (p.header (plainQpw (vsFmt v)) (rows - 1) (cols - 1) a.tr).toNat) [bad]
    (s.freshHeaders f key (outBytes v), a.fl)
  else (s.freshRanges f (rowRanges key (vsStride v) (128 * srcBytes (vsFmt v)) 128), a.fl)

/-- End of an output tile: rows that were not executed are +0, and the tile has been written whole, with fresh check values (R133). Where
streams overlap (`olap`) its executed rows were written one by one; else it is written now. -/
def State.outEnd (s : State) (c : CoreId) (p : QCtl) (v : W128) (key rows cols : Nat) (bad olap : Bool) (a : OutAcc) : State × Flags :=
  let a := (List.range (128 - rows)).foldl (fun a i => a.row p v (rows + i) (List.replicate 128 0) bad) a
  if olap then s.outRest c p v key rows cols bad a
  else
  let f := Former.core c
  let bytes := a.rows.flatMap (·.1)
  let ps := a.rows.map (·.2)
  if 5 ≤ vsFmt v then
    let h := p.header (plainQpw (vsFmt v)) (rows - 1) (cols - 1) a.tr
    (s.writeFresh f key (leBytes 64 h.toNat ++ a.scales ++ bytes) (List.replicate 9 bad ++ rowFlags (key + 576) 128 ps), a.fl)
  else
    let w := 128 * srcBytes (vsFmt v)
    if vsStride v = w then (s.writeFresh f key bytes (rowFlags key w ps), a.fl)
    else
      let s := ((List.range 128).zip a.rows).foldl (fun s e =>
        s.writeMem (key + e.1 * vsStride v) e.2.1 (rowFlags (key + e.1 * vsStride v) w [e.2.2])) s
      (s.freshRanges f (rowRanges key (vsStride v) w 128), a.fl)

/-! ## Tiles (R129) -/

/-- Row values as a stream holds them. -/
def inRow (l : List (W32 × Flags)) (bad : Bool) : InRow :=
  ⟨SMap.entries zero32 0 (l.map (·.1)), if l.all (fun e => e.2 == {}) then [] else l.map (·.2), bad⟩

/-- A running tile: its output tiles so far, whether an output row is poisoned, and a poisoned unit that a row of it has left and a later row
has read. -/
structure TileRun where
  st : State
  a0 : OutAcc
  a1 : OutAcc
  poison : Bool
  own : Option Nat

/-- A row of an input stream: its values, whether it is poisoned, and a unit that rows before it have poisoned. -/
structure RowIn where
  vals : List (W32 × Flags)
  bad : Bool
  own : Option Nat

/-- Lane values an output row ends with: +0 outside the column extent and in lanes nothing stored (R133). -/
def OutRow.final (o : OutRow) (cols : Nat) : List W32 :=
  ((List.range 128).zip (SMap.range zero32 o.vals 0 128)).map (fun e => if e.1 < cols then e.2 else 0)

/-- One row: the streams' rows are read, the program runs, and the output rows are written, OUT0 before OUT1 (log entry 88). -/
def rowGo (c : CoreId) (x : CtxId) (j : VecJob) (words : List W32) (ins : Nat → State → RowIn)
    (bad olap : Bool) (cols : Nat) (run : TileRun) (r : Nat) : TileRun :=
  let d := j.desc
  let s := run.st
  let i0 := ins 0 s
  let i1 := ins 1 s
  let s := s.modCtx c x (fun k =>
    let k := { k with pos := { k.pos with
      row := r
      in0 := inRow i0.vals i0.bad
      in1 := inRow i1.vals i1.bad
      out0 := ⟨[], false⟩
      out1 := ⟨[], false⟩ } }
    let k := words.foldl (fun k w => k.elem (eOp w) w) k
    { k with vec := { k.vec with rows := k.vec.rows + 1 } })
  let q := (s.ctx c x).pos
  let put (n : Nat) (o : OutRow) (tensor : W32) (s : State) (a : OutAcc) : State × OutAcc :=
    let v := vdStream d n
    if vsEn v then
      let a := a.row (outCtl d v tensor j.tile j.step (q.sr, 0)) v r (o.final cols) (bad || o.poisoned)
      (if olap then s.rowOut v (aKey (vsTile v j.tile)) r bad (a.scales.drop (4 * r)) (a.rows.getLastD ([], false)) else s, a)
    else (s, a)
  let (s, a0) := put 2 q.out0 (vdTensor0 d) s run.a0
  let (s, a1) := put 3 q.out1 (vdTensor1 d) s run.a1
  ⟨s, a0, a1, run.poison || (q.out0.poisoned && vsEn (vdStream d 2)) || (q.out1.poisoned && vsEn (vdStream d 3)),
    run.own <|> i0.own <|> i1.own⟩

/-- An output stream of the tile ends: its lines are written out. -/
def State.outFin (s : State) (c : CoreId) (x : CtxId) (j : VecJob) (n : Nat) (tensor : W32) (rows cols : Nat) (bad olap : Bool)
    (sr : W64) (a : OutAcc) : State :=
  let v := vdStream j.desc n
  if vsEn v then
    let q := s.outEnd c (outCtl j.desc v tensor j.tile j.step (sr, 0)) v (aKey (vsTile v j.tile)) rows cols bad olap a
    q.1.modCtx c x (fun k => k.vecFlags q.2)
  else s

/-- Run the rows of a tile whose inputs have been read and checked. -/
def State.tileRows (s : State) (c : CoreId) (x : CtxId) (j : VecJob) (in0 in1 : Option VecIn) (rows cols : Nat) : State :=
  let d := j.desc
  let words := match (s.ctx c x).vprog with
    | some (_, l) => l
    | none => []
  let bad := (in0.map (·.bad)).getD false || (in1.map (·.bad)).getD false
  let again (k : Nat) : Bool :=
    let v := vdStream d k
    decide (vsFmt v ≤ 8) && vsEn v && vdOverlap d (s.mem.vecRanges v (aKey (vsTile v j.tile)) rows cols) j.tile
  let g0 := again 0
  let g1 := again 1
  let olap := g0 || g1 || vdOutsMeet d j.tile
  let line (k : Nat) (t : Option VecIn) (g : Bool) (r : Nat) (s : State) : RowIn :=
    match t with
    | none => ⟨List.replicate 128 (0, {}), false, none⟩
    | some i =>
      let v := vdStream d k
      let key := aKey (vsTile v j.tile)
      let own := if g ∧ !i.bad then ((s.mem.vecRows v key r 1 cols).flatMap (fun e => unitsOf e.1 e.2)).find? s.mem.unitPoison else none
      ⟨(if g then s.mem.vecLines v key rows cols else i.lines).getD r [], i.bad || own.isSome, own.map (· * 64)⟩
  let s := s.modCtx c x (fun k => { k with
    pos := { k.pos with cols := cols, col0 := vdCol0 d + BitVec.ofNat 32 (128 * j.tile) }
    prog := { k.prog with m0 := BitVec.ofNat 128 (2 ^ cols - 1) } })
  let run := (List.range rows).foldl (fun run r =>
    rowGo c x j words (fun k s => if k = 0 then line 0 in0 g0 r s else line 1 in1 g1 r s) bad olap cols run r) ⟨s, {}, {}, false, none⟩
  let sr := (s.ctx c x).pos.sr
  let s := run.st.outFin c x j 2 (vdTensor0 d) rows cols bad olap sr run.a0
  let s := s.outFin c x j 3 (vdTensor1 d) rows cols bad olap sr run.a1
  let s := s.raiseRead c x j.step ⟨run.own, none⟩ s.faultAddr
  s.modVec c x j.id (fun j => { j with tile := j.tile + 1, poison := j.poison || run.poison || (bad && !(vdOuts d).isEmpty) })

/-- A memory input of the tile: checked and read. -/
def State.memIn (s : State) (v : W128) (t rows cols : Nat) : State × VecIn × ReadChk :=
  let key := aKey (vsTile v t)
  let (s, r) := s.checkRanges (s.mem.vecRanges v key rows cols)
  (s, ⟨rows, cols, s.mem.vecLines v key rows cols, r.bad⟩, r)

/-- What a tile takes from the tensor engine, where IN0 comes from there. -/
def State.vecFirst (s : State) (c : CoreId) (x : CtxId) (j : VecJob) : Option (State × Option VecIn) :=
  if vdFromTensor j.desc then (s.tensorIn c x j).map (fun e => (e.1, some e.2)) else some (s, none)

/-- The streams of a tile that are read from memory. -/
def State.memIns (s : State) (mems : List (W128 × Nat)) (t rows cols : Nat) : State × List (Nat × VecIn) × ReadChk :=
  mems.foldl (fun a e =>
    let q := a.1.memIn e.1 t rows cols
    (q.1, a.2.1 ++ [(e.2, q.2.1)], a.2.2.join q.2.2)) (s, [], ReadChk.none)

/-- Run the next tile of a command that has started; none while it waits for the tensor engine. With IN0 from the tensor engine the extents of
IN1 are those of each tile (R132), so item 3 of R134 is tested there, before that tile is taken (log entry 88). -/
def State.vecTile (s : State) (c : CoreId) (x : CtxId) (j : VecJob) : Option State :=
  let d := j.desc
  let ws := (vdOuts d).map (fun v => (aKey (vsTile v j.tile), outBytes v)) ++
    (if vdTrec d ≠ 0 ∧ vdFromTensor d then [(aKey (vdTrec d) + 16 * j.tile, 16)] else [])
  let kw := s.checkKeys (s.partD c x) ws
  if kw ≠ .ok then some (s.vecDenied c x j kw)
  else match s.vecFirst c x j with
  | none => none
  | some (s1, t0) =>
    let rows := (t0.map (·.rows)).getD (vdM d)
    let cols := (t0.map (·.cols)).getD (vdCols d j.tile)
    let mems := (([0, 1].map (vdStream d)).zip [0, 1]).filter (fun e => vsEn e.1 && decide (vsFmt e.1 ≤ 8))
    let rs := mems.flatMap (fun e => s1.mem.vecRanges e.1 (aKey (vsTile e.1 j.tile)) rows cols)
    if vdFromTensor d && !keysInCore c rs then some (s.vecRefuse c x j.id)
    else
      let k := s.checkKeys (s.partD c x) rs
      if k ≠ .ok then some (s.vecDenied c x j k)
      else
        let tbad := (t0.map (·.bad)).getD false
        let (s, ins, r) := s1.memIns mems j.tile rows cols
        let s := if tbad ∧ r.poison.isNone then s.raiseCtx c x j.step 0x01 0 else s
        let s := s.raiseRead c x j.step r s.faultAddr
        let s := s.modVec c x j.id (fun j => { j with checkFail := j.checkFail || r.mismatch.isSome })
        let get (n : Nat) : Option VecIn := (ins.find? (fun e => e.1 == n)).map (·.2)
        some (s.tileRows c x j (t0 <|> get 0) (get 1) rows cols)

/-- Row state after the last tile (R135, R151). -/
def State.writeRowState (s : State) (c : CoreId) (x : CtxId) (d : BitVec 1024) : State × Bool :=
  let p := (s.ctx c x).prog
  let marks := SMap.range (fun _ => false) p.pa 0 512
  let ps := (List.range 32).map (fun u => ((marks.drop (16 * u)).take 16).any id)
  (s.writeFresh (Former.core c) (aKey (vdRowst d)) ((SMap.range zero32 p.a 0 512).flatMap (fun v => leBytes 4 v.toNat)) ps, ps.any id)

/-- A command has run its last tile. -/
def State.vecEnd (s : State) (c : CoreId) (x : CtxId) (j : VecJob) : State :=
  let k := if vdRso j.desc then s.check (s.partD c x) (vdRowst j.desc) 2048 else .ok
  if k ≠ .ok then s.vecDenied c x j k
  else
    let (s, p) := if vdRso j.desc then s.writeRowState c x j.desc else (s, false)
    s.vecLeave c x j.id (if j.poison || p then (if j.checkFail then stCheck else stPoison) else stOk)

end Sys2Proof.Machine
end

