-- ==== Sys2Proof/Machine/Vector.lean ====
section
/-!
DEFINITION. The vector engine's queue: commands run in order of issue, one waiting for the tensor engine holds those behind it (R129,
R142, R149, R150). VEC, UPDATE, the element instructions, and the events of the tensor engine and of filler admission that let a
waiting command go on.
-/
namespace Sys2Proof.Machine

/-! ## The queue -/

/-- One step of the command at the head of the engine: start, a tile, or its end; none while it waits. -/
def State.vecStep (s : State) (c : CoreId) (x : CtxId) : Option State :=
  let k := s.ctx c x
  if k.suspended then none
  else match k.vecq with
    | [] => none
    | j :: _ =>
      match j.upd with
      | some d => let (s, st) := s.updateRun c x j.step d; some (s.vecLeave c x j.id st)
      | none =>
        if !j.started then some (s.vecStart c x j)
        else if vdNt j.desc ≤ j.tile then some (s.vecEnd c x j)
        else s.vecTile c x j

def vecGo (c : CoreId) (x : CtxId) : Nat → State → State
  | 0, s => s
  | n + 1, s => match s.vecStep c x with
    | some s => vecGo c x n s
    | none => s

/-- Let the engine's commands of a context go as far as they can. -/
def State.vecPump (s : State) (c : CoreId) (x : CtxId) : State :=
  vecGo c x ((s.ctx c x).vecq.foldl (fun n j => n + vdNt j.desc + 3) 0) s

/-- Put a command at the end of the engine's queue. -/
def State.vecPost (s : State) (i : Issued) (desc : BitVec 1024) (upd : Option (BitVec 1536)) : State :=
  (s.modCtx i.core i.ctx (fun k => { k with vecq := k.vecq ++ [⟨i.id, desc, upd, 0, false, i.step, false, false⟩] })).vecPump i.core i.ctx

def vecCmd (i : Issued) (s : State) : State := s.vecPost i (BitVec.ofNat 1024 (s.coreWord i.core i.doff 128)) none
def updateCmd (i : Issued) (s : State) : State := s.vecPost i 0 (some (s.tdesc i.core i.doff))

/-- VEC (R129). -/
def execVec (sl : Slot) (w : W256) (s : State) : Host.Outcome State Fault Refusal := s.dispatch sl w 0x13 (withDesc 0x13 vecCmd)

/-- UPDATE (R195, R196). -/
def execUpdate (sl : Slot) (w : W256) (s : State) : Host.Outcome State Fault Refusal := s.dispatch sl w 0x14 (withDesc 0x14 updateCmd)

/-! ## Events -/

/-- K_TILE (R89, R91 to R94, R99 to R102, R109). -/
def execKTile (c : CoreId) (x : CtxId) (s : State) : Host.Outcome State Fault Refusal := .next ((s.kTileGo c x).vecPump c x)

/-- FINISHED_TILE_QUEUE_ENTRY (R99, R100). -/
def execFinishedTileQueueEntry (c : CoreId) (x : CtxId) (s : State) : Host.Outcome State Fault Refusal := .next ((s.ftqEntry c x).vecPump c x)

/-- Abandoned tiles of the filler are read again from the start, and its transfers go on (R177). -/
def State.resumeFiller (s : State) (c : CoreId) : State :=
  ((s.ctx c .filler).jobs.foldl (fun s j => match j.work with
    | .rq d => if j.status.isNone then s.rqStep (s.asIssued c .filler j.id) d else s
    | _ => s) s).pumpAll c

/-- FILLER_ADMIT (R175, R177, R405): suspended filler work goes on, each engine's before any new S2 command. -/
def execFillerAdmit (c : CoreId) (s : State) : Host.Outcome State Fault Refusal :=
  if s.primaryBusy c || s.fillerBarred c || decide ((s.core c).idleCyc < (s.ctx c .filler).filldelay.toNat) then .next s
  else .next (((s.modCore c (fun k => { k with admitted := true, fill := { k.fill with suspended := false } })).resumeFiller c).vecPump c .filler)

/-! ## Element instructions (R138) -/

/-- NOP: no effect. -/
def execVectorNop (c : CoreId) (x : CtxId) (w : W32) (s : State) : Host.Outcome State Fault Refusal := .next (s.elemGo c x 0x00 w)

/-- MOV: bit copy. -/
def execMov (c : CoreId) (x : CtxId) (w : W32) (s : State) : Host.Outcome State Fault Refusal := .next (s.elemGo c x 0x01 w)

/-- ADD. -/
def execAdd (c : CoreId) (x : CtxId) (w : W32) (s : State) : Host.Outcome State Fault Refusal := .next (s.elemGo c x 0x02 w)

/-- SUB. -/
def execSub (c : CoreId) (x : CtxId) (w : W32) (s : State) : Host.Outcome State Fault Refusal := .next (s.elemGo c x 0x03 w)

/-- MUL. -/
def execMul (c : CoreId) (x : CtxId) (w : W32) (s : State) : Host.Outcome State Fault Refusal := .next (s.elemGo c x 0x04 w)

/-- FMA: a x b + c, rounded once. -/
def execFma (c : CoreId) (x : CtxId) (w : W32) (s : State) : Host.Outcome State Fault Refusal := .next (s.elemGo c x 0x05 w)

/-- FNMA: c - a x b, rounded once. -/
def execFnma (c : CoreId) (x : CtxId) (w : W32) (s : State) : Host.Outcome State Fault Refusal := .next (s.elemGo c x 0x06 w)

/-- DIV. -/
def execDiv (c : CoreId) (x : CtxId) (w : W32) (s : State) : Host.Outcome State Fault Refusal := .next (s.elemGo c x 0x07 w)

/-- SQRT. -/
def execSqrt (c : CoreId) (x : CtxId) (w : W32) (s : State) : Host.Outcome State Fault Refusal := .next (s.elemGo c x 0x08 w)

/-- MAX (R140). -/
def execMax (c : CoreId) (x : CtxId) (w : W32) (s : State) : Host.Outcome State Fault Refusal := .next (s.elemGo c x 0x09 w)

/-- MIN (R140). -/
def execMin (c : CoreId) (x : CtxId) (w : W32) (s : State) : Host.Outcome State Fault Refusal := .next (s.elemGo c x 0x0A w)

/-- ABS. -/
def execAbs (c : CoreId) (x : CtxId) (w : W32) (s : State) : Host.Outcome State Fault Refusal := .next (s.elemGo c x 0x0B w)

/-- NEG. -/
def execNeg (c : CoreId) (x : CtxId) (w : W32) (s : State) : Host.Outcome State Fault Refusal := .next (s.elemGo c x 0x0C w)

/-- SEL (R137). -/
def execSel (c : CoreId) (x : CtxId) (w : W32) (s : State) : Host.Outcome State Fault Refusal := .next (s.elemGo c x 0x0D w)

/-- RNDI. -/
def execRndi (c : CoreId) (x : CtxId) (w : W32) (s : State) : Host.Outcome State Fault Refusal := .next (s.elemGo c x 0x0E w)

/-- XADD (R141). -/
def execXadd (c : CoreId) (x : CtxId) (w : W32) (s : State) : Host.Outcome State Fault Refusal := .next (s.elemGo c x 0x0F w)

/-- EXP2. -/
def execExp2 (c : CoreId) (x : CtxId) (w : W32) (s : State) : Host.Outcome State Fault Refusal := .next (s.elemGo c x 0x10 w)

/-- LOG2. -/
def execLog2 (c : CoreId) (x : CtxId) (w : W32) (s : State) : Host.Outcome State Fault Refusal := .next (s.elemGo c x 0x11 w)

/-- RSQRT. -/
def execRsqrt (c : CoreId) (x : CtxId) (w : W32) (s : State) : Host.Outcome State Fault Refusal := .next (s.elemGo c x 0x12 w)

/-- SIGM. -/
def execSigm (c : CoreId) (x : CtxId) (w : W32) (s : State) : Host.Outcome State Fault Refusal := .next (s.elemGo c x 0x13 w)

/-- TANH. -/
def execTanh (c : CoreId) (x : CtxId) (w : W32) (s : State) : Host.Outcome State Fault Refusal := .next (s.elemGo c x 0x14 w)

/-- CMPEQ. -/
def execCmpeq (c : CoreId) (x : CtxId) (w : W32) (s : State) : Host.Outcome State Fault Refusal := .next (s.elemGo c x 0x18 w)

/-- CMPNE. -/
def execCmpne (c : CoreId) (x : CtxId) (w : W32) (s : State) : Host.Outcome State Fault Refusal := .next (s.elemGo c x 0x19 w)

/-- CMPLT. -/
def execCmplt (c : CoreId) (x : CtxId) (w : W32) (s : State) : Host.Outcome State Fault Refusal := .next (s.elemGo c x 0x1A w)

/-- CMPLE. -/
def execCmple (c : CoreId) (x : CtxId) (w : W32) (s : State) : Host.Outcome State Fault Refusal := .next (s.elemGo c x 0x1B w)

/-- CMPUN. -/
def execCmpun (c : CoreId) (x : CtxId) (w : W32) (s : State) : Host.Outcome State Fault Refusal := .next (s.elemGo c x 0x1C w)

/-- IDXC. -/
def execIdxc (c : CoreId) (x : CtxId) (w : W32) (s : State) : Host.Outcome State Fault Refusal := .next (s.elemGo c x 0x1E w)

/-- IDXR. -/
def execIdxr (c : CoreId) (x : CtxId) (w : W32) (s : State) : Host.Outcome State Fault Refusal := .next (s.elemGo c x 0x1F w)

/-- LD. -/
def execLd (c : CoreId) (x : CtxId) (w : W32) (s : State) : Host.Outcome State Fault Refusal := .next (s.elemGo c x 0x20 w)

/-- ST (R133). -/
def execSt (c : CoreId) (x : CtxId) (w : W32) (s : State) : Host.Outcome State Fault Refusal := .next (s.elemGo c x 0x21 w)

/-- RSUM (R143). -/
def execRsum (c : CoreId) (x : CtxId) (w : W32) (s : State) : Host.Outcome State Fault Refusal := .next (s.elemGo c x 0x28 w)

/-- RSSQ (R143). -/
def execRssq (c : CoreId) (x : CtxId) (w : W32) (s : State) : Host.Outcome State Fault Refusal := .next (s.elemGo c x 0x29 w)

/-- RMAX (R143). -/
def execRmax (c : CoreId) (x : CtxId) (w : W32) (s : State) : Host.Outcome State Fault Refusal := .next (s.elemGo c x 0x2A w)

/-- RMIN (R143). -/
def execRmin (c : CoreId) (x : CtxId) (w : W32) (s : State) : Host.Outcome State Fault Refusal := .next (s.elemGo c x 0x2B w)

/-- RAMAX (R143). -/
def execRamax (c : CoreId) (x : CtxId) (w : W32) (s : State) : Host.Outcome State Fault Refusal := .next (s.elemGo c x 0x2C w)

/-- RARGMAX (R145). -/
def execRargmax (c : CoreId) (x : CtxId) (w : W32) (s : State) : Host.Outcome State Fault Refusal := .next (s.elemGo c x 0x2D w)

/-- RARGMIN (R145). -/
def execRargmin (c : CoreId) (x : CtxId) (w : W32) (s : State) : Host.Outcome State Fault Refusal := .next (s.elemGo c x 0x2E w)

/-- RMEAN (R143). -/
def execRmean (c : CoreId) (x : CtxId) (w : W32) (s : State) : Host.Outcome State Fault Refusal := .next (s.elemGo c x 0x2F w)

/-- RCNT. -/
def execRcnt (c : CoreId) (x : CtxId) (w : W32) (s : State) : Host.Outcome State Fault Refusal := .next (s.elemGo c x 0x30 w)

/-- STADD (R147). -/
def execStadd (c : CoreId) (x : CtxId) (w : W32) (s : State) : Host.Outcome State Fault Refusal := .next (s.elemGo c x 0x38 w)

/-- STMAX (R147). -/
def execStmax (c : CoreId) (x : CtxId) (w : W32) (s : State) : Host.Outcome State Fault Refusal := .next (s.elemGo c x 0x39 w)

end Sys2Proof.Machine
end

