-- ==== Sys2Proof/Machine/Dispatch.lean ====
section
/-!
DEFINITION. The meaning of a command on everything but the queue: one arm per row of the table of operations and events.
-/
namespace Sys2Proof.Machine

def exec (i : Instr) (s : State) : Host.Outcome State Fault Refusal :=
  match i with
  | .nop sl w => Sys2Proof.Machine.execNop sl w s
  | .tokset sl w => Sys2Proof.Machine.execTokset sl w s
  | .tokadd sl w => Sys2Proof.Machine.execTokadd sl w s
  | .cset sl w => Sys2Proof.Machine.execCset sl w s
  | .cadd sl w => Sys2Proof.Machine.execCadd sl w s
  | .loop sl w => Sys2Proof.Machine.execLoop sl w s
  | .drain sl w => Sys2Proof.Machine.execDrain sl w s
  | .halt sl w => Sys2Proof.Machine.execHalt sl w s
  | .phase sl w => Sys2Proof.Machine.execPhase sl w s
  | .mark sl w => Sys2Proof.Machine.execMark sl w s
  | .notify sl w => Sys2Proof.Machine.execNotify sl w s
  | .defer sl w => Sys2Proof.Machine.execDefer sl w s
  | .stepcommit sl w => Sys2Proof.Machine.execStepcommit sl w s
  | .tensor sl w => Sys2Proof.Machine.execTensor sl w s
  | .quant sl w => Sys2Proof.Machine.execQuant sl w s
  | .rq sl w => Sys2Proof.Machine.execRq sl w s
  | .vec sl w => Sys2Proof.Machine.execVec sl w s
  | .update sl w => Sys2Proof.Machine.execUpdate sl w s
  | .coll sl w => Sys2Proof.Machine.execColl sl w s
  | .xd sl w => Sys2Proof.Machine.execXd sl w s
  | .syncdump sl w => Sys2Proof.Machine.execSyncdump sl w s
  | .copy sl w => Sys2Proof.Machine.execCopy sl w s
  | .put sl w => Sys2Proof.Machine.execPut sl w s
  | .get sl w => Sys2Proof.Machine.execGet sl w s
  | .putsig sl w => Sys2Proof.Machine.execPutsig sl w s
  | .fill sl w => Sys2Proof.Machine.execFill sl w s
  | .fence sl w => Sys2Proof.Machine.execFence sl w s
  | .puti sl w => Sys2Proof.Machine.execPuti sl w s
  | .signal sl w => Sys2Proof.Machine.execSignal sl w s
  | .syncadd sl w => Sys2Proof.Machine.execSyncadd sl w s
  | .syncset sl w => Sys2Proof.Machine.execSyncset sl w s
  | .syncsetClaim sl w => Sys2Proof.Machine.execSyncsetClaim sl w s
  | .syncsetRelease sl w => Sys2Proof.Machine.execSyncsetRelease sl w s
  | .syncwait sl w => Sys2Proof.Machine.execSyncwait sl w s
  | .syncread sl w => Sys2Proof.Machine.execSyncread sl w s
  | .stwrite sl w => Sys2Proof.Machine.execStwrite sl w s
  | .stread sl w => Sys2Proof.Machine.execStread sl w s
  | .stpref sl w => Sys2Proof.Machine.execStpref sl w s
  | .stpin sl w => Sys2Proof.Machine.execStpin sl w s
  | .stunpin sl w => Sys2Proof.Machine.execStunpin sl w s
  | .stfree sl w => Sys2Proof.Machine.execStfree sl w s
  | .commandComplete core ctx id => Sys2Proof.Machine.execCommandComplete core ctx id s
  | .dqGroupOpen core => Sys2Proof.Machine.execDqGroupOpen core s
  | .fillerAdmit core => Sys2Proof.Machine.execFillerAdmit core s
  | .fillerYield core => Sys2Proof.Machine.execFillerYield core s
  | .kTile core ctx => Sys2Proof.Machine.execKTile core ctx s
  | .ladderSequence core ctx => Sys2Proof.Machine.execLadderSequence core ctx s
  | .rungComputationDone core ctx => Sys2Proof.Machine.execRungComputationDone core ctx s
  | .finishedTileQueueEntry core ctx => Sys2Proof.Machine.execFinishedTileQueueEntry core ctx s
  | .vectorNop core ctx w => Sys2Proof.Machine.execVectorNop core ctx w s
  | .mov core ctx w => Sys2Proof.Machine.execMov core ctx w s
  | .add core ctx w => Sys2Proof.Machine.execAdd core ctx w s
  | .sub core ctx w => Sys2Proof.Machine.execSub core ctx w s
  | .mul core ctx w => Sys2Proof.Machine.execMul core ctx w s
  | .fma core ctx w => Sys2Proof.Machine.execFma core ctx w s
  | .fnma core ctx w => Sys2Proof.Machine.execFnma core ctx w s
  | .div core ctx w => Sys2Proof.Machine.execDiv core ctx w s
  | .sqrt core ctx w => Sys2Proof.Machine.execSqrt core ctx w s
  | .max core ctx w => Sys2Proof.Machine.execMax core ctx w s
  | .min core ctx w => Sys2Proof.Machine.execMin core ctx w s
  | .abs core ctx w => Sys2Proof.Machine.execAbs core ctx w s
  | .neg core ctx w => Sys2Proof.Machine.execNeg core ctx w s
  | .sel core ctx w => Sys2Proof.Machine.execSel core ctx w s
  | .rndi core ctx w => Sys2Proof.Machine.execRndi core ctx w s
  | .xadd core ctx w => Sys2Proof.Machine.execXadd core ctx w s
  | .exp2 core ctx w => Sys2Proof.Machine.execExp2 core ctx w s
  | .log2 core ctx w => Sys2Proof.Machine.execLog2 core ctx w s
  | .rsqrt core ctx w => Sys2Proof.Machine.execRsqrt core ctx w s
  | .sigm core ctx w => Sys2Proof.Machine.execSigm core ctx w s
  | .tanh core ctx w => Sys2Proof.Machine.execTanh core ctx w s
  | .cmpeq core ctx w => Sys2Proof.Machine.execCmpeq core ctx w s
  | .cmpne core ctx w => Sys2Proof.Machine.execCmpne core ctx w s
  | .cmplt core ctx w => Sys2Proof.Machine.execCmplt core ctx w s
  | .cmple core ctx w => Sys2Proof.Machine.execCmple core ctx w s
  | .cmpun core ctx w => Sys2Proof.Machine.execCmpun core ctx w s
  | .idxc core ctx w => Sys2Proof.Machine.execIdxc core ctx w s
  | .idxr core ctx w => Sys2Proof.Machine.execIdxr core ctx w s
  | .ld core ctx w => Sys2Proof.Machine.execLd core ctx w s
  | .st core ctx w => Sys2Proof.Machine.execSt core ctx w s
  | .rsum core ctx w => Sys2Proof.Machine.execRsum core ctx w s
  | .rssq core ctx w => Sys2Proof.Machine.execRssq core ctx w s
  | .rmax core ctx w => Sys2Proof.Machine.execRmax core ctx w s
  | .rmin core ctx w => Sys2Proof.Machine.execRmin core ctx w s
  | .ramax core ctx w => Sys2Proof.Machine.execRamax core ctx w s
  | .rargmax core ctx w => Sys2Proof.Machine.execRargmax core ctx w s
  | .rargmin core ctx w => Sys2Proof.Machine.execRargmin core ctx w s
  | .rmean core ctx w => Sys2Proof.Machine.execRmean core ctx w s
  | .rcnt core ctx w => Sys2Proof.Machine.execRcnt core ctx w s
  | .stadd core ctx w => Sys2Proof.Machine.execStadd core ctx w s
  | .stmax core ctx w => Sys2Proof.Machine.execStmax core ctx w s
  | .stashSpill core => Sys2Proof.Machine.execStashSpill core s
  | .spillDone core layer entry => Sys2Proof.Machine.execSpillDone core layer entry s
  | .refillDone core layer entry => Sys2Proof.Machine.execRefillDone core layer entry s
  | .tailWrite core st part v => Sys2Proof.Machine.execTailWrite core st part v s
  | .streamEnable core st part v => Sys2Proof.Machine.execStreamEnable core st part v s
  | .contextEnable core ctx part v => Sys2Proof.Machine.execContextEnable core ctx part v s
  | .resume core ctx part v => Sys2Proof.Machine.execResume core ctx part v s
  | .staCfgWrite core ctx part slot span v => Sys2Proof.Machine.execStaCfgWrite core ctx part slot span v s
  | .stashConfigWrite core part off v => Sys2Proof.Machine.execStashConfigWrite core part off v s
  | .registerWrite core part off v => Sys2Proof.Machine.execRegisterWrite core part off v s
  | .sadd p => Sys2Proof.Machine.execSadd p s
  | .sset p => Sys2Proof.Machine.execSset p s
  | .lossNotice p => Sys2Proof.Machine.execLossNotice p s
  | .syncWatchdogExpiry core st => Sys2Proof.Machine.execSyncWatchdogExpiry core st s
  | .wr p => Sys2Proof.Machine.execWr p s
  | .rdq p upset => Sys2Proof.Machine.execRdq p upset s
  | .rdr p => Sys2Proof.Machine.execRdr p s
  | .ack p => Sys2Proof.Machine.execAck p s
  | .err p => Sys2Proof.Machine.execErr p s
  | .headerWrite p => Sys2Proof.Machine.execHeaderWrite p s
  | .headerRead p => Sys2Proof.Machine.execHeaderRead p s
  | .mrd p => Sys2Proof.Machine.execMrd p s
  | .mwr p => Sys2Proof.Machine.execMwr p s
  | .mrr p => Sys2Proof.Machine.execMrr p s
  | .msg p => Sys2Proof.Machine.execMsg p s
  | .redr p => Sys2Proof.Machine.execRedr p s
  | .packetForward p => Sys2Proof.Machine.execPacketForward p s
  | .responseTimeout req => Sys2Proof.Machine.execResponseTimeout req s
  | .codeword port seq errs kinds flits => Sys2Proof.Machine.execCodeword port seq errs kinds flits s
  | .flow port f => Sys2Proof.Machine.execFlow port f s
  | .disc port f => Sys2Proof.Machine.execDisc port f s
  | .lane port f => Sys2Proof.Machine.execLane port f s
  | .discSend port => Sys2Proof.Machine.execDiscSend port s
  | .laneFailure port lane => Sys2Proof.Machine.execLaneFailure port lane s
  | .spareLaneSwapDone port => Sys2Proof.Machine.execSpareLaneSwapDone port s
  | .portDown port => Sys2Proof.Machine.execPortDown port s
  | .linkTrainingAttempt port => Sys2Proof.Machine.execLinkTrainingAttempt port s
  | .linkTrained port f => Sys2Proof.Machine.execLinkTrained port f s
  | .equalisationUpdate port => Sys2Proof.Machine.execEqualisationUpdate port s
  | .planLoad r part v => Sys2Proof.Machine.execPlanLoad r part v s
  | .planCheckTimeout part => Sys2Proof.Machine.execPlanCheckTimeout part s
  | .groupLoad r part v => Sys2Proof.Machine.execGroupLoad r part v s
  | .reservationTimeout part gid plane => Sys2Proof.Machine.execReservationTimeout part gid plane s
  | .ready m => Sys2Proof.Machine.execReady m s
  | .readyRetry m => Sys2Proof.Machine.execReadyRetry m s
  | .segmentEnd m => Sys2Proof.Machine.execSegmentEnd m s
  | .collTimeout core ctx gid => Sys2Proof.Machine.execCollTimeout core ctx gid s
  | .localClose part => Sys2Proof.Machine.execLocalClose part s
  | .cleanVote part => Sys2Proof.Machine.execCleanVote part s
  | .voteResult part r => Sys2Proof.Machine.execVoteResult part r s
  | .void p => Sys2Proof.Machine.execVoid p s
  | .damaskReexecute cap => Sys2Proof.Machine.execDamaskReexecute cap s
  | .damaskCheck cap r => Sys2Proof.Machine.execDamaskCheck cap r s
  | .damaskArbitration cap r => Sys2Proof.Machine.execDamaskArbitration cap r s
  | .damaskTimeout cap => Sys2Proof.Machine.execDamaskTimeout cap s
  | .ckptRequest r part v => Sys2Proof.Machine.execCkptRequest r part v s
  | .checkpointCopyDone part => Sys2Proof.Machine.execCheckpointCopyDone part s
  | .restart p => Sys2Proof.Machine.execRestart p s
  | .ckptStatus p => Sys2Proof.Machine.execCkptStatus p s
  | .lease p => Sys2Proof.Machine.execLease p s
  | .leaseSend => Sys2Proof.Machine.execLeaseSend s
  | .leaseAck p => Sys2Proof.Machine.execLeaseAck p s
  | .repl p => Sys2Proof.Machine.execRepl p s
  | .replAck p => Sys2Proof.Machine.execReplAck p s
  | .leaseLapse => Sys2Proof.Machine.execLeaseLapse s
  | .leaderAckExpiry => Sys2Proof.Machine.execLeaderAckExpiry s
  | .sfWatchdogExpiry unhealthy => Sys2Proof.Machine.execSfWatchdogExpiry unhealthy s
  | .quarNominate r v => Sys2Proof.Machine.execQuarNominate r v s
  | .faultClear r v => Sys2Proof.Machine.execFaultClear r v s
  | .initStart r v => Sys2Proof.Machine.execInitStart r v s
  | .bulkFillDone stack => Sys2Proof.Machine.execBulkFillDone stack s
  | .logClear r v => Sys2Proof.Machine.execLogClear r v s
  | .repairNominate r v => Sys2Proof.Machine.execRepairNominate r v s
  | .dramScrub stack upset => Sys2Proof.Machine.execDramScrub stack upset s
  | .sramScrub core unit flips => Sys2Proof.Machine.execSramScrub core unit flips s
  | .bankRefresh stack chan bank => Sys2Proof.Machine.execBankRefresh stack chan bank s
  | .refreshSample stack temp below10ms => Sys2Proof.Machine.execRefreshSample stack temp below10ms s
  | .dramTimingTrim stack chan => Sys2Proof.Machine.execDramTimingTrim stack chan s
  | .snpi m => Sys2Proof.Machine.execSnpi m s
  | .data m => Sys2Proof.Machine.execData m s
  | .cmp m => Sys2Proof.Machine.execCmp m s
  | .mclMrd m => Sys2Proof.Machine.execMclMrd m s
  | .mclMwr m => Sys2Proof.Machine.execMclMwr m s
  | .mclMsg m => Sys2Proof.Machine.execMclMsg m s
  | .mclFlit hdr slots crc => Sys2Proof.Machine.execMclFlit hdr slots crc s
  | .mclRetrain => Sys2Proof.Machine.execMclRetrain s
  | .blockNop win seq => Sys2Proof.Machine.execBlockNop win seq s
  | .write win seq => Sys2Proof.Machine.execWrite win seq s
  | .read win seq => Sys2Proof.Machine.execRead win seq s
  | .append win seq => Sys2Proof.Machine.execAppend win seq s
  | .blockSignal win seq => Sys2Proof.Machine.execBlockSignal win seq s
  | .dict win seq => Sys2Proof.Machine.execDict win seq s
  | .blockComplete win seq => Sys2Proof.Machine.execBlockComplete win seq s
  | .irqHoldoffEnd win => Sys2Proof.Machine.execIrqHoldoffEnd win s
  | .attestationRequest m => Sys2Proof.Machine.execAttestationRequest m s
  | .attestationReport => Sys2Proof.Machine.execAttestationReport s
  | .usdoDownload idx sub len v => Sys2Proof.Machine.execUsdoDownload idx sub len v s
  | .usdoUpload idx sub => Sys2Proof.Machine.execUsdoUpload idx sub s
  | .fuseStage sub len v => Sys2Proof.Machine.execFuseStage sub len v s
  | .nmtResetNode => Sys2Proof.Machine.execNmtResetNode s
  | .nmtResetCommunication => Sys2Proof.Machine.execNmtResetCommunication s
  | .nmtStateCommand c => Sys2Proof.Machine.execNmtStateCommand c s
  | .heartbeat => Sys2Proof.Machine.execHeartbeat s
  | .configBufferWrite pecOk bytes => Sys2Proof.Machine.execConfigBufferWrite pecOk bytes s
  | .configInstall pecOk => Sys2Proof.Machine.execConfigInstall pecOk s
  | .configResultRead pecOk => Sys2Proof.Machine.execConfigResultRead pecOk s
  | .bootStatusRead pecOk => Sys2Proof.Machine.execBootStatusRead pecOk s
  | .configBufferEmpty pecOk => Sys2Proof.Machine.execConfigBufferEmpty pecOk s
  | .warmResetCommand pecOk => Sys2Proof.Machine.execWarmResetCommand pecOk s
  | .coldResetCommand pecOk => Sys2Proof.Machine.execColdResetCommand pecOk s
  | .readinessRead pecOk => Sys2Proof.Machine.execReadinessRead pecOk s
  | .resetCauseRead pecOk => Sys2Proof.Machine.execResetCauseRead pecOk s
  | .enAssert => Sys2Proof.Machine.execEnAssert s
  | .enDeassert => Sys2Proof.Machine.execEnDeassert s
  | .powerGood => Sys2Proof.Machine.execPowerGood s
  | .resetAssert => Sys2Proof.Machine.execResetAssert s
  | .resetRelease slotId => Sys2Proof.Machine.execResetRelease slotId s
  | .trustedKernelStart => Sys2Proof.Machine.execTrustedKernelStart s
  | .serviceFirmwareStart => Sys2Proof.Machine.execServiceFirmwareStart s
  | .dramTrainingDone failed => Sys2Proof.Machine.execDramTrainingDone failed s
  | .selfTestDone failed => Sys2Proof.Machine.execSelfTestDone failed s
  | .inputLow mv => Sys2Proof.Machine.execInputLow mv s
  | .inputHigh mv => Sys2Proof.Machine.execInputHigh mv s
  | .undervoltageLockout mv => Sys2Proof.Machine.execUndervoltageLockout mv s
  | .overvoltageLockout mv => Sys2Proof.Machine.execOvervoltageLockout mv s
  | .referenceLoss => Sys2Proof.Machine.execReferenceLoss s
  | .referenceRestore => Sys2Proof.Machine.execReferenceRestore s
  | .referenceLossTimeout => Sys2Proof.Machine.execReferenceLossTimeout s
  | .inletHigh temp => Sys2Proof.Machine.execInletHigh temp s
  | .powerEvaluation avgW all95 => Sys2Proof.Machine.execPowerEvaluation avgW all95 s
  | .thermalEvaluation d logic dram logicRel dramRel => Sys2Proof.Machine.execThermalEvaluation d logic dram logicRel dramRel s
  | .avsAdjust d m => Sys2Proof.Machine.execAvsAdjust d m s
  | .droopStretch d => Sys2Proof.Machine.execDroopStretch d s
  | .droopRecovery d => Sys2Proof.Machine.execDroopRecovery d s
  | .opTransitionDone d => Sys2Proof.Machine.execOpTransitionDone d s
  | .mclLaneFailure => Sys2Proof.Machine.execMclLaneFailure s
  | .inputInRange mv => Sys2Proof.Machine.execInputInRange mv s
  | .inletNormal temp => Sys2Proof.Machine.execInletNormal temp s
  | .jtagInstruction ir => Sys2Proof.Machine.execJtagInstruction ir s

end Sys2Proof.Machine
end

