-- ==== Sys2Proof/Machine/Time.lean ====
section
/-!
DEFINITION. One nanosecond passes (log entry 1): module time and energy (R395), the phase timers (R202), the counters of ACLK cycles
(R100, R101, R120, R124, R184, R189), the times that filler admission and idle draws compare (R175, R187), and requests that waited for a
TAG.
-/
namespace Sys2Proof.Machine

/-! ## Phase timers (Table 8-9) -/

/-- Timers in the order of R202. -/
def timerIdx : Phase → Nat
  | .fwd => 0
  | .bwdIn => 1
  | .bwdW => 2
  | .coll => 3
  | .upd => 4

/-- The command that executes on an engine: the oldest that it holds. -/
def Ctx.onEngine (k : Ctx) (f : Engine → Bool) : Option Job := k.jobs.find? (fun j => f j.engine)

/-- The command that executes on the tensor engine. A finished bank that waits for the queue executes no longer. -/
def Ctx.onTensor (k : Ctx) : Option Job :=
  match k.tenHead with
  | some o => k.jobs.find? (fun j => j.id == o.id)
  | none => none

/-- First line of Table 8-9: the phase of the primary command that executes. -/
def Ctx.execPhase (k : Ctx) : Option Phase :=
  ((k.onTensor <|> k.onEngine (· == .vector)) <|> (k.onEngine (· == .quant) <|> k.onEngine (fun e => e == .transfer || e == .rq))).map (·.phase)

/-- Filler work executes on an engine. -/
def Ctx.executes (k : Ctx) : Bool :=
  !k.suspended && (k.onTensor.isSome || (k.onEngine (fun e => e == .vector || e == .quant || e == .transfer || e == .rq || e == .coll)).isSome)

/-- The head of S0 or S1 waits at a SYNCWAIT, or a STEPCOMMIT waits for a gate. -/
def State.headWaits (s : State) (c : CoreId) : Bool :=
  s.syncHead c .s0 || s.syncHead c .s1 || (match s.heldCommit c .primary with
    | some (_, id, _) => s.commitDrained c .primary id
    | none => false)

/-- The timer that the nanosecond goes to. -/
def State.timerNow (s : State) (c : CoreId) : Nat :=
  let k := s.core c
  match k.prim.execPhase with
  | some p => timerIdx p
  | none =>
    if (k.prim.onEngine (· == .coll)).isSome then 3
    else if k.fill.executes then 7
    else if s.headWaits c then 5
    else 6

def Core.addTimer (k : Core) (i : Nat) : Core :=
  { k with timers := SMap.set (fun _ => 0) k.timers i (SMap.get (fun _ => 0) k.timers i + 1) }

/-! ## Counters of ACLK cycles -/

/-- A finished bank that goes to the queue waits because it is full (R100). -/
def Core.bankWaits (k : Core) (x : CtxId) : Bool :=
  decide (32 ≤ k.ftq.length) && (k.ctx x).tenq.any (fun o => o.stage == .finished && !tdHold o.desc)

/-- An operation waits for the read of its exposed bank (R101). -/
def Ctx.exposedWaits (k : Ctx) : Bool := k.tenq.any (fun o => (o.stage == .running || o.stage == .rung) && k.exposureWaits o)

/-- A tensor operation waits at issue for its pin map (R120). -/
def State.pinWaits (s : State) (c : CoreId) (x : CtxId) : Bool :=
  (streamsOf x).any (fun st => s.headHeld c st (· == .pinMap)) ||
    (match x with
    | .primary => s.dqAt c == .hold .pinMap
    | .filler => false)

/-- A command waits for a guard, or a DEFER for guard space (R189). -/
def State.guardWaits (s : State) (c : CoreId) : Bool :=
  s.guardHeldAt c .s0 || s.guardHeldAt c .s1

/-- An STWRITE waits for space (R184). -/
def Stash.writeWaits (t : Stash) : Bool := t.waits.any (fun w => match w with
  | .write _ _ _ _ _ => true
  | _ => false)

/-- Add cycles to a counter while its condition holds. -/
def cyc (b : Bool) (n : Nat) (v : W64) : W64 := if b then v + BitVec.ofNat 64 n else v

/-- Cycle counters of a context. -/
def State.tickCtx (s : State) (c : CoreId) (x : CtxId) (n : Nat) : Ctx :=
  let k := s.ctx c x
  { k with
    ten := { k.ten with
      qstall := cyc ((s.core c).bankWaits x) n k.ten.qstall
      pstall := cyc k.exposedWaits n k.ten.pstall }
    ldr := { k.ldr with
      rcycles := cyc (!k.suspended && k.tenq.any (fun o => o.stage == .rung)) n k.ldr.rcycles
      pwait := cyc (s.pinWaits c x) n k.ldr.pwait } }

/-- ACLK cycles of a district in this nanosecond, in thousandths with those left over. -/
def State.cycles (s : State) (c : CoreId) : Nat := (s.core c).cycAcc + opMhz (s.dist (stackOfCore c)).op

/-- One core after a nanosecond. -/
def State.tickCore (s : State) (c : CoreId) : Core :=
  let k := s.core c
  let n := s.cycles c / 1000
  { (k.addTimer (s.timerNow c)) with
    prim := s.tickCtx c .primary n
    fill := s.tickCtx c .filler n
    dq := { k.dq with guardwait := cyc (s.guardWaits c) n k.dq.guardwait }
    stash := { k.stash with stallcyc := cyc k.stash.writeWaits n k.stash.stallcyc }
    cycAcc := s.cycles c % 1000
    idleCyc := if s.primaryBusy c then 0 else k.idleCyc + n
    quietCyc := if s.tensorQuiet c then k.quietCyc + n else 0
    admitted := k.admitted && !s.primaryBusy c }

def State.tickCores (s : State) : State := allCores.foldl (fun a c => a.setCore c (s.tickCore c)) s

/-! ## Energy, replays, requests that waited -/

/-- ENERGY integrates INPUT_POWER (R395): one watt for one nanosecond is one nanojoule. -/
def State.tickEnergy (s : State) : State :=
  let e := s.board.energy + s.dN (dk 0x2100 5)
  (s.modBoard (fun b => { b with energy := e % 1000000 })).addD (dk 0x2100 0x0A) (e / 1000000)

/-- Replays are counted for each millisecond (R227, R354). -/
def State.tickReplays (s : State) : State :=
  if s.now.toNat % 1000000 = 0 then
    let s := { s with mcl := { s.mcl with msReplays := 0 } }
    allPorts.foldl (fun s n => if (s.portSt n).msReplays = 0 then s else s.modPort n (fun q => { q with msReplays := 0 })) s
  else s

/-- A nanosecond of every port: the line of a trained one moves on (R228). One attempt to train a port lasts at most 100 ms; the port is down after it (R418). -/
def State.tickPorts (s : State) : State :=
  allPorts.foldl (fun s n =>
    if s.portTrained n.val then s.modPort n Port.lineTick
    else if s.dN (ckPort n.val 1) ≠ 1 then s
    else if (s.portSt n).trainNs + 1 < 100000000 then s.modPort n (fun q => { q with trainNs := q.trainNs + 1 })
    else (s.modPort n (fun q => { q with leftTraining := true, trainNs := 0 })).setDN (ckPort n.val 1) 0) s

/-- Packets that waited for a TAG go when they can. -/
def State.retrySends (s : State) : State :=
  let s := s.liveCores.foldl (fun s c => (s.startQueued c .primary).startQueued c .filler) s
  let todo := s.liveCores.flatMap (fun c => [CtxId.primary, CtxId.filler].flatMap (fun x =>
    ((s.ctx c x).jobs.filter (fun j => !j.queue.isEmpty)).map (fun j => (c, x, j.id, j.engine, j.work))))
  todo.foldl (fun s e =>
    match e.2.2.2.1, e.2.2.2.2 with
    | .transfer, _ => s.pumpOrd e.1 e.2.1 e.2.2.1
    | .coll, _ => s.collPump
    | _, .rq d => s.rqStep (s.asIssued e.1 e.2.1 e.2.2.1) d
    | _, _ => s.pump e.1 e.2.1 e.2.2.1) s

/-- A stack of STACK_DEGRADED is reported: a telemetry message of a record of class NOTE to every partition that owns a region of it. The
manual gives the event no fault code and no detail, so both are free (R331, log entry 91). -/
def State.tellStack (s : State) (d : District) : State :=
  let w := Config.internalWord 6 s.free
  let s := { s.modStack d (fun t => { t with told := true }) with free := s.free + 1 }
  (allParts.filter (fun p => (List.range 64).any (fun r => s.ownsRegion p d.val r))).foldl (fun (s : State) (p : PartId) =>
    let f : FaultInfo := ⟨fldN w 0 8, 2, p, s.oldestStep p, 0xFF, false, fldN w 64 64⟩
    s.telemetry p 2 f.step (leBytes 32 (mkFaultRec s.now s.ownDev f).toNat)) s

/-- Stacks that have been marked since the last look are reported. -/
def State.tellStacks (s : State) : State :=
  (allStacks.filter (fun d => decide (s.dN (dk 0x2500 8) / 2 ^ d.val % 2 = 1) && !(s.stack d).told)).foldl State.tellStack s

/-- The module's clocks run: it is powered and out of reset. -/
def State.running (s : State) : Bool := s.board.pg && !s.board.resetPin

/-- One nanosecond passes. A warm reset that the trusted kernel owes comes at its end (R325, log entry 92). -/
def State.tick (s : State) : State :=
  if !s.running then s
  else
    let s := (((((s.tickCores).incD modTimeKey).tickEnergy).tickReplays).tickPorts).mclTick
    let s := s.retrySends
    let s := if s.board.sfUp then s.tellStacks.leadStep.settle else s
    if s.board.warmDue then s.requestWarm 5 else s

end Sys2Proof.Machine
end

