-- ==== Sys2Proof/Safety.lean ====
section
/-!
DEFINITION. The words that claims are stated in: safe steps, the invariant of every step, when a dispatched command issues, and what a
command leaves as it was.
-/
namespace Sys2Proof.Machine

/-- A step that goes on. -/
def State.Safe (s : State) : Prop := ∃ t, step s = .next t

/-! ## The invariant -/

/-- Every bit that is set in `f` is set in `g`. -/
structure Fuses.Le (f g : Fuses) : Prop where
  lock : f.lock = true → g.lock = true
  debugLock : f.debugLock = true → g.debugLock = true
  arb : f.arb ||| g.arb = g.arb
  hashRsa : f.hashRsa ||| g.hashRsa = g.hashRsa
  hashSlh : f.hashSlh ||| g.hashSlh = g.hashSlh
  partLimit : f.partLimit ||| g.partLimit = g.partLimit

/-- Every owner record agrees with its complement (R298). -/
def State.OwnersOk (s : State) : Prop := ∀ e ∈ s.objs, e.2.ownerOk = true

/-- What holds at reset and after every step: memory is in its canonical form, and every owner record agrees with its complement. -/
structure State.Inv (s : State) : Prop where
  mem : s.mem.wf = true
  owners : s.OwnersOk

/-! ## Dispatched commands (R163, R164) -/

/-- The commands of a slot with the opcodes of their rows (Table 7-2). -/
def slotRows (sl : Slot) (w : W256) : List (Instr × Nat) :=
  [(.nop sl w, 0x00), (.tokset sl w, 0x01), (.tokadd sl w, 0x02), (.cset sl w, 0x03), (.cadd sl w, 0x04), (.loop sl w, 0x05), (.drain sl w, 0x06)] ++
  [(.halt sl w, 0x07), (.phase sl w, 0x08), (.mark sl w, 0x09), (.notify sl w, 0x0A), (.defer sl w, 0x0B), (.stepcommit sl w, 0x0C), (.tensor sl w, 0x10)] ++
  [(.quant sl w, 0x11), (.rq sl w, 0x12), (.vec sl w, 0x13), (.update sl w, 0x14), (.coll sl w, 0x15), (.xd sl w, 0x16), (.syncdump sl w, 0x17)] ++
  [(.copy sl w, 0x18), (.put sl w, 0x19), (.get sl w, 0x1A), (.putsig sl w, 0x1B), (.fill sl w, 0x1C), (.fence sl w, 0x1E), (.puti sl w, 0x1F)] ++
  [(.signal sl w, 0x20), (.syncadd sl w, 0x21), (.syncset sl w, 0x22), (.syncsetClaim sl w, 0x22), (.syncsetRelease sl w, 0x22), (.syncwait sl w, 0x23), (.syncread sl w, 0x24)] ++
  [(.stwrite sl w, 0x28), (.stread sl w, 0x29), (.stpref sl w, 0x2A), (.stpin sl w, 0x2B), (.stunpin sl w, 0x2C), (.stfree sl w, 0x2D)]

/-- The context of a slot. -/
def State.cx (s : State) (sl : Slot) : Ctx := s.ctx sl.core (srcCtx sl.src)

/-- The command of a slot can issue (R164), its opcode is that of its row, and its context may use it (R163). One of the transfer engine
does not wait in the engine's queue: fewer than 16 are in progress there (R173). -/
structure State.Issues (s : State) (sl : Slot) (w : W256) (op : Nat) : Prop where
  go : s.ready sl w = .go
  op : (cOp w).toNat = op
  own : ¬(srcCtx sl.src = .filler ∧ primaryOnly w = true)
  enters : engineOf (cOp w).toNat = .transfer ∨ engineOf (cOp w).toNat = .rq →
    (s.cx sl).moving (s.taken sl w).id < 16 ∧ (s.cx sl).jobs.any Job.isQueued = false

/-- What completing the command adds to token `t` (R165). -/
def sigOf (w : W256) (t : Nat) : W16 := if cSe w ∧ (cSt w).toNat = t then 1 else 0

/-! ## Frames: what a command leaves as it was -/

/-- Only cores changed, and of them only core `c`. -/
structure State.OnlyCore (s t : State) (c : CoreId) : Prop where
  rest : { t with cores := s.cores } = s
  cores : ∀ d, d ≠ c → t.core d = s.core d

/-- Only core `c` changed, and in it only context `x`. -/
structure State.OnlyCtx (s t : State) (c : CoreId) (x : CtxId) : Prop where
  core : s.OnlyCore t c
  ctx : (t.core c).setCtx x (s.ctx c x) = s.core c

/-- The fields of a context that issuing and completing a command without an effect of its own leave (R163 to R165, R180). -/
def Ctx.base (k : Ctx) : Ctx := { k with toks := [], jobs := [], nextId := 0, issued := 0, rsvcnt := 0 }

/-- A core but for the context and the stream, or the deferred queue and the stash references, of a source; a command of the primary
context also ends the quiet time that admits the filler (R175). -/
def Core.without (k : Core) (src : Src) : Core :=
  let k := k.setCtx (srcCtx src) Ctx.reset
  let k := if srcCtx src = .primary then { k with admitted := false, idleCyc := 0 } else k
  match srcStream src with
  | some st => { k.setStream st (Stream.reset .fwd) with dq := { k.dq with guards := [] } }
  | none => { k with dq := Dq.reset, stash := Stash.reset }

/-- A command of a slot has issued, and nothing changed but its core, in it its context, its stream or the deferred queue, and the guards
that its completion drops. -/
structure State.Took (s t : State) (sl : Slot) : Prop where
  only : s.OnlyCore t sl.core
  core : (t.core sl.core).without sl.src = (s.core sl.core).without sl.src
  issued : (t.cx sl).issued = (s.cx sl).issued + 1

/-- As Took, of the cores alone: what else may have changed is said beside it. -/
structure State.TookCore (s t : State) (sl : Slot) : Prop where
  cores : ∀ d, d ≠ sl.core → t.core d = s.core d
  core : (t.core sl.core).without sl.src = (s.core sl.core).without sl.src
  issued : (t.cx sl).issued = (s.cx sl).issued + 1

/-- The command of a slot is in progress. -/
def State.Running (s t : State) (sl : Slot) (w : W256) : Prop := t.job sl.core (srcCtx sl.src) (s.taken sl w).id = some (s.newJob sl w)

/-- The command of a slot has completed: it is in progress no more, and its token has risen (R165). -/
structure State.Ended (s t : State) (sl : Slot) (w : W256) : Prop where
  gone : ∀ j ∈ (t.cx sl).jobs, j.id ≠ (s.taken sl w).id
  tok : ∀ n, (t.cx sl).tok n = (s.cx sl).tok n + sigOf w n

/-- The work of the command of a slot is finished with a status, which COMMAND_COMPLETE completes it with (R166, log entry 12). -/
def State.Worked (s t : State) (sl : Slot) (w : W256) (st : Byte) : Prop :=
  ∃ j, t.job sl.core (srcCtx sl.src) (s.taken sl w).id = some j ∧ j.status = some st

/-- The stream of a slot after its command has issued: HEAD has passed the slot (R155). What an XD now at HEAD has fetched is left out. -/
def State.HeadPassed (s t : State) (sl : Slot) : Prop :=
  ∀ st, srcStream sl.src = some st → { t.stream sl.core st with xd := none } = (s.stream sl.core st).advance

/-- Only entries of the dictionary changed, and of them only those under the keys listed. -/
structure State.OnlyDict (s t : State) (ks : List Nat) : Prop where
  rest : { t with dict := s.dict } = s
  keys : ∀ k, k ∉ ks → t.d k = s.d k

/-- Counter `k` of the dictionary has risen by n, modulo its width (Table 16-3). -/
def State.Counted (s t : State) (k n : Nat) : Prop := t.dN k = (s.dN k + n) % 2 ^ keyWidth k

/-- Every byte outside [k, k + n) reads as before. -/
def Mem.SameOutside (m m' : Mem) (k n : Nat) : Prop := ∀ a, (a < k ∨ k + n ≤ a) → m'.byte a = m.byte a

/-! ## What commands act on -/

/-- The partition of a slot's context. -/
def State.pt (s : State) (sl : Slot) : PartId := s.partD sl.core (srcCtx sl.src)

/-- The stored or dispatched command `x` moves data within this module, by the rules of its opcode, and no check refuses a part of it;
no source unit is a DRAM burst that nothing has written (R171, R19). -/
structure State.Moves (s : State) (sl : Slot) (op : Nat) (x : W256) : Prop where
  ok : s.xOk op x = true
  src : s.isOwn (xSrc x) = true
  dst : s.isOwn (xDst x) = true
  space : aSpace (xSrc x) ≤ 1
  apart : xOverlap (xSrc x) (xDst x) (xLen x) = false
  pass : ∀ e ∈ piecesOf 512 (aOff (xDst x)) (xLen x), s.check (s.pt sl) (xSrc x + BitVec.ofNat 64 e.1) e.2 = .ok ∧
    s.check (s.pt sl) (xDst x + BitVec.ofNat 64 e.1) e.2 = .ok
  known : ∀ u ∈ unitsOf (aKey (xSrc x)) (xLen x), s.mem.unit u ≠ .raw
  wf : s.mem.wf = true

/-- `len` bytes have been copied from key `src` to key `dst`: bytes and poison of every unit, and nothing outside (R171, R219). -/
structure Mem.Copied (m m' : Mem) (src dst len : Nat) : Prop where
  bytes : ∀ i, i < len → m'.byte (dst + i) = m.byte (src + i)
  units : ∀ i, i < len / 64 → m'.unit (dst / 64 + i) = m.unit (src / 64 + i)
  out : m.SameOutside m' dst len

/-- Data has moved as a command asks. -/
def Mem.Moved (m m' : Mem) (x : W256) : Prop := m.Copied m' (aKey (xSrc x)) (aKey (xDst x)) (xLen x)

/-- The checks let partition p copy `len` bytes between two places that lie apart, and no source unit is a DRAM burst that nothing has
written. -/
structure State.Copies (s : State) (p : PartId) (src dst len : Nat) : Prop where
  pass : ∀ e ∈ piecesOf 512 (aOff (keyAddr dst)) len, s.check p (keyAddr src + BitVec.ofNat 64 e.1) e.2 = .ok ∧
    s.check p (keyAddr dst + BitVec.ofNat 64 e.1) e.2 = .ok
  apart : src + len ≤ dst ∨ dst + len ≤ src
  known : ∀ u ∈ unitsOf src len, s.mem.unit u ≠ .raw
  whole : src % 64 = 0 ∧ dst % 64 = 0 ∧ len % 64 = 0 ∧ 0 < len
  wf : s.mem.wf = true

/-- Status of a copy of `len` bytes from key `src`. -/
def Mem.copyStatus (m : Mem) (src len : Nat) : Byte := if ∃ u ∈ unitsOf src len, m.unit u = .poisoned then 0x05 else 0x00

/-- Nothing waits at a stash that is on, its handles differ, and no entry is freed. -/
structure Stash.Quiet (t : Stash) : Prop where
  on : stOff t = false
  waits : t.waits = []
  handles : (t.entries.map (fun e => (e.layer, e.entry))).Nodup
  kept : ∀ e ∈ t.entries, e.freed = false

/-- A stash command has issued: as Took, of the cores alone, but for the stash. -/
structure State.TookStash (s t : State) (sl : Slot) : Prop where
  cores : ∀ d, d ≠ sl.core → t.core d = s.core d
  core : { (t.core sl.core).without sl.src with stash := Stash.reset } = { (s.core sl.core).without sl.src with stash := Stash.reset }
  issued : (t.cx sl).issued = (s.cx sl).issued + 1

/-- Status of a move: OK, or poisoned data when a unit of it is poisoned (R167). -/
def Mem.movedStatus (m : Mem) (x : W256) : Byte :=
  if ∃ u ∈ unitsOf (aKey (xSrc x)) (xLen x), m.unit u = .poisoned then 0x05 else 0x00

/-- Address `a` names object k of core c of this module, the check lets a command of the slot reach it, its owner record is whole, and no
stream of its core waits on it. -/
structure State.SyncAt (s : State) (sl : Slot) (a : W64) (c : CoreId) (k : Nat) : Prop where
  own : s.isOwn a = true
  space : aSpace a = 2
  off : aOff a = c.val * 2 ^ 15 + 8 * k
  idx : k < 4096
  check : s.check (s.pt sl) a 8 = .ok
  owner : (s.obj c k).ownerOk = true
  waits : ∀ st, waitOn (s.stream c st) k = none

/-- What operation `o` does to object k of core c: in the object's period to COUNT, for the period after it to AHEAD, and nothing but a drop
from any other period or from a lost incarnation of the owner (Table 12-2, R293, R296, R299). -/
def State.Synced (s t : State) (c : CoreId) (k : Nat) (o : SyncOp) : Prop :=
  let b := s.obj c k
  let own : BitVec 26 := BitVec.ofNat 26 (2 ^ 25 + o.dev.toNat * 2 ^ 9 + o.unit.toNat * 2 + b2n o.ctx)
  let ahead := (o.per + 256 - s.periodOf c (s.objCtx c k) % 256) % 256
  let stale := b.claimed = true ∧ b.owner = own ∧ o.epoch ≠ b.epoch ∧ ¬(o.kind = .claim ∧ newerEpoch o.epoch b.epoch = true)
  { t with cores := s.cores, objs := s.objs, dict := s.dict } = s ∧ (∀ d n, n < 4096 → (d, n) ≠ (c, k) → t.obj d n = s.obj d n) ∧
    if stale ∨ 1 < ahead then
      (t.obj c k).count = b.count ∧ (t.obj c k).ahead = b.ahead ∧ (t.obj c k).owner = b.owner ∧ (t.obj c k).epoch = b.epoch ∧
        (t.obj c k).drops.toNat = Nat.min 0xFFFF (b.drops.toNat + 1) ∧ s.Counted t (dkx 0x2900 (s.objPart c k) (if stale then 5 else 6)) 1
    else t.dict = s.dict ∧ (t.obj c k).drops = b.drops ∧ match o.kind with
      | .add => t.obj c k = if ahead = 0 then { b with count := b.count + o.value } else { b with ahead := b.ahead + o.value }
      | .set => t.obj c k = if ahead = 0 then { b with count := o.value } else { b with ahead := o.value, ahset := true }
      | .claim => (t.obj c k).owner = own ∧ (t.obj c k).ownerN = ~~~own ∧ (t.obj c k).epoch = o.epoch ∧
          (if ahead = 0 then (t.obj c k).count = o.value ∧ (t.obj c k).ahead = b.ahead
           else (t.obj c k).count = b.count ∧ (t.obj c k).ahead = o.value ∧ (t.obj c k).ahset = true)
      | .release => t.obj c k = { b with owner := 0, ownerN := ~~~0 }

/-! ## The fabric -/

/-- A packet for this module has arrived with a good HCHK (R234, R236). -/
structure State.Arrives (s : State) (p : Packet) : Prop where
  id : s.ownDev ≠ 0xFFFF
  hchk : hchkOk p.hdr = true
  dst : pDst p.hdr = s.ownDev

/-- A request of a module of the own rack has arrived on plane n, not on TC-BLK, and a response can leave there at once (R244, R246). -/
structure State.FromPlane (s : State) (p : Packet) (n : PortId) : Prop where
  here : s.Arrives p
  port : p.port = some n
  plane : n.val < 8
  rack : rackOf (pSrc p.hdr) = rackOf s.ownDev
  tc : pTc p.hdr ≠ 2
  active : s.portActive n = true
  credit : 33 ≤ (s.portSt n).credit 12
  clear : (s.portSt n).txq = [] ∧ (s.portSt n).swapping = false

/-- A response has left on port n: its opcode, its status, its poison and its data (R239). -/
def State.Answered (s t : State) (p : Packet) (n : PortId) (opc status : Nat) (psn : Byte) (data : List W128) : Prop :=
  ∃ h, t.out = s.out ++ [.packet n ⟨h, data, none⟩] ∧ hchkOk h = true ∧ pSrc h = s.ownDev ∧ pDst h = pSrc p.hdr ∧ pTag h = pTag p.hdr ∧
    pOpc h = opc ∧ pTc h = 3 ∧ pPart h = pPart p.hdr ∧ pPsn h = psn ∧ fldN (pAddr h) 26 4 = status

/-- A transfer command of this module, whose packets have all been sent, awaits the response to request r; no command of its core has
packets to send. -/
structure State.Awaits (s : State) (r : Req) (j : Job) : Prop where
  job : s.job r.core r.ctx r.job = some j
  engine : j.engine = .transfer
  work : j.work = .none
  open' : j.status = none
  queues : ∀ x, ∀ i ∈ (s.ctx r.core x).jobs, i.queue = []

/-- Request k has its response: it is outstanding no more, and every other one is as it was. -/
structure State.Responded (s t : State) (k : Nat) : Prop where
  gone : t.req k = none
  rest : ∀ n, n ≠ k → t.req n = s.req n

/-- No partition has a plan that waits for its ports, or groups to be loaded again (R258, R417). -/
def State.NoPlanWaits (s : State) : Prop := ∀ p, s.dN (dkx 0x2330 p 3) ≠ 1 ∧ (s.part p).groupReq = false

/-- Port n went down, and what it held is lost; nothing else changed, but for its count of replays (R227). -/
structure State.WentDown (s t : State) (n : PortId) : Prop where
  rest : { t with ports := s.ports, dict := s.dict } = s
  state : t.dN (dk (0x2301 + n.val) 1) = 0
  dict : ∀ k, k ≠ dk (0x2301 + n.val) 1 → k ≠ dk (0x2301 + n.val) 8 → t.d k = s.d k
  port : t.portSt n = { Port.reset with leftTraining := (s.portSt n).leftTraining }
  ports : ∀ m, m ≠ n → t.portSt m = s.portSt m

/-- A message of `len` units to module d of the own rack can leave at once, on the one plane that is active (R246, R436). -/
structure State.MayTell (s : State) (d : W16) (n : PortId) (len : Nat) : Prop where
  own : s.ownDev ≠ 0xFFFF
  rack : rackOf s.ownDev = rackOf d
  plane : n.val < 8
  active : s.portActive n = true
  only : ∀ m : PortId, m.val < 8 → m ≠ n → s.portActive m = false
  credit : len + 1 ≤ (s.portSt n).credit 16
  clear : (s.portSt n).txq = [] ∧ (s.portSt n).swapping = false

/-- A message has left for module d on port n, and it is the only one (R388). -/
def State.Told (s t : State) (d : W16) (n : PortId) (units : List W128) : Prop :=
  ∃ h, t.out = s.out ++ [.packet n ⟨h, units, none⟩] ∧ hchkOk h = true ∧ pOpc h = 0x14 ∧ pTc h = 4 ∧ pSrc h = s.ownDev ∧ pDst h = d

/-- Every undecided step of partition p is void, and LAST_VOID names step n; nothing else changed (R320). -/
structure State.Voided (s t : State) (p : PartId) (n : W64) : Prop where
  gate : (t.part p).gate = { (s.part p).gate with
    voidFrom := some (s.part p).gate.step
    dirty0 := none
    dirty1 := none
    closed0 := false
    closed1 := false }
  last : t.d (dkx 0x2510 p 9) = n
  state : t.dN (dkx 0x2510 p 8) = 4
  parts : ∀ q, q ≠ p → t.part q = s.part q
  dict : ∀ k, k ∉ [dkx 0x2510 p 8, dkx 0x2510 p 9] → t.d k = s.d k
  rest : { t with dict := s.dict, parts := s.parts } = s

/-! ## The dictionary -/

/-- The dictionary server may write the entries of partition p over route r (Table 15-3, R361). -/
structure State.GrantsPart (s : State) (r : Route) (p : PartId) : Prop where
  serves : s.serverBusy = false
  conf : s.configured p = true
  route : r = .can ∨ r = .fabric p ∨ (r = .mcl p ∧ (s.d (dk 0x2A00 9)).getLsbD p.val = true)

/-- The dictionary server may write the entries of the module over route r (Table 15-3, R361). -/
structure State.GrantsModule (s : State) (r : Route) : Prop where
  serves : s.serverBusy = false
  route : r = .can ∨ ∃ p, s.configured p = true ∧ s.dN (dk 0x2600 2) = p.val ∧
    (r = .fabric p ∨ (r = .mcl p ∧ (s.d (dk 0x2A00 9)).getLsbD p.val = true))

/-! ## The board -/

/-- Bit `bit` of RESET_CAUSE has become v, and ALERT has gone out if this asserts it; beside it only entries of the dictionary changed
(R408). -/
structure State.Condition (s t : State) (bit : Nat) (v : Bool) : Prop where
  cause : ∀ n, n < 16 → t.board.cause.getLsbD n = if n = bit then v else s.board.cause.getLsbD n
  alert : t.out = s.out ++ (if t.board.alert = true ∧ s.board.alert = false then [.alert] else [])
  board : { t.board with cause := s.board.cause } = s.board
  rest : { t with board := s.board, out := s.out, dict := s.dict } = s

/-- What lives only on the module is lost: memory, cores, objects, partitions, requests, ports, logs and clock are as at power-up; the
images in flash and the queue of commands stay (Table 18-5). -/
structure State.Cleared (s t : State) : Prop where
  mem : t.mem = Mem.reset
  lost : t.cores = [] ∧ t.objs = [] ∧ t.parts = [] ∧ t.reqs = [] ∧ t.ports = [] ∧ t.faults = [] ∧ t.caps = [] ∧ t.dists = []
  now : t.now = 0
  flash : t.sec.tkA = s.sec.tkA ∧ t.sec.tkB = s.sec.tkB ∧ t.sec.sfA = s.sec.sfA ∧ t.sec.sfB = s.sec.sfB
  doc : t.sec.lastDoc = none
  queue : t.pending = s.pending

/-- No filler work is admitted in district d (R404). -/
def State.NoFiller (s : State) (d : District) : Prop := s.fillerAdmitted d = false

/-! ## The companion link -/

/-- Of the module only the companion link changed, and nothing has left but the messages `ms`. -/
structure State.Sent (s t : State) (ms : List MclMsg) : Prop where
  out : t.out = s.out ++ ms.map Out.mcl
  rest : { t with mcl := s.mcl, out := s.out } = s

/-- Of the link only the messages that wait for its flits changed. -/
def State.LinkIdle (s t : State) : Prop := { t.mcl with toSend := s.mcl.toSend } = s.mcl

/-- A message is the response to `m`: the same TAG and PART, its opcode, status, poison and data (R341). -/
def IsAnswer (r m : MclMsg) (opc status : Nat) (psn : Byte) (lines : List (BitVec 512)) : Prop :=
  mOpc r.hdr = opc ∧ mTag r.hdr = mTag m.hdr ∧ mPart r.hdr = mPart m.hdr ∧ mStatus r.hdr = status ∧ mPsn r.hdr = psn ∧ r.lines = lines

/-- The link is active, nothing waits for it, and no response is outstanding. -/
structure State.LinkClear (s : State) : Prop where
  active : s.mclActive = true
  queue : s.mcl.queue = []
  reqs : s.mcl.reqs = []

/-- Block `b` of ring `w` has been accepted, has not started, may start, and breaks no rule of its kind (R345 to R347). -/
structure State.Starts (s : State) (w : Win) (b : Block) (kind : Nat) : Prop where
  win : w ∈ s.windows ∧ w.kind = 1
  blk : s.blk w.idx b.seq = some b
  kind : bKind b.w = kind
  fresh : b.started = false ∧ b.outst = 0 ∧ b.next = 0 ∧ b.moved = 0 ∧ b.fail = none ∧ b.status = none
  may : s.mayStart w.idx b = true
  ok : s.blkBad w b.w = none

/-! ## Element instructions (R135 to R137, R151) -/

/-- Lane j of an operand; s, a and c registers are the same in every lane. -/
def Prog.lane (p : Prog) (row : Nat) (r : Reg) (j : Nat) : W32 := (p.lanes row r).getD j 0

/-- Lane j of operand n of an instruction. -/
def Ctx.opnd (k : Ctx) (op : Nat) (w : W32) (n j : Nat) : W32 := k.prog.lane k.pos.row ((elemUses op w).getD n (.c 0)) j

/-- Lane j is active (R137). -/
def Ctx.act (k : Ctx) (w : W32) (j : Nat) : Bool := (k.active w).getLsbD j

/-- Register r has the values `val`: a v register in the lanes `act`, another once; every other register and lane is as it was. -/
structure Prog.Wrote (p q : Prog) (row : Nat) (r : Reg) (act : Nat → Bool) (val : Nat → W32) : Prop where
  v : ∀ n j, n < 16 → j < 128 → q.lane row (.v n) j = if r = .v n ∧ act j = true then val j else p.lane row (.v n) j
  s : ∀ n, n < 8 → q.scalar row (.s n) = if r = .s n then val 0 else p.scalar row (.s n)
  a : ∀ i n, n < 4 → q.scalar i (.a n) = if i = row ∧ r = .a n then val 0 else p.scalar i (.a n)
  rest : q.c = p.c ∧ q.m0 = p.m0 ∧ q.m1 = p.m1 ∧ q.m2 = p.m2 ∧ q.m3 = p.m3

/-- Register r is marked when a source was, cleared by a whole write from sources that were not, and else as before; every other mark is
as it was (R151). -/
structure Prog.Marked (p q : Prog) (row : Nat) (r : Reg) (src whole : Bool) : Prop where
  here : ∀ n, n < 32 → q.marked row (regOf n) = if regOf n = r then src || (p.marked row r && !whole) else p.marked row (regOf n)
  rows : ∀ i n, i ≠ row → n < 4 → q.marked i (.a n) = p.marked i (.a n)

/-- An instruction wrote its register D with the values `val`, and changed nothing else of its context but the vector engine's status. -/
structure Ctx.Wrote (k k' : Ctx) (op : Nat) (w : W32) (val : Nat → W32) : Prop where
  regs : k.prog.Wrote k'.prog k.pos.row (regOf (eD w)) (k.act w) val
  marks : k.prog.Marked k'.prog k.pos.row (regOf (eD w)) (k.srcMark op w) (!(regOf (eD w)).isV || k.active w == BitVec.allOnes 128)
  rest : { k' with prog := k.prog, vec := k.vec } = k

/-- Of the vector engine's registers only the exception flags changed: the flags `fl` were added. -/
structure Ctx.Flagged (k k' : Ctx) (fl : Flags) : Prop where
  flags : k'.vec.flags = k.vec.flags.or fl
  rest : { k'.vec with flags := k.vec.flags } = k.vec

/-- Flags of the lanes that are active, for a v register, or of the one result. -/
def Ctx.laneFlags (k : Ctx) (w : W32) (f : Nat → Flags) : Flags :=
  if (regOf (eD w)).isV then Flags.join ((List.range 128).map (fun j => if k.act w j then f j else {})) else f 0

/-- Column and value of every active lane of operand A, in lane order. -/
def Ctx.lanesOf (k : Ctx) (op : Nat) (w : W32) : List (W32 × W32) :=
  ((List.range 128).filter (k.act w)).map (fun j => (k.pos.col0 + BitVec.ofNat 32 j, k.opnd op w 0 j))

/-- The vector engine's command `id` has left the engine with a status. -/
structure State.VecLeft (s t : State) (c : CoreId) (x : CtxId) (id : Nat) (st : Byte) : Prop where
  gone : ∀ j ∈ (t.ctx c x).vecq, j.id ≠ id
  status : ∀ j, s.job c x id = some j → ∃ i, t.job c x id = some i ∧ i.status = some st

/-- `got` is at most as far from the exact value as `other` is. -/
def nearer (exact got other : Int) : Prop := (exact - got).natAbs ≤ (exact - other).natAbs

end Sys2Proof.Machine
end

