-- ==== Sys2Proof/Certificates/Slice0/Obligations.lean ====
section
/-!
DEFINITION. The statements for the provers. Where a command of a stream is stated to answer `t.settle`, `t` is the state after its own
effect, and `settle` completes what waited for other commands only; DispatchSettle says what that leaves as it was.
-/
open Sys2Proof Sys2Proof.Machine

/-! ## The block -/

/-- The block takes the command at the front of its queue: a step is its effect on the state with the queue's rest. -/
def Obligations.StepRunsFront : Prop :=
  ∀ (c : Instr) (q : List Instr) (s : State), s.pending = c :: q → step s = exec c { s with pending := q }

/-- On an empty queue the block idles for a nanosecond (the model's choice, log entry 1): a module that is not powered and out of reset is
as it was; else MODULE_TIME rises by 1, where the service firmware does not run, no reset is due and no command has packets that wait. -/
def Obligations.IdleStep : Prop :=
  ∀ s : State, s.pending = [] →
    (s.running = false → step s = .next s) ∧
    (s.running = true → ∃ t, step s = .next t ∧ t.pending = [] ∧
      (s.board.sfUp = false → s.board.warmDue = false → (∀ c x, ∀ j ∈ (s.ctx c x).jobs, j.queue = [] ∧ j.isQueued = false) →
        t.now = s.now + 1))

/-- Memory is in its canonical form and every owner record agrees with its complement at reset. -/
def Obligations.ResetInvariant : Prop := State.reset.Inv

/-- Every step keeps the invariant, in every state. -/
def Obligations.StepKeepsInvariant : Prop := ∀ s t : State, s.Inv → step s = .next t → t.Inv

/-- No command stops the model but a debug instruction of P-JTAG while DEBUG_LOCK is clear, which the manual does not describe (R391). No
command takes back what the module has driven, and none touches the queue. The model's choices in it: log entries 10 and 83. -/
def Obligations.CommandsAnswer : Prop :=
  (∀ (c : Instr) (s : State), (∀ ir, c ≠ .jtagInstruction ir) → ∃ t, exec c s = .next t) ∧
  (∀ (c : Instr) (s t : State), exec c s = .next t → s.out <+: t.out ∧ t.pending = s.pending)

/-- Fuses are only ever set: no step clears a bit of them (R375). -/
def Obligations.FusesOnlySet : Prop := ∀ s t : State, step s = .next t → s.sec.fuses.Le t.sec.fuses

/-! ## The dispatcher -/

/-- A command that its source does not offer, that is not at its head, that waits, or that another command goes before, changes nothing
(R156, R164). Of each opcode of Table 7-2. The model's choices in it: log entry 20. -/
def Obligations.NotReadyWaits : Prop :=
  ∀ (sl : Slot) (w : W256) (s : State), ∀ e ∈ slotRows sl w, s.ready sl w ≠ .go → exec e.1 s = .next s

/-- A slot that holds a command of another row is none of this row. A command with an unassigned opcode, and a filler command that only the
primary context has, completes with status opcode error (0x04), and does nothing but complete and signal (R163); the status halts the context and is recorded unless ERRCONT is set (R167). HEAD
passes its slot, and with a DEFER of the filler those of its group too (R169). The model's choices in it: log entry 11. -/
def Obligations.OpcodeError : Prop :=
  ∀ (sl : Slot) (w : W256) (s : State), ∀ e ∈ slotRows sl w,
    ((cOp w).toNat ≠ e.2 → assigned (cOp w).toNat = true → exec e.1 s = .next s) ∧
    (s.ready sl w = .go → assigned (cOp w).toNat = false ∨ ((cOp w).toNat = e.2 ∧ srcCtx sl.src = .filler ∧ primaryOnly w = true) →
    ∃ t, exec e.1 s = .next t.settle ∧ t.mem = s.mem ∧ t.objs = s.objs ∧
      (∀ j ∈ (t.cx sl).jobs, j.id ≠ (s.taken sl w).id) ∧ (∀ n, (t.cx sl).tok n = (s.cx sl).tok n + sigOf w n) ∧
      (∀ st, srcStream sl.src = some st → (t.stream sl.core st).head = ((s.stream sl.core st).head + 1 +
        (if (cOp w).toNat = e.2 ∧ cOp w = 0x0B then cNcmd w else 0)) % (s.stream sl.core st).slots) ∧
      ((s.cx sl).errcont = true → s.Took t sl ∧ (cOp w ≠ 0x0B → s.HeadPassed t sl)) ∧
      ((s.cx sl).errcont = false → (t.cx sl).halted = true ∧
        ((s.cx sl).errSet = false → fldN (t.cx sl).err 24 8 = 0x04 ∧ fldN (t.cx sl).err 16 8 = (cOp w).toNat ∧
          (t.cx sl).errslot = BitVec.ofNat 32 (s.taken sl w).slot)))

/-- What completes when other commands have, DRAIN, FENCE and STEPCOMMIT, touches cores and synchronisation objects only, where no object's
owner record fails its complement (R298); where no command of these waits, nothing. -/
def Obligations.DispatchSettle : Prop :=
  ∀ s : State, (s.OwnersOk → { s.settle with cores := s.cores, objs := s.objs } = s ∧ s.settle.OwnersOk) ∧
    ((∀ c st, (s.stream c st).wait = none) → (∀ c x, (s.ctx c x).fences = []) → s.settle = s)

/-- NOP, TOKSET and TOKADD: the tokens of the context afterwards, the signal of the command included; nothing else of the context, of the
core or of the module changes (R158, R165). CSET, CADD and LOOP of a stream: the counter afterwards, and where HEAD goes; RETIRE is the
oldest slot that a LOOP can still return to (R155, R168). PHASE
declares the phase of its stream (Table 7-2). HALT halts the context and writes VAL to CTX.HALTCODE; it leaves CTX.ERR and CTX.ERRSLOT as
they were (R167). -/
def Obligations.SimpleCommands : Prop :=
  (∀ (sl : Slot) (w : W256) (s : State),
    (s.Issues sl w 0x00 → ∃ t, exec (.nop sl w) s = .next t.settle ∧ s.Took t sl ∧ s.HeadPassed t sl ∧ (t.cx sl).base = (s.cx sl).base ∧
      ∀ n, (t.cx sl).tok n = (s.cx sl).tok n + sigOf w n) ∧
    (s.Issues sl w 0x01 → ∃ t, exec (.tokset sl w) s = .next t.settle ∧ s.Took t sl ∧ s.HeadPassed t sl ∧
      (t.cx sl).base = (s.cx sl).base ∧
      ∀ n, (t.cx sl).tok n = (if n = cIdx w then fld (cVal w) 0 16 else (s.cx sl).tok n) + sigOf w n) ∧
    (s.Issues sl w 0x02 → ∃ t, exec (.tokadd sl w) s = .next t.settle ∧ s.Took t sl ∧ s.HeadPassed t sl ∧
      (t.cx sl).base = (s.cx sl).base ∧
      ∀ n, (t.cx sl).tok n = (s.cx sl).tok n + (if n = cIdx w then fld (cVal w) 0 16 else 0) + sigOf w n)) ∧
  (∀ (sl : Slot) (w : W256) (s : State) (st : StreamId), srcStream sl.src = some st → cIdx w ≤ 7 →
    (s.Issues sl w 0x03 → ∃ t, exec (.cset sl w) s = .next t.settle ∧ s.Took t sl ∧ (t.cx sl).base = (s.cx sl).base ∧
      (∀ n, (t.cx sl).tok n = (s.cx sl).tok n + sigOf w n) ∧
      { t.stream sl.core st with xd := none } = (s.stream sl.core st).advance.setCounter (cIdx w) (cVal w)) ∧
    (s.Issues sl w 0x04 → ∃ t, exec (.cadd sl w) s = .next t.settle ∧ s.Took t sl ∧ (t.cx sl).base = (s.cx sl).base ∧
      (∀ n, (t.cx sl).tok n = (s.cx sl).tok n + sigOf w n) ∧
      { t.stream sl.core st with xd := none } = (s.stream sl.core st).advance.setCounter (cIdx w) ((s.stream sl.core st).counter (cIdx w) + cVal w)) ∧
    (s.Issues sl w 0x05 → 0 < cOff w → cOff w < (s.stream sl.core st).slots →
      ∃ t, exec (.loop sl w) s = .next t.settle ∧ s.Took t sl ∧ (t.cx sl).base = (s.cx sl).base ∧
      (∀ n, (t.cx sl).tok n = (s.cx sl).tok n + sigOf w n) ∧
      ((s.stream sl.core st).counter (cIdx w) = 0 → (t.stream sl.core st).cnt = (s.stream sl.core st).cnt ∧
        (t.stream sl.core st).head = ((s.stream sl.core st).head + 1) % (s.stream sl.core st).slots ∧
        (t.stream sl.core st).loops = (s.stream sl.core st).loops.filter (fun e => e.1 != (s.stream sl.core st).head) ∧
        (t.stream sl.core st).retire = (t.stream sl.core st).retireAt) ∧
      ((s.stream sl.core st).counter (cIdx w) ≠ 0 →
        (t.stream sl.core st).counter (cIdx w) = (s.stream sl.core st).counter (cIdx w) - 1 ∧
        (∀ n, n ≠ cIdx w → (t.stream sl.core st).counter n = (s.stream sl.core st).counter n) ∧
        (t.stream sl.core st).head = ((s.stream sl.core st).head + (s.stream sl.core st).slots - cOff w) % (s.stream sl.core st).slots ∧
        (t.stream sl.core st).loops = ((s.stream sl.core st).head, (t.stream sl.core st).head) ::
          (s.stream sl.core st).loops.filter (fun e => e.1 != (s.stream sl.core st).head) ∧
        (t.stream sl.core st).retire = (t.stream sl.core st).retireAt))) ∧
  (∀ (sl : Slot) (w : W256) (s : State) (st : StreamId), srcStream sl.src = some st →
    (∀ p, phaseCode (cIdx w) = some p → s.Issues sl w 0x08 → ∃ t, exec (.phase sl w) s = .next t.settle ∧ s.Took t sl ∧
      (t.cx sl).base = (s.cx sl).base ∧ (∀ n, (t.cx sl).tok n = (s.cx sl).tok n + sigOf w n) ∧
      { t.stream sl.core st with xd := none } = { (s.stream sl.core st).advance with phase := p }) ∧
    (s.Issues sl w 0x07 → ∃ t, exec (.halt sl w) s = .next t.settle ∧ s.Took t sl ∧ s.HeadPassed t sl ∧
      (∀ n, (t.cx sl).tok n = (s.cx sl).tok n + sigOf w n) ∧ (t.cx sl).halted = true ∧ (t.cx sl).haltcode = cVal w ∧
      { t.cx sl with halted := (s.cx sl).halted, haltcode := (s.cx sl).haltcode, resumeAt := (s.cx sl).resumeAt }.base = (s.cx sl).base))

/-- DRAIN and STEPCOMMIT hold their stream when they issue (R166, R170), and FENCE is remembered with its scope (R172); the command is in
progress, and nothing else changes. A SYNCWAIT on an object of its own core and partition whose condition does not hold keeps its stream,
with the object's epoch recorded; one whose condition holds completes, and TAKE subtracts VAL (R294). No other stream of the core waits on
the object. -/
def Obligations.HoldingCommands : Prop :=
  (∀ (sl : Slot) (w : W256) (s : State) (st : StreamId), srcStream sl.src = some st →
    (s.Issues sl w 0x06 → ∃ t, exec (.drain sl w) s = .next t.settle ∧ s.Took t sl ∧ s.Running t sl w ∧
      (t.cx sl).base = (s.cx sl).base ∧ (t.cx sl).toks = (s.cx sl).toks ∧
      { t.stream sl.core st with xd := none } = { (s.stream sl.core st).advance with wait := some (.drain (s.taken sl w).id (cScope w)) }) ∧
    (s.Issues sl w 0x0C → ∃ t, exec (.stepcommit sl w) s = .next t.settle ∧ s.Took t sl ∧ s.Running t sl w ∧
      (t.cx sl).base = (s.cx sl).base ∧ (t.cx sl).toks = (s.cx sl).toks ∧
      { t.stream sl.core st with xd := none } = { (s.stream sl.core st).advance with wait := some (.commit (s.taken sl w).id (cWg w) (s.cx sl).step) }) ∧
    (s.Issues sl w 0x1E → ∃ t, exec (.fence sl w) s = .next t.settle ∧ s.Took t sl ∧ s.HeadPassed t sl ∧ s.Running t sl w ∧
      (t.cx sl).toks = (s.cx sl).toks ∧
      (t.cx sl).fences = (s.cx sl).fences ++ [((s.taken sl w).id, if cScope w then none else some st)] ∧
      { t.cx sl with fences := (s.cx sl).fences }.base = (s.cx sl).base)) ∧
  (∀ (sl : Slot) (w : W256) (s : State) (st : StreamId) (k : Nat), srcStream sl.src = some st → s.Issues sl w 0x23 →
    s.isOwn (sObj w) = true → aSpace (sObj w) = 2 → aRsvd (sObj w) = 0 → aOff (sObj w) = sl.core.val * 2 ^ 15 + 8 * k → k < 4096 →
    sCond w ≠ 3 → (s.ctx sl.core (s.objCtx sl.core k)).part = (s.cx sl).part →
    (∀ st', st' ≠ st → waitOn (s.stream sl.core st') k = none) →
    ∃ t, exec (.syncwait sl w) s = .next t.settle ∧
      (condMet (sCond w) (s.obj sl.core k).count (fld (sVal w) 0 48) = false →
        s.Took t sl ∧ s.Running t sl w ∧ (t.cx sl).toks = (s.cx sl).toks ∧ t.objs = s.objs ∧
        ∃ wd, (t.stream sl.core st).wait =
          some (.sync (s.taken sl w).id k (sCond w) (fld (sVal w) 0 48) (s.obj sl.core k).epoch s.now false wd)) ∧
      (condMet (sCond w) (s.obj sl.core k).count (fld (sVal w) 0 48) = true →
        (t.stream sl.core st).wait = none ∧ (∀ j ∈ (t.cx sl).jobs, j.id ≠ (s.taken sl w).id) ∧
        (∀ n, (t.cx sl).tok n = (s.cx sl).tok n + sigOf w n) ∧
        (t.obj sl.core k).count =
          (if sCond w = 2 then (s.obj sl.core k).count - fld (sVal w) 0 48 else (s.obj sl.core k).count)))

/-- A STEPCOMMIT that a context holds and that has drained completes once its gates let it: the step value advances, the statistics are
taken, the phase timers of a primary context start again, the token rises (R147, R170, R202). Objects of the context on its core re-base
when the new step is a multiple of REBASE_N, and keep their values else (R299). The model's choices in it: log entry 25. -/
def Obligations.StepcommitCompletes : Prop :=
  ∀ (s : State) (c : CoreId) (x : CtxId) (st : StreamId) (id : Nat) (wg : Bool) (j : Job) (p : PartId),
    (s.ctx c x).part = some p → s.heldCommit c x = some (st, id, wg) → (s.ctx c x).job id = some j →
    (∀ st' ∈ streamsOf x, ∀ d b, (s.stream c st').wait ≠ some (.drain d b)) → (s.ctx c x).fences = [] →
    (∀ st' k, waitOn (s.stream c st') k = none) → s.commitDrained c x id = true →
    ((s.ctx c x).step = 0 ∨ (s.part p).gate.committed ((s.ctx c x).step - 1) = true) →
    (wg = true → (s.part p).gate.committed (s.ctx c x).step = true) → (s.part p).gate.voidFrom = none →
    s.OwnersOk →
    ∃ t, s.settleCtx c x = some t ∧ { t with cores := s.cores, objs := s.objs } = s ∧ (∀ d, d ≠ c → t.core d = s.core d) ∧
      (t.ctx c x).step = (s.ctx c x).step + 1 ∧ (t.stream c st).wait = none ∧ (∀ i ∈ (t.ctx c x).jobs, i.id ≠ j.id) ∧
      (∀ n, (t.ctx c x).tok n = (s.ctx c x).tok n + (if j.se = true ∧ j.st.toNat = n then 1 else 0)) ∧
      (∀ n, n < 64 → (t.ctx c x).staOf n = { (s.ctx c x).staOf n with
        snap := ((s.ctx c x).staOf n).val, snapPsn := ((s.ctx c x).staOf n).psn, val := staIdent ((s.ctx c x).staOf n).kind, psn := false }) ∧
      (x = .primary → (t.core c).lastTimers = (s.core c).timers ∧ (t.core c).timers = []) ∧
      (∀ k, k < 4096 → t.obj c k =
        if s.objCtx c k = x ∧ s.rebaseN p ≠ 0 ∧ ((s.ctx c x).step + 1).toNat % s.rebaseN p = 0 then
          { s.obj c k with count := (s.obj c k).ahead, ahead := 0, ahset := false }
        else s.obj c k) ∧
      (∀ d k, d ≠ c → k < 4096 → t.obj d k = s.obj d k)

/-- MARK writes module time, VAL and the step as 16 bytes (R158), and SYNCREAD the object word as 8 (R291), where the checks let them; the
block is merged, and no other byte changes. NOTIFY posts a completion record with its code and is in progress until the record is
acknowledged (R348). With the link down the record waits (R354); with the link up, a record window with room and nothing waiting, it is
written at its place in the window. DEFER posts the commands after it as one group, with a guard for every range that they need guarded, and
HEAD passes them all (R169, R189). The model's choices in it: log entries 31 and 39. -/
def Obligations.RecordsAndDeferral : Prop :=
  (∀ (sl : Slot) (w : W256) (s : State),
    (s.Issues sl w 0x09 → cAddr w % 16 = 0 → cAddr w + 16 ≤ 0x400000 → s.check (s.pt sl) (coreAddr sl.core (cAddr w)) 16 = .ok →
      ∃ t, exec (.mark sl w) s = .next t.settle ∧ s.TookCore t sl ∧ s.Ended t sl w ∧
        { t with cores := s.cores, mem := s.mem, dict := s.dict, stackSts := s.stackSts } = s ∧
        t.mem.bytes (ckey sl.core (cAddr w)) 16 =
          leBytes 8 s.now.toNat ++ leBytes 4 (cVal w).toNat ++ leBytes 4 ((s.cx sl).step.toNat % 2 ^ 32) ∧
        s.mem.SameOutside t.mem (ckey sl.core (cAddr w)) 16) ∧
    (∀ c k, s.Issues sl w 0x24 → s.SyncAt sl (sObj w) c k → sAddr w % 8 = 0 → s.check (s.pt sl) (coreAddr sl.core (sAddr w)) 8 = .ok →
      ∃ t, exec (.syncread sl w) s = .next t.settle ∧ s.TookCore t sl ∧ s.Worked t sl w 0x00 ∧
        { t with cores := s.cores, mem := s.mem, dict := s.dict, stackSts := s.stackSts } = s ∧
        t.mem.bytes (ckey sl.core (sAddr w)) 8 = leBytes 8 ((s.obj c k).epoch.toNat * 2 ^ 48 + (s.obj c k).count.toNat) ∧
        s.mem.SameOutside t.mem (ckey sl.core (sAddr w)) 8)) ∧
  (∀ (sl : Slot) (w : W256) (s : State), s.Issues sl w 0x0A →
    ∃ t rec, exec (.notify sl w) s = .next t.settle ∧ s.TookCore t sl ∧ s.Running t sl w ∧ 
      { t with cores := s.cores, mcl := s.mcl, out := s.out, dict := s.dict } = s ∧
      fld rec 192 64 = (cVal2 w ++ cVal w : W64) ∧ fldN rec 88 8 = 2 ∧ fldN rec 72 8 = sl.core.val ∧ fldN rec 64 4 = (s.pt sl).val ∧
      (s.mclActive = false → t.out = s.out ∧
        t.mcl.queue = s.mcl.queue ++ [.record (s.pt sl) rec false (some (sl.core, srcCtx sl.src, (s.taken sl w).id))]) ∧
      (∀ v g, s.mclActive = true → s.mcl.queue = [] → s.winOf (s.pt sl) 2 = some v → v.nirq = false → s.recordRoom (s.pt sl) v = true →
        s.mcl.freeTag = some g → ∃ m, t.out = s.out ++ [.mcl m] ∧ t.mcl.queue = [] ∧ mOpc m.hdr = 0x03 ∧ mTag m.hdr = g ∧
          (mAddr m.hdr).toNat = (v.base + 4096 + 64 * ((s.mcl.compOf (s.pt sl)).prod % ((v.size - 4096) / 64))) % 2 ^ 64 ∧
          m.lines.map (fun l => fldN l 0 504) = [fldN rec 0 504] ∧ (t.mcl.compOf (s.pt sl)).prod = (s.mcl.compOf (s.pt sl)).prod + 1)) ∧
  (∀ (sl : Slot) (w : W256) (s : State) (st : StreamId), srcStream sl.src = some st → s.Issues sl w 0x0B →
    s.deferHold sl.core st (cNcmd w) = none → (∀ v ∈ s.groupWords sl.core st (cNcmd w), deferrable (cOp v).toNat = true) →
    (((s.groupWords sl.core st (cNcmd w)).map (fun v => (s.guardsOf sl.core v (descOff (s.stream sl.core st) v)).length)).sum ≤ 128) →
    ∃ t g, exec (.defer sl w) s = .next t.settle ∧ s.OnlyCore t sl.core ∧ s.Ended t sl w ∧ (s.cx sl).issued + 1 = (t.cx sl).issued ∧
      (t.core sl.core).dq.groups = (s.core sl.core).dq.groups ++ [g] ∧ g.map DCmd.w = s.groupWords sl.core st (cNcmd w) ∧
      g.map DCmd.desc = (s.groupWords sl.core st (cNcmd w)).map (descOff (s.stream sl.core st)) ∧
      (∀ d ∈ g, ∀ r ∈ s.guardsOf sl.core d.w d.desc, ∃ q ∈ (t.core sl.core).dq.guards, q.id = d.id ∧ q.lo = r.1 ∧ q.hi = r.2) ∧
      (t.core sl.core).dq.posts = (s.core sl.core).dq.posts + 1 ∧
      (t.stream sl.core st).head = ((s.stream sl.core st).head + 1 + cNcmd w) % (s.stream sl.core st).slots)

/-! ## Data movement -/

/-- A command that breaks the rules of its format completes with descriptor error (0x01) and moves nothing (R163, R171, R291). A command
that would act on a reserved device ID, which no module has, completes with address error (0x02): it sends nothing and changes nothing
(R18). The packets and pieces of a range (R238): in ascending order, each within one block of the size, none empty, together the range. The
model's choices in it: log entries 31 and 32. -/
def Obligations.CommandErrors : Prop :=
  (∀ (sl : Slot) (w : W256) (s : State),
    ∀ e ∈ [(Instr.cset sl w, 0x03, decide (7 < cIdx w)), (.cadd sl w, 0x04, decide (7 < cIdx w)),
      (.phase sl w, 0x08, (phaseCode (cIdx w)).isNone), (.mark sl w, 0x09, decide (cAddr w % 16 ≠ 0)),
      (.copy sl w, 0x18, !s.xOk 0x18 w), (.put sl w, 0x19, !s.xOk 0x19 w), (.get sl w, 0x1A, !s.xOk 0x1A w), (.putsig sl w, 0x1B, !s.xOk 0x1B w),
      (.fill sl w, 0x1C, !s.xOk 0x1C w), (.puti sl w, 0x1F, !xAddrOk (iDst w) 16 16 [0, 1, 3, 4]),
      (.signal sl w, 0x20, !xAddrOk (sObj w) 8 8 [2]), (.syncadd sl w, 0x21, !xAddrOk (sObj w) 8 8 [2]),
      (.syncset sl w, 0x22, !xAddrOk (sObj w) 8 8 [2] || sCond w == 3), (.syncwait sl w, 0x23, decide (aSpace (sObj w) ≠ 2) || sCond w == 3),
      (.syncread sl w, 0x24, !xAddrOk (sObj w) 8 8 [2]),
      (.tensor sl w, 0x10, s.descBad sl.core (srcCtx sl.src) 0x10 (s.taken sl w).doff),
      (.quant sl w, 0x11, s.descBad sl.core (srcCtx sl.src) 0x11 (s.taken sl w).doff),
      (.rq sl w, 0x12, s.descBad sl.core (srcCtx sl.src) 0x12 (s.taken sl w).doff),
      (.vec sl w, 0x13, s.descBad sl.core (srcCtx sl.src) 0x13 (s.taken sl w).doff),
      (.update sl w, 0x14, s.descBad sl.core (srcCtx sl.src) 0x14 (s.taken sl w).doff),
      (.coll sl w, 0x15, s.descBad sl.core (srcCtx sl.src) 0x15 (s.taken sl w).doff),
      (.xd sl w, 0x16, s.descBad sl.core (srcCtx sl.src) 0x16 (s.taken sl w).doff),
      (.syncdump sl w, 0x17, s.descBad sl.core (srcCtx sl.src) 0x17 (s.taken sl w).doff)],
    s.Issues sl w e.2.1 → e.2.2 = true →
    ∃ t, exec e.1 s = .next t.settle ∧ t.mem = s.mem ∧ t.objs = s.objs ∧ s.Ended t sl w ∧
      ((s.cx sl).errcont = true → s.Took t sl) ∧
      ((s.cx sl).errcont = false → (t.cx sl).halted = true ∧ ((s.cx sl).errSet = false → fldN (t.cx sl).err 24 8 = 0x01))) ∧
  (∀ (sl : Slot) (w : W256) (s : State),
    ∀ e ∈ [(Instr.put sl w, 0x19, xDst w, s.xOk 0x19 w), (.putsig sl w, 0x1B, xDst w, s.xOk 0x1B w), (.get sl w, 0x1A, xSrc w, s.xOk 0x1A w),
      (.puti sl w, 0x1F, iDst w, xAddrOk (iDst w) 16 16 [0, 1, 3, 4]), (.signal sl w, 0x20, sObj w, xAddrOk (sObj w) 8 8 [2]),
      (.syncadd sl w, 0x21, sObj w, xAddrOk (sObj w) 8 8 [2]), (.syncset sl w, 0x22, sObj w, xAddrOk (sObj w) 8 8 [2] && sCond w != 3),
      (.syncsetClaim sl w, 0x22, sObj w, xAddrOk (sObj w) 8 8 [2] && sCond w != 3),
      (.syncsetRelease sl w, 0x22, sObj w, xAddrOk (sObj w) 8 8 [2] && sCond w != 3),
      (.syncread sl w, 0x24, sObj w, xAddrOk (sObj w) 8 8 [2] && decide (sAddr w % 8 = 0) &&
        decide (s.check (s.pt sl) (coreAddr sl.core (sAddr w)) 8 = .ok))],
    s.Issues sl w e.2.1 → reservedDev (aDev e.2.2.1) = true → s.isOwn e.2.2.1 = false → e.2.2.2 = true →
    ∃ t, exec e.1 s = .next t.settle ∧ s.Took t sl ∧ s.Worked t sl w 0x02) ∧
  (∀ size a len : Nat, 0 < size →
    (∀ e ∈ piecesOf size a len, 0 < e.2 ∧ e.1 + e.2 ≤ len ∧ (a + e.1) / size = (a + e.1 + e.2 - 1) / size) ∧
    ((piecesOf size a len).map (·.2)).sum = len ∧ (piecesOf size a len).Pairwise (fun e f => e.1 + e.2 ≤ f.1))

/-- COPY, PUT and GET within the module, and an XD that holds one of them: bytes, poison and headers move, and nothing else of memory
changes. A block moved whole keeps its header; one moved in part is merged (R163, R171, R219, R310, R311). The model's choices in it: log
entries 12 and 34. -/
def Obligations.MovesWithinModule : Prop :=
  ∀ (sl : Slot) (w : W256) (s : State),
    ∀ e ∈ [(Instr.copy sl w, 0x18, w), (.put sl w, 0x19, w), (.get sl w, 0x1A, w), (.xd sl w, 0x16, s.xdWord sl.core sl.src (s.taken sl w).doff)],
    s.Issues sl w e.2.1 → (e.2.1 = 0x16 → s.descBad sl.core (srcCtx sl.src) 0x16 (s.taken sl w).doff = false) →
    (cOp e.2.2).toNat ∈ [0x18, 0x19, 0x1A] → s.Moves sl (cOp e.2.2).toNat e.2.2 →
    ∃ t, exec e.1 s = .next t.settle ∧ s.TookCore t sl ∧ { t with cores := s.cores, mem := s.mem, dict := s.dict, stackSts := s.stackSts } = s ∧
      s.mem.Moved t.mem e.2.2 ∧ s.Worked t sl w (s.mem.movedStatus e.2.2) ∧
      ∀ b ∈ blocksOf (aKey (xDst e.2.2)) (xLen e.2.2), t.mem.header b =
        if aKey (xDst e.2.2) ≤ b * 4096 ∧ b * 4096 + 4096 ≤ aKey (xDst e.2.2) + xLen e.2.2 ∧
            (aKey (xSrc e.2.2) + (b * 4096 - aKey (xDst e.2.2))) % 4096 = 0 then
          s.mem.header ((aKey (xSrc e.2.2) + (b * 4096 - aKey (xDst e.2.2))) / 4096)
        else mkHeader s.ownDev sl.core.val 3 (crc32c (t.mem.bytes (b * 4096) 4096))

/-- PUTSIG within the module moves its data and then adds 1 to its object (R172, R292). The model's choices in it: log entry 12. -/
def Obligations.PutsigWithinModule : Prop :=
  ∀ (sl : Slot) (w : W256) (s : State) (c : CoreId) (k : Nat), s.Issues sl w 0x1B → s.Moves sl 0x1B w → s.SyncAt sl (xSig w) c k →
    (s.issueOp sl.core (srcCtx sl.src) .add 1).epochOk (s.obj c k) = true →
    s.periodOf c (s.objCtx c k) % 256 = s.periodOf sl.core (srcCtx sl.src) % 256 →
    ∃ t, exec (.putsig sl w) s = .next t.settle ∧ s.TookCore t sl ∧
      { t with cores := s.cores, mem := s.mem, dict := s.dict, stackSts := s.stackSts, objs := s.objs } = s ∧
      s.mem.Moved t.mem w ∧ s.Worked t sl w (s.mem.movedStatus w) ∧
      t.obj c k = { s.obj c k with count := (s.obj c k).count + 1 } ∧
      ∀ d n, n < 4096 → (d, n) ≠ (c, k) → t.obj d n = s.obj d n

/-- FILL writes its pattern, clean, and leaves blocks it fills whole unchecked (R171, R309). PUTI writes its 16 bytes (R171). The model's
choices in it: log entry 12. -/
def Obligations.FillAndPuti : Prop :=
  ∀ (sl : Slot) (w : W256) (s : State),
    (s.Issues sl w 0x1C → s.xOk 0x1C w = true →
      (∀ e ∈ piecesOf 512 (aOff (xDst w)) (xLen w), s.check (s.pt sl) (xDst w + BitVec.ofNat 64 e.1) e.2 = .ok) →
      ∃ t, exec (.fill sl w) s = .next t.settle ∧ s.TookCore t sl ∧ s.Worked t sl w 0x00 ∧
        { t with cores := s.cores, mem := s.mem, dict := s.dict, stackSts := s.stackSts } = s ∧
        (∀ i, i < xLen w → t.mem.byte (aKey (xDst w) + i) = (xSrc w).extractLsb' (8 * (i % 8)) 8) ∧
        (∀ i, i < xLen w / 64 → t.mem.unit (aKey (xDst w) / 64 + i) = .clean) ∧
        (∀ b, aKey (xDst w) ≤ b * 4096 → b * 4096 + 4096 ≤ aKey (xDst w) + xLen w → t.mem.header b = 0) ∧
        s.mem.SameOutside t.mem (aKey (xDst w)) (xLen w)) ∧
    (s.Issues sl w 0x1F → s.isOwn (iDst w) = true → xAddrOk (iDst w) 16 16 [0, 1] = true → s.check (s.pt sl) (iDst w) 16 = .ok →
      ∃ t, exec (.puti sl w) s = .next t.settle ∧ s.TookCore t sl ∧ s.Worked t sl w 0x00 ∧
        { t with cores := s.cores, mem := s.mem, dict := s.dict, stackSts := s.stackSts } = s ∧
        t.mem.bytes (aKey (iDst w)) 16 = leBytes 16 (iData w).toNat ∧ s.mem.SameOutside t.mem (aKey (iDst w)) 16)

/-! ## Synchronisation objects -/

/-- What a synchronisation command does to an object of this module, as an operation of its context (Table 12-2, R292, R293, R296, R299).
The model's choices in it: log entry 12. -/
def Obligations.SyncOperations : Prop :=
  ∀ (sl : Slot) (w : W256) (s : State) (c : CoreId) (k : Nat),
    ∀ e ∈ [(Instr.signal sl w, 0x20, SyncKind.add, (1 : BitVec 48)), (.syncadd sl w, 0x21, .add, fld (sVal w) 0 48),
      (.syncset sl w, 0x22, .set, fld (sVal w) 0 48), (.syncsetClaim sl w, 0x22, .claim, fld (sVal w) 0 48),
      (.syncsetRelease sl w, 0x22, .release, fld (sVal w) 0 48)],
    s.Issues sl w e.2.1 → (e.2.1 = 0x22 → setKind (sCond w) = some e.2.2.1) → s.SyncAt sl (sObj w) c k →
    ∃ t, exec e.1 s = .next t.settle ∧ s.TookCore t sl ∧ s.Worked t sl w 0x00 ∧
      s.Synced t c k ⟨e.2.2.1, s.ownDev, BitVec.ofNat 8 sl.core.val, decide (srcCtx sl.src = .filler),
        s.periodOf sl.core (srcCtx sl.src) % 256, (s.cx sl).epoch, e.2.2.2⟩

/-! ## The vector engine -/

/-- The instructions that compute lane by lane: the result of every active lane of a v register, or the one result of an s or a register;
the flags of those results; nothing else changes (R136, R137, Table 6-4). -/
def Obligations.ElementMaps : Prop :=
  ∀ (c : CoreId) (x : CtxId) (w : W32) (s : State),
    ∀ e ∈ ([(Instr.mov c x w, 0x01, fun a _ _ => (a, {})), (.add c x w, 0x02, fun a b _ => fadd a b), (.sub c x w, 0x03, fun a b _ => fsub a b),
      (.mul c x w, 0x04, fun a b _ => fmul a b), (.fma c x w, 0x05, fun a b d => ffma a b d), (.fnma c x w, 0x06, fun a b d => ffnma a b d),
      (.div c x w, 0x07, fun a b _ => fdiv a b), (.sqrt c x w, 0x08, fun a _ _ => fsqrt a), (.max c x w, 0x09, fun a b _ => fmaxi true a b),
      (.min c x w, 0x0A, fun a b _ => fmaxi false a b), (.abs c x w, 0x0B, fun a _ _ => (a &&& 0x7FFFFFFF, {})),
      (.neg c x w, 0x0C, fun a _ _ => (a ^^^ 0x80000000, {})), (.rndi c x w, 0x0E, fun a _ _ => frndi a), (.exp2 c x w, 0x10, fun a _ _ => fexp2 a),
      (.log2 c x w, 0x11, fun a _ _ => flog2 a), (.rsqrt c x w, 0x12, fun a _ _ => frsqrt a), (.sigm c x w, 0x13, fun a _ _ => fsigm a),
      (.tanh c x w, 0x14, fun a _ _ => ftanh a)] : List (Instr × Nat × (W32 → W32 → W32 → W32 × Flags))),
    elemOk e.2.1 w (s.ctx c x).pos.en = true →
    ∃ t, exec e.1 s = .next t ∧ s.OnlyCtx t c x ∧
      (let k := s.ctx c x
       let f := fun j => e.2.2 (k.opnd e.2.1 w 0 j) (k.opnd e.2.1 w 1 j) (k.opnd e.2.1 w 2 j)
       k.Wrote (t.ctx c x) e.2.1 w (fun j => (f j).1) ∧ k.Flagged (t.ctx c x) (k.laneFlags w (fun j => (f j).2)))

/-- SEL takes A where the mask is set and B elsewhere, in every lane of m0; IDXC and IDXR give the logical column and row, rounded to FP32;
none raises a flag that the rounding does not (R137, R138). A compare writes every lane of its mask: set where the lane is active and the
relation holds, clear elsewhere; INV when an active lane compares a signalling NaN (R138, R139). XADD adds B to the extended value in D and
the low half of A: D takes the FP32 part and A's low 16 bits the extension, in the active lanes or once; the upper bits of A are open (R141,
log entry 14). -/
def Obligations.SelectionAndCompares : Prop :=
  (∀ (c : CoreId) (x : CtxId) (w : W32) (s : State),
    (elemOk 0x0D w (s.ctx c x).pos.en = true → ∃ t, exec (.sel c x w) s = .next t ∧ s.OnlyCtx t c x ∧
      (let k := s.ctx c x
       let val := fun j => if bitAt (k.prog.mask (eM w)) j then k.opnd 0x0D w 0 j else k.opnd 0x0D w 1 j
       k.prog.Wrote (t.ctx c x).prog k.pos.row (regOf (eD w)) (bitAt k.prog.m0) val ∧
         k.prog.Marked (t.ctx c x).prog k.pos.row (regOf (eD w)) (k.srcMark 0x0D w) (!(regOf (eD w)).isV || k.prog.m0 == BitVec.allOnes 128) ∧
         { t.ctx c x with prog := k.prog } = k)) ∧
    (elemOk 0x1E w (s.ctx c x).pos.en = true → ∃ t, exec (.idxc c x w) s = .next t ∧ s.OnlyCtx t c x ∧
      (let k := s.ctx c x
       let r := fun j => rneDy (k.pos.col0 + BitVec.ofNat 32 j).toNat 0
       k.Wrote (t.ctx c x) 0x1E w (fun j => (r j).1) ∧ k.Flagged (t.ctx c x) (k.laneFlags w (fun j => (r j).2)))) ∧
    (elemOk 0x1F w (s.ctx c x).pos.en = true → ∃ t, exec (.idxr c x w) s = .next t ∧ s.OnlyCtx t c x ∧
      (let k := s.ctx c x
       let r := rneDy (k.pos.row0 + BitVec.ofNat 32 k.pos.row).toNat 0
       k.Wrote (t.ctx c x) 0x1F w (fun _ => r.1) ∧ k.Flagged (t.ctx c x) (k.laneFlags w (fun _ => r.2))))) ∧
  (∀ (c : CoreId) (x : CtxId) (w : W32) (s : State),
    ∀ e ∈ ([(Instr.cmpeq c x w, 0x18, fun o => o == some .eq), (.cmpne c x w, 0x19, fun o => o != some .eq), (.cmplt c x w, 0x1A, fun o => o == some .lt),
      (.cmple c x w, 0x1B, fun o => o == some .lt || o == some .eq), (.cmpun c x w, 0x1C, fun o => o == none)] :
      List (Instr × Nat × (Option Ordering → Bool))),
    elemOk e.2.1 w (s.ctx c x).pos.en = true →
    ∃ t n, exec e.1 s = .next t ∧ s.OnlyCtx t c x ∧ regOf (eD w) = .m n ∧ n ≠ 0 ∧
      (let k := s.ctx c x
       let q := (t.ctx c x).prog
       (∀ j, j < 128 → bitAt (q.mask n) j = (k.act w j && e.2.2 (cmpFp (up (k.opnd e.2.1 w 0 j)) (up (k.opnd e.2.1 w 1 j))))) ∧
         (∀ i, i < 4 → i ≠ n → q.mask i = k.prog.mask i) ∧ q.v = k.prog.v ∧ q.s = k.prog.s ∧ q.a = k.prog.a ∧ q.c = k.prog.c ∧
         k.prog.Marked q k.pos.row (.m n) (k.srcMark e.2.1 w) true ∧ { t.ctx c x with prog := k.prog, vec := k.vec } = k ∧
         k.Flagged (t.ctx c x) { inv := (List.range 128).any (fun j =>
           k.act w j && ((up (k.opnd e.2.1 w 0 j)).isSnan || (up (k.opnd e.2.1 w 1 j)).isSnan)) })) ∧
  (∀ (c : CoreId) (x : CtxId) (w : W32) (s : State), elemOk 0x0F w (s.ctx c x).pos.en = true →
    ∃ t, exec (.xadd c x w) s = .next t ∧ s.OnlyCtx t c x ∧
      (let k := s.ctx c x
       let q := (t.ctx c x).prog
       let d := regOf (eD w)
       let a := regOf (eA w)
       let live := fun j => k.act w j || !d.isV
       let r := fun j => xaddF (k.prog.lane k.pos.row d j) (fldN (k.prog.lane k.pos.row a j) 0 16) (k.opnd 0x0F w 1 j)
       (∀ j, j < 128 → q.lane k.pos.row d j = if live j then (r j).1 else k.prog.lane k.pos.row d j) ∧
         (∀ j, j < 128 → fld (q.lane k.pos.row a j) 0 16 = if live j then BitVec.ofNat 16 (r j).2.1 else fld (k.prog.lane k.pos.row a j) 0 16) ∧
         (∀ j, j < 128 → live j = false → q.lane k.pos.row a j = k.prog.lane k.pos.row a j) ∧
         (∀ n j, n < 28 → j < 128 → regOf n ≠ d → regOf n ≠ a → q.lane k.pos.row (regOf n) j = k.prog.lane k.pos.row (regOf n) j) ∧
         q.c = k.prog.c ∧ (∀ i, q.mask i = k.prog.mask i) ∧ { t.ctx c x with prog := k.prog, vec := k.vec } = k ∧
         (∀ n, n < 32 → regOf n ≠ d → regOf n ≠ a → q.marked k.pos.row (regOf n) = k.prog.marked k.pos.row (regOf n)) ∧
         k.Flagged (t.ctx c x) (k.laneFlags w (fun j => (r j).2.2))))

/-- LD gives the active lanes of a v register the row of an input stream, with the flags of its widening, and the mark of a poisoned row
(R32, R138, R151). ST gives the active
lanes of an output row the lanes of its operand: unchanged for FP32, rounded to the format for BF16 and FP16, and kept for the conversion of
the whole row for FP8 (R133). VECTOR_NOP does nothing. The model's choices in it: log entry 48. -/
def Obligations.LoadAndStore : Prop :=
  ∀ (c : CoreId) (x : CtxId) (w : W32) (s : State),
    (∃ t, exec (.vectorNop c x w) s = .next t ∧ s.OnlyCtx t c x ∧ t.ctx c x = s.ctx c x) ∧
    (elemOk 0x20 w (s.ctx c x).pos.en = true → ∃ t, exec (.ld c x w) s = .next t ∧ s.OnlyCtx t c x ∧
      (let k := s.ctx c x
       let i := if eA w = 0 then k.pos.in0 else k.pos.in1
       k.prog.Wrote (t.ctx c x).prog k.pos.row (regOf (eD w)) (k.act w) (fun j => SMap.get (fun _ => 0) i.vals j) ∧
         k.prog.Marked (t.ctx c x).prog k.pos.row (regOf (eD w)) (i.poisoned || bitAt k.prog.pm (eM w)) (k.active w == BitVec.allOnes 128) ∧
         { t.ctx c x with prog := k.prog, vec := k.vec } = k ∧ k.Flagged (t.ctx c x) (k.laneFlags w (fun j => i.flags.getD j {})))) ∧
    (elemOk 0x21 w (s.ctx c x).pos.en = true → ∃ t, exec (.st c x w) s = .next t ∧ s.OnlyCtx t c x ∧
      (let k := s.ctx c x
       let one := eD w ≠ 0
       let o := if one then k.pos.out1 else k.pos.out0
       let o' := if one then (t.ctx c x).pos.out1 else (t.ctx c x).pos.out0
       let fmt := (if one then k.pos.fmt1 else k.pos.fmt0).toNat
       let rnd := if one then k.pos.rnd1 else k.pos.rnd0
       let ovf := if one then k.pos.ovf1 else k.pos.ovf0
       let val := fun j => let v := k.opnd 0x21 w 0 j
         if fmt = 0 ∨ 5 ≤ fmt then v
         else BitVec.ofNat 32 (convert fp32 (if fmt = 1 then bf16 else fp16) (rndIeee rnd).1 ovf
           (if rnd = 4 then rng32 1 k.pos.sr (k.pos.step.setWidth 32) (if one then k.pos.tensor1 else k.pos.tensor0) (k.pos.row0 + BitVec.ofNat 32 k.pos.row)
             (k.pos.col0 + BitVec.ofNat 32 j) else 0) v.toNat).1
       (∀ j, j < 128 → SMap.get (fun _ => 0) o'.vals j = if k.act w j then val j else SMap.get (fun _ => 0) o.vals j) ∧
         o'.poisoned = (o.poisoned || k.srcMark 0x21 w) ∧ (t.ctx c x).prog = k.prog ∧
         { t.ctx c x with pos := k.pos, vec := k.vec } = k ∧ { (t.ctx c x).pos with out0 := k.pos.out0, out1 := k.pos.out1 } = k.pos ∧
         (if one then (t.ctx c x).pos.out0 = k.pos.out0 else (t.ctx c x).pos.out1 = k.pos.out1) ∧
         { (t.ctx c x).vec with flags := k.vec.flags } = k.vec))

/-- A reduction writes its register once, from the active lanes of A; over none it gives the value of Table 6-5 and, where that table says
so, sets EMPTY and counts it (R143 to R145). STADD adds an s or a register to the FP64 value of a statistics slot, and STMAX folds it with
the maximum, or the minimum for KIND 2; the slot takes the mark, and the addition raises its flags (R139, R147, R151). -/
def Obligations.ReductionInstructions : Prop :=
  (∀ (c : CoreId) (x : CtxId) (w : W32) (s : State),
    ∀ e ∈ [(Instr.rsum c x w, 0x28, (0x00000000 : W32), false), (.rssq c x w, 0x29, 0x00000000, false), (.rmax c x w, 0x2A, 0xFF800000, true),
      (.rmin c x w, 0x2B, 0x7F800000, true), (.ramax c x w, 0x2C, 0x00000000, true), (.rargmax c x w, 0x2D, 0xFFFFFFFF, true),
      (.rargmin c x w, 0x2E, 0xFFFFFFFF, true), (.rmean c x w, 0x2F, 0x7FC00000, true), (.rcnt c x w, 0x30, 0x00000000, false)],
    elemOk e.2.1 w (s.ctx c x).pos.en = true →
    ∃ t, exec e.1 s = .next t ∧ s.OnlyCtx t c x ∧
      (let k := s.ctx c x
       let cs := k.lanesOf e.2.1 w
       k.Wrote (t.ctx c x) e.2.1 w (fun _ => if cs = [] then e.2.2.1 else (reduce e.2.1 cs).1) ∧
         (if cs = [] ∧ e.2.2.2 = true then
           (t.ctx c x).vec.empty = true ∧ { (t.ctx c x).vec with empty := k.vec.empty, emptycnt := k.vec.emptycnt } = k.vec ∧
             (t.ctx c x).vec.emptycnt = k.vec.emptycnt + 1
         else k.Flagged (t.ctx c x) (if cs = [] then {} else (reduce e.2.1 cs).2)))) ∧
  (∀ (c : CoreId) (x : CtxId) (w : W32) (s : State),
    ∀ e ∈ [(Instr.stadd c x w, 0x38, true), (.stmax c x w, 0x39, false)], elemOk e.2.1 w (s.ctx c x).pos.en = true →
    ∃ t, exec e.1 s = .next t ∧ s.OnlyCtx t c x ∧
      (let k := s.ctx c x
       let v := k.opnd e.2.1 w 0 0
       let o := k.staOf (eD w)
       (t.ctx c x).staOf (eD w) = { o with
         val := if e.2.2 then dadd o.val (toF64 v) else dmaxi (o.kind != 2) o.val (toF64 v), psn := o.psn || k.srcMark e.2.1 w } ∧
         (∀ n, n ≠ eD w → (t.ctx c x).staOf n = k.staOf n) ∧ { t.ctx c x with sta := k.sta, vec := k.vec } = k ∧
         k.Flagged (t.ctx c x) (if e.2.2 then { daddFlags o.val (toF64 v) with inv := (daddFlags o.val (toF64 v)).inv || (up v).isSnan }
           else { inv := (up v).isSnan })))

/-- What reductions give over lanes that are all finite: RSUM and RSSQ the FP32 value nearest to the exact sum, RMAX the greatest lane, RCNT
the number of lanes (R143, R144). -/
def Obligations.ReductionValues : Prop :=
  ∀ cs : List (W32 × W32), cs ≠ [] → cs.length ≤ 128 → (∀ e ∈ cs, isFinite32 e.2 = true) →
    (∀ y : W32, isFinite32 y = true → isFinite32 (reduce 0x28 cs).1 = true →
      nearer ((cs.map (fun e => v149 e.2)).sum) (v149 (reduce 0x28 cs).1) (v149 y)) ∧
    (∀ y : W32, isFinite32 y = true → isFinite32 (reduce 0x29 cs).1 = true →
      nearer ((cs.map (fun e => v149 e.2 * v149 e.2)).sum) (v149 (reduce 0x29 cs).1 * 2 ^ 149) (v149 y * 2 ^ 149)) ∧
    ((reduce 0x2A cs).1 ∈ cs.map (·.2) ∧ ∀ e ∈ cs, v149 e.2 ≤ v149 (reduce 0x2A cs).1) ∧
    ((reduce 0x2B cs).1 ∈ cs.map (·.2) ∧ ∀ e ∈ cs, v149 (reduce 0x2B cs).1 ≤ v149 e.2) ∧
    v149 (reduce 0x30 cs).1 = cs.length * 2 ^ 149

/-- FP32 sums, differences, products and fused products are the nearest FP32 values to the exact results, in units of 2^-149 (R137). -/
def Obligations.RoundedToNearest : Prop :=
  ∀ a b d y : W32, isFinite32 a = true → isFinite32 b = true → isFinite32 d = true → isFinite32 y = true →
    (isFinite32 (fadd a b).1 = true → nearer (v149 a + v149 b) (v149 (fadd a b).1) (v149 y)) ∧
    (isFinite32 (fsub a b).1 = true → nearer (v149 a - v149 b) (v149 (fsub a b).1) (v149 y)) ∧
    (isFinite32 (fmul a b).1 = true → nearer (v149 a * v149 b) (v149 (fmul a b).1 * 2 ^ 149) (v149 y * 2 ^ 149)) ∧
    (isFinite32 (ffma a b d).1 = true →
      nearer (v149 a * v149 b + v149 d * 2 ^ 149) (v149 (ffma a b d).1 * 2 ^ 149) (v149 y * 2 ^ 149))

/-! ## Engines -/

/-- A TENSOR whose descriptor passes joins the operations of its context, to start at the rung of its mode or of its pin, one that is
refused completes with descriptor error and is counted; the pin map of its step must have arrived (R88, R113, R120). VEC and UPDATE join the
vector engine's queue, which then goes as far as it can: VectorEngineSteps says what it does (R129, R195). The model's choices in it: log
entry 45. -/
def Obligations.EngineQueues : Prop :=
  ∀ (sl : Slot) (w : W256) (s : State) (off : Nat), off = (s.taken sl w).doff →
    (∀ d, d = s.tdesc sl.core off → s.Issues sl w 0x10 → s.descBad sl.core (srcCtx sl.src) 0x10 off = false →
      ∃ t, exec (.tensor sl w) s = .next t.settle ∧ s.Took t sl ∧ s.HeadPassed t sl ∧ (t.cx sl).toks = (s.cx sl).toks ∧
        (s.tensorBad sl.core (srcCtx sl.src) d = true → s.Worked t sl w 0x01 ∧ (t.cx sl).tenq = (s.cx sl).tenq ∧
          (t.cx sl).ten.descerr = true ∧ (t.cx sl).ten.descerrcnt = (s.cx sl).ten.descerrcnt + 1) ∧
        (s.tensorBad sl.core (srcCtx sl.src) d = false → s.Running t sl w ∧ (t.cx sl).tenCount = (s.cx sl).tenCount + 1 ∧
          ∃ o, (t.cx sl).tenq = (s.cx sl).tenq ++ [o] ∧ o.id = (s.taken sl w).id ∧ o.desc = d ∧ o.t = 0 ∧ o.started = false ∧
            o.stage = .running ∧ o.poisoned = false ∧ o.step = (s.cx sl).step ∧
            o.startRung = if tdLadder d = true ∧ s.ladderOn (s.pt sl) = true then
              Nat.max (modeRung (tdMode d)) ((s.part (s.pt sl)).pin (tdLayer d).toNat).prung else modeRung (tdMode d))) ∧
    (∀ e ∈ [(Instr.vec sl w, 0x13, BitVec.ofNat 1024 (s.coreWord sl.core off 128), none),
        (.update sl w, 0x14, 0, some (BitVec.ofNat 1536 (s.coreWord sl.core off 192)))],
      s.Issues sl w e.2.1 → s.descBad sl.core (srcCtx sl.src) e.2.1 off = false →
      ∃ u, exec e.1 s = .next ((u.vecPump sl.core (srcCtx sl.src)).fetchHead sl).settle ∧ s.Took u sl ∧ s.HeadPassed u sl ∧ s.Running u sl w ∧
        (u.cx sl).toks = (s.cx sl).toks ∧
        (u.cx sl).vecq = (s.cx sl).vecq ++ [⟨(s.taken sl w).id, e.2.2.1, e.2.2.2, 0, false, (s.cx sl).step, false, false⟩])

/-- The vector engine goes on with the command at its head until it waits; that command, when it is refused, leaves with descriptor error;
else it loads its program and constants, which start every register at +0 and every mask clear but m0, waits for the tensor engine where it
reads from there, writes nothing but its output tiles and tile records, and leaves after its last tile (R129, R134, R135, R149). The model's
choices in it: log entries 12 and 48. -/
def Obligations.VectorEngineSteps : Prop :=
  (∀ (s : State) (c : CoreId) (x : CtxId), (s.vecPump c x).vecStep c x = none) ∧
  (∀ (s : State) (c : CoreId) (x : CtxId) (j : VecJob) (rest : List VecJob), (s.ctx c x).suspended = false → (s.ctx c x).vecq = j :: rest →
    (∀ i ∈ rest, i.id ≠ j.id) →
    ((∃ d, j.upd = some d ∧ s.udBad d = true) ∨ (j.upd = none ∧ j.started = false ∧ s.vdBad c j.desc = true) →
      ∃ t, s.vecStep c x = some t ∧ s.VecLeft t c x j.id 0x01 ∧ t.mem = s.mem ∧ (t.ctx c x).vec.descerr = true ∧
        (t.ctx c x).vec.descerrcnt = (s.ctx c x).vec.descerrcnt + 1) ∧
    (s.mem.wf = true → j.upd = none → j.started = false → s.vdBad c j.desc = false → s.checkKeys (s.partD c x) (vdLoads j.desc) = .ok →
      s.vdImgBad c j.desc = false → (s.vecProgram c x j.desc).all (fun w => elemOk (eOp w) w (vdEn j.desc)) = true →
      ∃ t, s.vecStep c x = some t ∧ (t.ctx c x).vecq = { j with started := true } :: rest ∧ t.mem = s.mem ∧
        (t.ctx c x).vprog = some (vdProg j.desc, s.vecProgram c x j.desc) ∧
        (∀ r n, r < 128 → (n < 32 → (t.ctx c x).prog.scalar r (.c n) = BitVec.ofNat 32 (s.mem.word (aKey (vdConst j.desc) + 4 * n) 4)) ∧
          (n < 16 → ∀ k, (t.ctx c x).prog.lane r (.v n) k = 0) ∧ (n < 8 → (t.ctx c x).prog.scalar r (.s n) = 0) ∧
          (n < 4 → (t.ctx c x).prog.scalar r (.a n) =
            if vdRsi j.desc then BitVec.ofNat 32 (s.mem.word (aKey (vdRowst j.desc) + 4 * (4 * r + n)) 4) else 0))) ∧
    (j.upd = none → j.started = true → vdNt j.desc ≤ j.tile → vdRso j.desc = false →
      ∃ t, s.vecStep c x = some t ∧ s.VecLeft t c x j.id (if j.poison then (if j.checkFail then 0x06 else 0x05) else 0x00) ∧
        t.mem = s.mem) ∧
    (j.upd = none → j.started = true → j.tile < vdNt j.desc → (vdOuts j.desc).all (fun v => outFmtOk (vsFmt v)) = true →
      (vsFmt (vdStream j.desc 0) = 9 → vsEn (vdStream j.desc 0) = true → s.nextTile c x = none →
        (∀ v ∈ vdOuts j.desc, s.check (s.partD c x) (keyAddr (aKey (vsTile v j.tile))) (outBytes v) = .ok) →
        (vdTrec j.desc ≠ 0 → s.check (s.partD c x) (keyAddr (aKey (vdTrec j.desc) + 16 * j.tile)) 16 = .ok) → s.vecStep c x = none) ∧
      (∀ t, s.vecStep c x = some t → ∀ a, (∀ v ∈ vdOuts j.desc, a < aKey (vsTile v j.tile) ∨ aKey (vsTile v j.tile) + outBytes v ≤ a) →
        (vdTrec j.desc = 0 ∨ a < aKey (vdTrec j.desc) + 16 * j.tile ∨ aKey (vdTrec j.desc) + 16 * j.tile + 16 ≤ a) →
        t.mem.byte a = s.mem.byte a)))

/-- An UPDATE that is not refused writes nothing but its arrays, its working copies and its shard version, which is the step after its own
beside its complement; its report joins those of the partition, and its status tells of poison (R191, R192, R195, R200). The model's choices
in it: log entry 48. -/
def Obligations.UpdateRuns : Prop :=
  ∀ (s : State) (c : CoreId) (x : CtxId) (step : W64) (d : BitVec 1536), s.udBad d = false →
    s.checkKeys (s.partD c x) (udReads d ++ udImgWrites d ++ (if udShdr d ≠ 0 then [(aKey (udShdr d), 8)] else [])) = .ok →
    ∀ t st, s.updateRun c x step d = (t, st) →
      (∀ a, (∀ r ∈ udMainRanges d ++ udImgWrites d ++ (if udShdr d ≠ 0 then [(aKey (udShdr d), 8)] else []), a < r.1 ∨ r.1 + r.2 ≤ a) →
        t.mem.byte a = s.mem.byte a) ∧
      (udShdr d ≠ 0 → t.mem.bytes (aKey (udShdr d)) 8 =
        leBytes 4 ((step + 1).toNat % 2 ^ 32) ++ leBytes 4 (2 ^ 32 - 1 - (step + 1).toNat % 2 ^ 32)) ∧
      (∃ r, (t.part (s.partD c x)).reports = (s.part (s.partD c x)).reports ++ [r] ∧ r.step = step ∧ r.core = c.val ∧ r.layer = udLayer d ∧
        (r.psn = false ↔ st = 0x00) ∧ (r.psn = true ↔ st = 0x05 ∨ st = 0x06))

/-- QUANT, and RQ of a source in this module, with a strided source: each image that the descriptor asks for stands at its address, and
nothing else of memory changes (R57 to R71, R79, R80). The checks pass and the source is read without poison or mismatch. The model's
choices in it: log entries 13 and 44. -/
def Obligations.QuantWritesImages : Prop :=
  ∀ (sl : Slot) (w : W256) (s : State) (d : BitVec 512) (q : QSource), d = BitVec.ofNat 512 (s.coreWord sl.core (s.taken sl w).doff 64) →
    q = qdSource d (aKey (qdSrc d)) (aKey (qdScl d)) → qdFmt d ≤ 6 → s.qdBad sl.core d = false → s.isOwn (qdSrc d) = true →
    aRsvd (qdSrc d) = 0 → aSpace (qdSrc d) ≤ 1 → (qdFmt d = 5 ∨ qdFmt d = 6 → s.isOwn (qdScl d) = true ∧ aRsvd (qdScl d) = 0 ∧ aSpace (qdScl d) ≤ 1) →
    s.checkKeys (s.pt sl) (s.mem.srcRanges q) = .ok → (s.checkRanges (s.mem.srcRanges q)).2 = ReadChk.none →
    (∀ e ∈ qdDests d, s.check (s.pt sl) e.1 (qdImgSize d) = .ok) →
    (∀ e ∈ qdDests d, ∀ f ∈ qdDests d, e ≠ f → aKey e.1 + qdImgSize d ≤ aKey f.1 ∨ aKey f.1 + qdImgSize d ≤ aKey e.1) →
    ∀ e ∈ [(Instr.quant sl w, 0x11, aSpace (qdSrc d) = 1 ∧ (qdFmt d = 5 ∨ qdFmt d = 6 → aSpace (qdScl d) = 1) ∧
        keysInCore sl.core (s.mem.srcRanges q) = true), (.rq sl w, 0x12, dSth w = false)],
      s.Issues sl w e.2.1 → s.descBad sl.core (srcCtx sl.src) e.2.1 (s.taken sl w).doff = false → e.2.2 →
      ∃ t, exec e.1 s = .next t.settle ∧ s.TookCore t sl ∧ s.Worked t sl w 0x00 ∧
        { t with cores := s.cores, mem := s.mem, dict := s.dict, stackSts := s.stackSts } = s ∧
        (∀ f ∈ qdDests d,
          let p := qctl (qdQpw d) f.2 false (qdRow0 d) (qdCol0 d) (s.cx sl).step (s.seeds (s.pt sl) (s.cx sl).step)
          let img := p.image (qdQpw d) (qdRows d - 1) (qdCols d - 1) (p.tile (s.mem.srcTile q).1)
          img.length = qdImgSize d ∧ t.mem.bytes (aKey f.1) (qdImgSize d) = img) ∧
        ∀ a, (∀ f ∈ qdDests d, a < aKey f.1 ∨ aKey f.1 + qdImgSize d ≤ a) → t.mem.byte a = s.mem.byte a

/-- In a VQ4 or W2Q group whose flags are normal, every main-path element is at most half the effective scale from what its code stands for
when rounding to nearest, and less than the scale under stochastic rounding; in units of 2^-149 (R54). -/
def Obligations.HalfScaleError : Prop :=
  ∀ (fmt : Nat) (texp : Byte) (gzk room : Nat) (md : Rnd) (rnd : Nat → Nat) (y : List W32), fmt = 0 ∨ fmt = 2 →
    y.length = 32 ∨ y.length = 64 ∨ y.length = 128 → (quantGroup fmt texp gzk md rnd room y).flags = 0 →
    let g := quantGroup fmt texp gzk md rnd room y
    ∀ j, j < y.length → (∀ r ∈ g.recs, r.1 ≠ j) →
      (isSr md = false → 2 * (codeInt fmt (zpOf fmt g.zp) (g.codes.getD j 0) * effScale texp g.vs8 - v149 (y.getD j 0)).natAbs ≤
        effScale texp g.vs8) ∧
      (isSr md = true → effScale texp g.vs8 ≠ 0 →
        (codeInt fmt (zpOf fmt g.zp) (g.codes.getD j 0) * effScale texp g.vs8 - v149 (y.getD j 0)).natAbs < effScale texp g.vs8)

/-- Codes are packed from the lowest address and the least significant bits on: the code of element e takes its bits of its byte (R43). -/
def Obligations.PackedCodes : Prop :=
  ∀ (fmt : Nat) (l : List Nat), fmt ≤ 4 → l.length % (8 / codeBits fmt) = 0 → (∀ v ∈ l, v < 2 ^ codeBits fmt) →
    (packCodes fmt l).length = l.length * codeBits fmt / 8 ∧ unpackCodes fmt (packCodes fmt l) = l ∧
    (fmt ≤ 1 → ∀ j, 2 * j + 1 < l.length →
      fldN ((packCodes fmt l).getD j 0) 0 4 = l.getD (2 * j) 0 ∧ fldN ((packCodes fmt l).getD j 0) 4 4 = l.getD (2 * j + 1) 0) ∧
    (2 ≤ fmt → fmt ≤ 3 → ∀ j i, i < 4 → 4 * j + i < l.length → fldN ((packCodes fmt l).getD j 0) (2 * i) 2 = l.getD (4 * j + i) 0) ∧
    (fmt = 4 → ∀ j i, i < 8 → 8 * j + i < l.length → fldN ((packCodes fmt l).getD j 0) i 1 = l.getD (8 * j + i) 0)

/-! ## Tiles, groups, completion and the stash -/

/-- K_TILE runs the next K tile of the operation at work, whose operands have been read, pass the checks of R89 and hold no bad data: the
bank accumulates in the arithmetic of the mode, the tile is counted, a PSUM operation exposes its partial sums and signals PTOK, and after
the last tile the operation goes to its ladder check or is finished. An operation that has not started starts from a bank of zeros where ACC
is 0 (R91 to R94, R99, R101, R113). The model's choices in it: log entries 12 and 45. -/
def Obligations.KTileRuns : Prop :=
  ∀ (c : CoreId) (x : CtxId) (s : State) (op : TenOp), (s.ctx c x).tenHead = some op → (s.ctx c x).suspended = false →
    s.damaskAhead c = false → (∀ o ∈ (s.ctx c x).tenq, (o.id = op.id → o = op) ∧ o.stage ≠ .rung) → (s.ctx c x).exposureWaits op = false →
    op.stage = .running →
    (op.started = false → tdAcc op.desc = 0 → (s.ctx c x).banksWaiting < 2 → op.startRung ≤ modeRung (tdMode op.desc) →
      exec (.kTile c x) s = exec (.kTile c x) (s.modTen c x op.id (fun o =>
        { o with started := true, acc := List.replicate 16384 0, init := List.replicate 16384 0 }))) ∧
    (∀ a b, op.started = true → (s.readOperand c x op false).2 = .ok a ReadChk.none →
      ((s.readOperand c x op false).1.readOperand c x op true).2 = .ok b ReadChk.none → pairOk op.desc a b = true →
      ∃ (u : State) (o : TenOp), exec (.kTile c x) s = .next (u.vecPump c x) ∧ (∀ k, u.mem.byte k = s.mem.byte k) ∧ u.objs = s.objs ∧
        (∀ i : Nat, (u.ctx c x).tenq[i]? = if (s.ctx c x).tenq[i]? = some op then some o else (s.ctx c x).tenq[i]?) ∧
        o.acc = (kTileSum (tdMode op.desc) op.acc op.summary a b).1 ∧ o.acc = (accumulate (tdMode op.desc) op.acc a b).1 ∧
        o.summary = (kTileSum (tdMode op.desc) op.acc op.summary a b).2.2 ∧ o.t = op.t + 1 ∧
        (o.stage = if op.t + 1 < tdKt op.desc then .running
          else if tdLadder op.desc = true ∧ s.ladderOn (s.partD c x) = true ∧ op.poisoned = false then .ladder else .finished) ∧
        o.rung = op.rung ∧ o.init = op.init ∧ o.poisoned = op.poisoned ∧
        (u.ctx c x).exposed = (s.ctx c x).exposed ++
          (if tdPsum op.desc = true then [⟨op.id, o.acc, tdMM1 op.desc, tdNM1 op.desc, op.poisoned⟩] else []) ∧
        (∀ n, (u.ctx c x).tok n = (s.ctx c x).tok n + (if tdPsum op.desc = true ∧ op.ptok.map (·.toNat) = some n then 1 else 0)) ∧
        (u.ctx c x).ten.ktiles = (s.ctx c x).ten.ktiles + 1 ∧
        (toKind (tdOperand op.desc false) = false → toKind (tdOperand op.desc true) = false →
          (u.ctx c x).ten.flags = (s.ctx c x).ten.flags.or (accumulate (tdMode op.desc) op.acc a b).2))

/-- A finished bank enters the queue when it has room, behind what is there, or is held where HOLD is set; the operation leaves and its
command's work is finished (R99, R100, R104). LADDER_SEQUENCE lets a tile within its limits finish, and sends one that trips to the next
rung, with its bank as it was before the first K tile. K_TILE of a computation from fall-back sources, whose data is at hand and good, adds
the tile in the arithmetic of the rung; RUNG_COMPUTATION_DONE counts a computation that has run them all, and its check ends in the same two
ways (R109, R112, R113, R116). The model's choices in it: log entry 47. -/
def Obligations.LadderAndQueue : Prop :=
  ∀ (c : CoreId) (x : CtxId) (s : State) (op : TenOp), (∀ o ∈ (s.ctx c x).tenq, o.id = op.id → o = op) →
    ((s.ctx c x).tenDone = some op → op.sampled = false ∨ (op.poisoned = true ∧ op.stopped = false) →
      tdHold op.desc = true ∨ (s.core c).ftq.length < 32 →
      ∃ (u : State), exec (.finishedTileQueueEntry c x) s = .next (u.vecPump c x) ∧ s.OnlyCore u c ∧
        (u.ctx c x).tenq = (s.ctx c x).tenq.filter (fun o => o.id ≠ op.id) ∧
        (∀ j, s.job c x op.id = some j → ∃ i, u.job c x op.id = some i ∧ i.status = some (j.tenStatus op)) ∧
        (tdHold op.desc = true → (u.core c).ftq = (s.core c).ftq ∧
          (u.ctx c x).held = some ⟨BitVec.ofNat 4 (tdMode op.desc), op.acc, op.poisoned⟩) ∧
        (tdHold op.desc = false → (u.ctx c x).held = (s.ctx c x).held ∧ (u.core c).ftq = (s.core c).ftq ++
          [⟨x, op.acc, tdTag op.desc, tdMM1 op.desc, tdNM1 op.desc, tdLayer op.desc, if op.poisoned then 0 else BitVec.ofNat 2 op.rung, op.poisoned⟩])) ∧
    ((s.ctx c x).tenHead = some op →
      (∀ e ∈ [(Instr.ladderSequence c x, TenStage.ladder, false), (.rungComputationDone c x, .computed, true)], op.stage = e.2.1 →
        let causes := tripCauses op.rung { op.summary with outnf := outNonfin op.acc } (s.limits (s.partD c x) op.rung)
        ∃ t o, exec e.1 s = .next t ∧ t.mem = s.mem ∧ o ∈ (t.ctx c x).tenq ∧ o.id = op.id ∧
          (t.ctx c x).ldr.up2 = (s.ctx c x).ldr.up2 + (if e.2.2 = true ∧ op.rung = 2 then 1 else 0) ∧
          (t.ctx c x).ldr.up3 = (s.ctx c x).ldr.up3 + (if e.2.2 = true ∧ op.rung = 3 then 1 else 0) ∧
          (causes = 0 ∨ 3 ≤ op.rung →
            o.stage = .finished ∧ o.acc = op.acc ∧ o.rung = op.rung ∧ (t.ctx c x).ldr.checks = (s.ctx c x).ldr.checks + 1) ∧
          (causes = 0 → op.rung < 3 → (t.ctx c x).ldr.last = (s.ctx c x).ldr.last) ∧
          (causes ≠ 0 → op.rung < 3 →
            o.stage = .rung ∧ o.acc = op.init ∧ o.t = 0 ∧ o.rung = op.rung + 1 ∧ (t.ctx c x).ldr.checks = (s.ctx c x).ldr.checks ∧
              (t.ctx c x).ldr.last = lastWord (tdLayer op.desc) op.rung causes)) ∧
      (∀ j a b, op.stage = .rung → (s.ctx c x).suspended = false → s.damaskAhead c = false → (s.ctx c x).exposureWaits op = false →
        s.job c x op.id = some j → j.outst = 0 → j.errs = [] → j.queue = [] → j.timedOut = false →
        (s.fbOperand c x op true op.t).2 = .ok b ReadChk.none →
        ((s.fbOperand c x op true op.t).1.fbOperand c x op false op.t).2 = .ok a ReadChk.none →
        ∃ (u : State) (o : TenOp), exec (.kTile c x) s = .next (u.vecPump c x) ∧ (∀ k, u.mem.byte k = s.mem.byte k) ∧
          o ∈ (u.ctx c x).tenq ∧ o.id = op.id ∧ o.t = op.t + 1 ∧ o.rung = op.rung ∧ o.init = op.init ∧ o.poisoned = op.poisoned ∧
          o.acc = (kTileSum (rungMode (tdMode op.desc) op.rung) op.acc op.summary a b).1 ∧
          o.summary = (kTileSum (rungMode (tdMode op.desc) op.rung) op.acc op.summary a b).2.2 ∧
          (o.stage = if op.t + 1 < tdKt op.desc then .rung else .computed) ∧
          (u.ctx c x).ten.ktiles = (s.ctx c x).ten.ktiles + 1))

/-- A COLL whose descriptor passes becomes the newest call of its group at its member, with the next call number, and goes as far as its
peers let it (R267, R268, R270). A SYNCDUMP into a region of its partition writes its header, which names module, partition, step and time,
and nothing outside the size given (R305, R306). The model's choices in it: log entries 52 and 79. -/
def Obligations.CallsAndDumps : Prop :=
  ∀ (sl : Slot) (w : W256) (s : State) (d : BitVec 512), d = BitVec.ofNat 512 (s.coreWord sl.core (s.taken sl w).doff 64) →
    (∀ me n, s.Issues sl w 0x15 → s.districtCalls (districtOf sl.core) < 8 →
      s.descBad sl.core (srcCtx sl.src) 0x15 (s.taken sl w).doff = false → s.memberOf (s.pt sl) (cdGid d) sl.core = some (me, n) →
      s.badGroup (s.pt sl) (cdGid d) = false → s.collBad (some n) d = false → s.collAccess (s.pt sl) me n d = .ok → (s.part (s.pt sl)).failed.contains (sl.core, cdGid d) = false →
      ∃ (u : State) (k : Call), exec (.coll sl w) s = .next (u.collPump.fetchHead sl).settle ∧ s.TookCore u sl ∧ s.Running u sl w ∧
        { u with cores := s.cores, parts := s.parts } = s ∧ (u.part (s.pt sl)).calls = (s.part (s.pt sl)).calls ++ [k] ∧
        k.core = sl.core ∧ k.ctx = srcCtx sl.src ∧ k.job = (s.taken sl w).id ∧ k.gid = cdGid d ∧ k.me = me ∧ k.desc = d ∧
        k.call = (s.part (s.pt sl)).nextCall sl.core (cdGid d) ∧ k.start = s.now ∧ k.step = (s.cx sl).step ∧
        (u.part (s.pt sl)).nextCall sl.core (cdGid d) = k.call + 1 ∧ (∀ q, q ≠ s.pt sl → u.part q = s.part q)) ∧
    (s.Issues sl w 0x17 → s.descBad sl.core (srcCtx sl.src) 0x17 (s.taken sl w).doff = false →
      s.reportOk (s.pt sl) (sdAddr d) 1 = true → s.OwnersOk →
      ∃ t, exec (.syncdump sl w) s = .next t.settle ∧ s.TookCore t sl ∧ s.Worked t sl w 0x00 ∧
        { t with cores := s.cores, mem := s.mem, dict := s.dict, stackSts := s.stackSts } = s ∧
        s.mem.SameOutside t.mem (aKey (sdAddr d)) (sdSize d) ∧
        (64 ≤ s.ownedRoom (s.pt sl) (aKey (sdAddr d)) (sdSize d) → bitAt d 0 = false → t.mem.word (aKey (sdAddr d)) 2 = 0x5344 ∧ t.mem.word (aKey (sdAddr d) + 2) 2 = s.ownDev.toNat ∧
          t.mem.word (aKey (sdAddr d) + 4) 1 % 16 = (s.pt sl).val ∧ t.mem.word (aKey (sdAddr d) + 8) 8 = (s.cx sl).step.toNat ∧
          t.mem.word (aKey (sdAddr d) + 16) 8 = s.now.toNat))

/-- DQ_GROUP_OPEN opens the group at the head of DQ under a condition of Table 8-1 and counts the draw (R187, R190). FILLER_ADMIT lets
filler work go on once the primary context has been idle for FILLDELAY, and FILLER_YIELD withdraws it when a primary command is ready; reads
of an RQ of the filler are abandoned, and what they have fetched with them (R175 to R177). The model's choices in it: log entries 19 and
89. -/
def Obligations.GroupsAndFiller : Prop :=
  ∀ (c : CoreId) (s : State),
    (∀ n, (s.core c).dq.isOpen = false → (s.core c).dq.groups ≠ [] → s.openCond c = some n →
      ∃ t, exec (.dqGroupOpen c) s = .next t ∧ s.OnlyCore t c ∧ { t.core c with dq := (s.core c).dq } = s.core c ∧
        (t.core c).dq = { (s.core c).dq with
          isOpen := true
          pos := 0
          lastCond := BitVec.ofNat 3 n
          draws := (s.core c).dq.draws + 1
          syncdraws := (s.core c).dq.syncdraws + (if n = 1 then 1 else 0)
          idledraws := (s.core c).dq.idledraws + (if n = 2 then 1 else 0)
          forceddraws := (s.core c).dq.forceddraws + (if 3 ≤ n then 1 else 0) } ∧ 1 ≤ n ∧ n ≤ 5) ∧
    (s.primaryBusy c = false → s.fillerBarred c = false → (s.ctx c .filler).filldelay.toNat ≤ (s.core c).idleCyc →
      ∃ (u : State), exec (.fillerAdmit c) s = .next (u.vecPump c .filler) ∧ (u.core c).admitted = true ∧ (u.ctx c .filler).suspended = false ∧
        ((∀ x, ∀ j ∈ (s.ctx c x).jobs, j.queue = [] ∧ ∀ d, j.work ≠ .rq d) → s.OnlyCore u c ∧
          { u.core c with
            admitted := (s.core c).admitted
            fill := { (u.core c).fill with suspended := (s.core c).fill.suspended } } = s.core c)) ∧
    (s.primaryReady c = true →
      ∃ t, exec (.fillerYield c) s = .next t ∧ { t with reqs := s.reqs, cores := s.cores } = s ∧ (∀ d, d ≠ c → t.core d = s.core d) ∧
        t.reqs.map (·.1) = s.reqs.map (·.1) ∧ (t.core c).admitted = false ∧ (t.core c).idleCyc = 0 ∧
        (t.ctx c .filler).jobs = (s.ctx c .filler).jobs.map Job.abandon ∧
        ((t.ctx c .filler).suspended = true ↔ (s.ctx c .filler).suspended = true ∨ ∃ j ∈ (s.ctx c .filler).jobs, j.status = none) ∧
        { t.core c with
          admitted := (s.core c).admitted
          idleCyc := (s.core c).idleCyc
          fill := { (t.core c).fill with suspended := (s.core c).fill.suspended, jobs := (s.core c).fill.jobs } } = s.core c)

/-- COMMAND_COMPLETE completes a command whose work is finished: it is in progress no more, and its token rises if it signals. A status that
does not halt touches nothing but the core; one that does halts the context, unless ERRCONT is set, and the first one is recorded (R165 to
R167). The model's choices in it: log entry 12. -/
def Obligations.CommandCompletes : Prop :=
  ∀ (c : CoreId) (x : CtxId) (id : Nat) (s : State) (j : Job) (st : Byte), s.job c x id = some j → j.id = id → j.status = some st →
    (s.stash c).waits = [] →
    ∃ t, exec (.commandComplete c x id) s = .next t.settle ∧ t.mem = s.mem ∧ t.objs = s.objs ∧ (∀ i ∈ (t.ctx c x).jobs, i.id ≠ id) ∧
      (∀ i ∈ (s.ctx c x).jobs, i.id ≠ id → i ∈ (t.ctx c x).jobs) ∧
      (∀ n, (t.ctx c x).tok n = (s.ctx c x).tok n + (if j.se = true ∧ j.st.toNat = n then 1 else 0)) ∧
      (st ∈ [0x00, 0x05, 0x06] ∨ ((s.ctx c x).errcont = true ∧ st ≠ 0x0A) → s.OnlyCore t c ∧ (t.ctx c x).halted = (s.ctx c x).halted) ∧
      (st ∉ [0x00, 0x05, 0x06] → (s.ctx c x).errcont = false → (t.ctx c x).halted = true ∧
        ((s.ctx c x).errSet = false → fldN (t.ctx c x).err 24 8 = st.toNat ∧ fldN (t.ctx c x).err 16 8 = j.op.toNat ∧
          (t.ctx c x).errslot = BitVec.ofNat 32 j.slot) ∧
        ((s.ctx c x).errSet = true → (t.ctx c x).err = (s.ctx c x).err ∧ (t.ctx c x).errslot = (s.ctx c x).errslot))

/-- The stash commands at a stash where nothing waits: an entry is written at its place in the ring, read from the ring or from its spill
slot, refilled, pinned, unpinned and freed (R182 to R186). The model's choices in it: log entries 12 and 43. -/
def Obligations.StashCommands : Prop :=
  ∀ (sl : Slot) (w : W256) (s : State) (c : CoreId) (b : Stash), c = sl.core → b = s.stash c → srcCtx sl.src = .primary → b.Quiet → (s.taken sl w).held = false →
    (∀ slot off, s.Issues sl w 0x28 → stFind b (tLayer w) (tEntry w) = none → stSlot b = some slot → stPlace b (tLen w) = some off →
      tAddr w + tLen w ≤ 0x400000 → s.check (s.pt sl) (coreAddr c (tAddr w)) (tLen w) = .ok →
      s.Copies (s.pt sl) (ckey c (tAddr w)) (stRingKey c b off) (tLen w) →
      ∃ t e, exec (.stwrite sl w) s = .next t.settle ∧ s.TookStash t sl ∧ { t with cores := s.cores, mem := s.mem, dict := s.dict, stackSts := s.stackSts } = s ∧
        s.mem.Copied t.mem (ckey c (tAddr w)) (stRingKey c b off) (tLen w) ∧ s.Worked t sl w (s.mem.copyStatus (ckey c (tAddr w)) (tLen w)) ∧
        e.len = tLen w ∧ e.off = off ∧ e.slot = slot ∧ e.st = .writing ∧ e.refs = 0 ∧ e.freed = false ∧
        ∀ l n, stFind (t.stash c) l n = if l = tLayer w ∧ n = tEntry w then some e else stFind b l n) ∧
    (∀ e, s.Issues sl w 0x29 → stFind b (tLayer w) (tEntry w) = some e → e.st ≠ .filling → stAuto b = false → tAddr w % 64 = 0 →
      tAddr w + e.len ≤ 0x400000 → s.Copies (s.pt sl) (stDataKey c b e) (ckey c (tAddr w)) e.len →
      ∃ t, exec (.stread sl w) s = .next t.settle ∧ s.TookStash t sl ∧ { t with cores := s.cores, mem := s.mem, dict := s.dict, stackSts := s.stackSts } = s ∧
        s.mem.Copied t.mem (stDataKey c b e) (ckey c (tAddr w)) e.len ∧ s.Worked t sl w (s.mem.copyStatus (stDataKey c b e) e.len) ∧
        ∀ l n, stFind (t.stash c) l n = if l = tLayer w ∧ n = tEntry w then some { e with refs := e.refs + 1 } else stFind b l n) ∧
    (s.Issues sl w 0x2A →
      ((∀ e ∈ b.entries, e.layer = tLayer w → e.st ≠ .spilled) →
        ∃ t, exec (.stpref sl w) s = .next t.settle ∧ s.TookStash t sl ∧ t.mem = s.mem ∧ s.Worked t sl w 0x00 ∧ t.stash c = b) ∧
      (∀ e, b.entries = [e] → e.layer = tLayer w → e.st = .spilled → e.len ≤ stSize b →
        ∃ t f, exec (.stpref sl w) s = .next t.settle ∧ s.TookStash t sl ∧ t.mem = s.mem ∧ s.Running t sl w ∧ (t.stash c).entries = [f] ∧
          f.st = .filling ∧ f.off + f.len ≤ stSize b ∧ { f with st := .spilled, off := e.off, seq := e.seq } = e)) ∧
    (∀ e, stFind b (tLayer w) (tEntry w) = some e →
      (s.Issues sl w 0x2B → ∃ t, exec (.stpin sl w) s = .next t.settle ∧ s.TookStash t sl ∧ t.mem = s.mem ∧ s.Ended t sl w ∧
        ∀ l n, stFind (t.stash c) l n = if l = tLayer w ∧ n = tEntry w then some { e with refs := e.refs + 1 } else stFind b l n) ∧
      (s.Issues sl w 0x2C → 0 < e.refs → ∃ t, exec (.stunpin sl w) s = .next t.settle ∧ s.TookStash t sl ∧ t.mem = s.mem ∧ s.Ended t sl w ∧
        ∀ l n, stFind (t.stash c) l n = if l = tLayer w ∧ n = tEntry w then some { e with refs := e.refs - 1 } else stFind b l n)) ∧
    (s.Issues sl w 0x2D → (tOne w = true → (stFind b (tLayer w) (tEntry w)).isSome = true) →
      ∃ t, exec (.stfree sl w) s = .next t.settle ∧ s.TookStash t sl ∧ t.mem = s.mem ∧ s.Ended t sl w ∧
        ∀ l n, stFind (t.stash c) l n = (stFind b l n).bind (fun e =>
          if l = tLayer w ∧ (tOne w = true → n = tEntry w) then
            (if e.refs = 0 ∧ (e.st = .resident ∨ e.st = .spilled) then none else some { e with freed := true })
          else some e))

/-- The stash controller: the oldest entry is spilled when free space falls below LOWATER, a spill that ends has its data in the entry's
spill slot, and a refill that ends has it back in the ring (R183 to R185). The model's choices in it: log entry 43. -/
def Obligations.StashController : Prop :=
  ∀ (c : CoreId) (s : State) (b : Stash) (e : StEntry), b = s.stash c → b.Quiet → stFind b e.layer e.entry = some e →
    (stVictim b = some e → stSpen b = true → stFree b < stLowater b →
      s.check (s.partD c .primary) (keyAddr (mkey 0 (stSpillOff b e.slot))) e.len = .ok →
      ∃ t, exec (.stashSpill c) s = .next t ∧ s.OnlyCore t c ∧ { t.core c with stash := b } = s.core c ∧
        ∀ l n, stFind (t.stash c) l n = if l = e.layer ∧ n = e.entry then some { e with st := .spilling } else stFind b l n) ∧
    (e.st = .spilling → s.Copies (s.partD c .primary) (stRingKey c b e.off) (mkey 0 (stSpillOff b e.slot)) e.len →
      ∃ (t : State), exec (.spillDone c e.layer e.entry) s = .next t.settle ∧ (∀ d, d ≠ c → t.core d = s.core d) ∧ { t.core c with stash := b } = s.core c ∧
        { t with cores := s.cores, mem := s.mem, dict := s.dict, stackSts := s.stackSts } = s ∧
        s.mem.Copied t.mem (stRingKey c b e.off) (mkey 0 (stSpillOff b e.slot)) e.len ∧ (t.stash c).spills = b.spills + 1 ∧
        ∀ l n, stFind (t.stash c) l n = if l = e.layer ∧ n = e.entry then some { e with st := .spilled } else stFind b l n) ∧
    (e.st = .filling → s.Copies (s.partD c .primary) (mkey 0 (stSpillOff b e.slot)) (stRingKey c b e.off) e.len →
      ∃ (t : State), exec (.refillDone c e.layer e.entry) s = .next t.settle ∧ (∀ d, d ≠ c → t.core d = s.core d) ∧ { t.core c with stash := b } = s.core c ∧
        { t with cores := s.cores, mem := s.mem, dict := s.dict, stackSts := s.stackSts } = s ∧
        s.mem.Copied t.mem (mkey 0 (stSpillOff b e.slot)) (stRingKey c b e.off) e.len ∧ (t.stash c).refills = b.refills + 1 ∧
        ∀ l n, stFind (t.stash c) l n = if l = e.layer ∧ n = e.entry then some { e with st := .resident } else stFind b l n)

/-! ## Writes of the core control window -/

/-- Writes of the core control window: a partition may write the registers of its own contexts, and a write of another partition's is
counted and does nothing (R179). What each write does to its register (R146, R155, R167, R180, R181, R258); a write of a read-only one does
nothing (R6). A context is enabled once its partition's plan is accepted and the digests of its members agree; where they differ,
PLAN_MISMATCH is raised (R284). The model's choices in it: log entries 42 and 82. -/
def Obligations.RegisterWrites : Prop :=
  ∀ (c : CoreId) (s : State), s.offered c = true →
    (∀ (st : StreamId) (p : PartId) (v : W32), s.partOfCtx c (streamCtx st) = some p →
      (∃ t, exec (.tailWrite c st p v) s = .next t.settle ∧ s.OnlyCore t c ∧
        { t.stream c st with xd := (s.stream c st).xd } = { s.stream c st with tail := v.toNat % (s.stream c st).slots } ∧
        (t.core c).setStream st (s.stream c st) = s.core c) ∧
      (∃ t, exec (.streamEnable c st p v) s = .next t.settle ∧ s.OnlyCore t c ∧
        t.core c = (s.core c).setStream st (
          let b := s.stream c st
          let d := { b with en := bitAt v 0, size := if b.en then b.size else fld v 1 4 }
          if bitAt v 0 = true ∧ b.en = false then
            { d with head := 0, retire := 0, tail := 0, loops := [], xd := none } else d))) ∧
    (∀ (x : CtxId) (p : PartId) (v : W32), s.partOfCtx c x = some p →
      ((∀ w, ∀ k ∈ winKeys w, s.d k = s.df k) →
          bitAt v 0 = false ∨ (s.dN (dkx 0x2330 p 3) = 2 ∧ ((s.ctx c x).en = true ∨ s.digestsAgree p = true)) →
        ∃ t, exec (.contextEnable c x p v) s = .next t.settle ∧ s.OnlyCtx t c x ∧
          t.ctx c x = { s.ctx c x with en := bitAt v 0, errcont := bitAt v 1 }) ∧
      (bitAt v 0 = true → s.dN (dkx 0x2330 p 3) ≠ 2 → exec (.contextEnable c x p v) s = .next s.settle) ∧
      (bitAt v 0 = true → s.dN (dkx 0x2330 p 3) = 2 → (s.ctx c x).en = false → s.digestsAgree p = false → s.faults = [] →
        ∃ (t : State) (r : BitVec 256), exec (.contextEnable c x p v) s = .next t.settle ∧ (t.ctx c x).en = false ∧ t.mem = s.mem ∧ t.objs = s.objs ∧
          t.faults = [r] ∧ frCode r = 0x0A ∧ frPart r = p.val) ∧
      (bitAt v 0 = true → ∃ t, exec (.resume c x p v) s = .next t.settle ∧ s.OnlyCore t c ∧
        t.ctx c x = { s.ctx c x with halted := false, errSet := false, resumeAt := none } ∧
        (∀ st n, (s.ctx c x).halted = true → (s.ctx c x).resumeAt = some (st, n) → (t.stream c st).head = n % (s.stream c st).slots)) ∧
      (bitAt v 0 = false → exec (.resume c x p v) s = .next s.settle) ∧
      (∀ (n : Fin 64) (v : W64),
        let o := (s.ctx c x).staOf n.val
        let low := { o with tag := fld v 0 32 }
        let high := fun (b : StaSlot) => { b with amaxen := bitAt v 33, kind := fld v 34 2, psn := false, val := staIdent (fld v 34 2) }
        ∀ e ∈ [(CfgSpan.low, low), (.high, high o), (.whole, high low)],
          ∃ t, exec (.staCfgWrite c x p n e.1 v) s = .next t.settle ∧ s.OnlyCtx t c x ∧ (t.ctx c x).staOf n.val = e.2 ∧
            (∀ m, m ≠ n.val → (t.ctx c x).staOf m = (s.ctx c x).staOf m) ∧ { t.ctx c x with sta := (s.ctx c x).sta } = s.ctx c x)) ∧
    (∀ (p : PartId) (v : W64), s.partOfCtx c .primary = some p → (s.stash c).waits = [] →
      ∀ e ∈ [((0x2004 : BitVec 22), { s.stash c with base := fld v 0 32 &&& 0x3F0000 }),
          (0x2008, if fldN v 16 16 ≤ 32 then { s.stash c with size := fld v 0 32 &&& 0x3F0000 } else { s.stash c with cfgrej := true }),
          (0x2010, if bitAt v 0 = false ∨ (fldN v 36 4 = districtOf c ∧ fldN v 16 20 * 65536 + 65536 * stDir (s.stash c) ≤ 2 ^ 36) then
            { s.stash c with spillbase := v &&& 0xFFFFFF0001 } else { s.stash c with cfgrej := true })],
        ∃ t, exec (.stashConfigWrite c p e.1 v) s = .next t.settle ∧ s.OnlyCore t c ∧
          t.core c = { s.core c with stash := if (s.stash c).entries = [] then e.2 else { s.stash c with cfgrej := true } }) ∧
    (∀ (p : PartId) (v : W32), s.partOfCtx c .primary = some p →
      (∃ t, exec (.registerWrite c p 0x604 v) s = .next t.settle ∧ s.OnlyCore t c ∧
        t.core c = { s.core c with dq := { (s.core c).dq with idlethr := v } }) ∧
      (∀ off ∈ [(0x104 : BitVec 22), 0x208, 0x20C, 0x248, 0x600], exec (.registerWrite c p off v) s = .next s.settle)) ∧
    (∀ (p : PartId) (off : BitVec 22) (v : W32) (x : CtxId), off.toNat % 4 = 0 → (wReg off.toNat).owner = some x → s.partOfCtx c x ≠ some p →
      ∃ t, exec (.registerWrite c p off v) s = .next t ∧ s.OnlyDict t [dk 0x2300 4] ∧ s.Counted t (dk 0x2300 4) 1)

/-! ## Requests of the fabric, loss notices and watchdogs -/

/-- Requests of other modules: a write is performed, clean where it came clean, and acknowledged; a read delivers its bytes, a SYNCREAD the
object word; header packets write and read a block header; SADD and SSET act on the object; MRD and MWR read and write a core control
window; a refused request is counted and answered with ERR, and late data of an ended call are acknowledged and counted, not written (R237, R239 to R241, R286, R291,
R293, R311, R366). Each answer leaves on the plane on
which the request came. The model's choices in it: log entries 22, 30 and 50. -/
def Obligations.FabricRequests : Prop :=
  ∀ (s : State) (p : Packet) (n : PortId) (a : W64) (len : Nat), s.FromPlane p n → a = pAddr p.hdr → len = 16 * p.data.length →
    (pOpc p.hdr = 0x01 → isHeader p = false → isMail p = false → s.lateData p = false → s.reqCheck p [0, 1] len = .ok →
      ∃ t, exec (.wr p) s = .next t ∧ s.Answered t p n 0x04 0 0 [] ∧ (pTc p.hdr ≠ 1 → t.parts = s.parts) ∧
        { t with mem := s.mem, dict := s.dict, stackSts := s.stackSts, ports := s.ports, out := s.out, parts := s.parts } = s ∧
        (0 < len → t.mem.bytes (aKey a) len = bytesOfUnits p.data) ∧ s.mem.SameOutside t.mem (aKey a) len ∧
        (aOff a % 64 = 0 → len % 64 = 0 → pPsn p.hdr = 0 → ∀ i, i < len / 64 → t.mem.unit (aKey a / 64 + i) = .clean)) ∧
    (pOpc p.hdr = 0x01 → isHeader p = false → isMail p = false → s.lateData p = false → ∀ e ∈ [(Chk.part, 2, 4), (.addr, 1, 3)],
      s.reqCheck p [0, 1] len = e.1 →
      ∃ t, exec (.wr p) s = .next t ∧ s.Answered t p n 0x05 e.2.1 0 [] ∧ s.Counted t (dk 0x2300 e.2.2) 1 ∧
        { t with mem := s.mem, dict := s.dict, ports := s.ports, out := s.out, parts := s.parts } = s ∧ t.mem = s.mem) ∧
    (pOpc p.hdr = 0x01 → isHeader p = false → isMail p = false → s.lateData p = true →
      ∃ t, exec (.wr p) s = .next t ∧ s.Answered t p n 0x04 0 0 [] ∧ s.Counted t (dkx 0x2640 (pPart p.hdr) 0x0B) 1 ∧
        { t with dict := s.dict, ports := s.ports, out := s.out } = s) ∧
    (pOpc p.hdr = 0x02 → isHeader p = false → isSyncRead p = false → s.reqCheck p [0, 1] (16 * pLen p.hdr) = .ok →
      (∀ u ∈ unitsOf (aKey a) (16 * pLen p.hdr), s.mem.unit u = .clean) → s.mem.wf = true →
      ∃ t, exec (.rdq p {}) s = .next t ∧ s.Answered t p n 0x03 0 0 (unitsOfBytes (s.mem.bytes (aKey a) (16 * pLen p.hdr))) ∧
        { t with ports := s.ports, out := s.out } = s) ∧
    (pOpc p.hdr = 0x02 → isHeader p = false → isSyncRead p = true → aOff a % 8 = 0 → s.check (pPart p.hdr) a 8 = .ok → s.OwnersOk →
      ∀ e, ∃ t, exec (.rdq p e) s = .next t ∧ { t with ports := s.ports, out := s.out, cores := s.cores, objs := s.objs } = s ∧
        s.Answered t p n 0x03 0 0 [((s.obj (coreOf (aOff a / 2 ^ 15)) (aOff a % 2 ^ 15 / 8)).epoch ++
          (s.obj (coreOf (aOff a / 2 ^ 15)) (aOff a % 2 ^ 15 / 8)).count : W64).zeroExtend 128]) ∧
    (isHeader p = true → aOff a % 4096 = 0 → s.reqCheck p [0, 1] 4096 = .ok →
      (pOpc p.hdr = 0x01 → ∃ t, exec (.headerWrite p) s = .next t ∧ s.Answered t p n 0x04 0 0 [] ∧ t.mem.cells = s.mem.cells ∧
        t.mem.units = s.mem.units ∧ (∀ b, t.mem.header b = if b = aKey a / 4096 then fld (p.data.headD 0) 0 64 else s.mem.header b) ∧
        { t with mem := s.mem, ports := s.ports, out := s.out } = s) ∧
      (pOpc p.hdr = 0x02 → ∃ t, exec (.headerRead p) s = .next t ∧ { t with ports := s.ports, out := s.out } = s ∧
        s.Answered t p n 0x03 0 0 [(s.mem.header (aKey a / 4096)).zeroExtend 128])) ∧
    (∀ (c : CoreId) (k : Nat) (kind : SyncKind), aSpace a = 2 → aOff a = c.val * 2 ^ 15 + 8 * k → k < 4096 → s.check (pPart p.hdr) a 8 = .ok →
      s.OwnersOk → (∀ st, waitOn (s.stream c st) k = none) →
      (pOpc p.hdr = 0x06 → kind = .add → ∃ u, exec (.sadd p) s = .next (u.settle.sendAck p) ∧ (s.freeBuffer p).Synced u c k (syncOpOf kind (pSrc p.hdr) (p.data.headD 0)) ∧
        s.Answered (u.settle.sendAck p) p n 0x04 0 0 []) ∧
      (pOpc p.hdr = 0x07 → setKind (fld (p.data.headD 0) 73 2) = some kind →
        ∃ u, exec (.sset p) s = .next (u.settle.sendAck p) ∧ (s.freeBuffer p).Synced u c k (syncOpOf kind (pSrc p.hdr) (p.data.headD 0)) ∧
          s.Answered (u.settle.sendAck p) p n 0x04 0 0 [])) ∧
    (aSpace a = 4 → aOff a % 16 = 0 → s.check (pPart p.hdr) a 64 = .ok → s.winCheck (winCore a) (pPart p.hdr) (winOff a) 64 false = .ok →
      pOpc p.hdr = 0x10 → ∃ t, exec (.mrd p) s = .next t ∧ { t with ports := s.ports, out := s.out } = s ∧
        s.Answered t p n 0x12 0 0 (unitsOfBytes (s.winRead (winCore a) (winOff a) 64))) ∧
    (aSpace a = 4 → winOff a = 0x600 → len = 16 → s.check (pPart p.hdr) a 16 = .ok → s.offered (winCore a) = true →
      s.partOfCtx (winCore a) .primary = some (pPart p.hdr) → pOpc p.hdr = 0x11 → s.OwnersOk →
      ∃ u, exec (.mwr p) s = .next (u.settle.sendAck p) ∧ s.Answered (u.settle.sendAck p) p n 0x04 0 0 [] ∧ (s.freeBuffer p).OnlyCore u (winCore a) ∧
        u.core (winCore a) = { s.core (winCore a) with dq := { (s.core (winCore a)).dq with idlethr := fld (p.data.headD 0) 32 32 } })

/-- A loss notice gives every object of its partition that the lost context owns the context's new epoch, and no other object anything
(R297); one of an older term of the pod is discarded (R333). A SYNCWAIT that has waited for the time of its watchdog waits on, and PARTITION_FAULT is raised for its partition: its contexts
halt, once it has run (R304, R322). The model's choices in it: log entries 19 and 59. -/
def Obligations.LossAndWatchdog : Prop :=
  (∀ (s : State) (p : Packet), s.Arrives p → isMsg p 0x08 = true → s.staleTerm p = false →
    ∃ u, exec (.lossNotice p) s = .next u.settle ∧ u.mem = s.mem ∧
      (∀ c k, k < 4096 → u.obj c k =
        if s.objPart c k = msgPart p ∧ (s.ctx c (s.objCtx c k)).part.isSome = true ∧ (s.obj c k).claimed = true ∧ (s.obj c k).ownerOk = true ∧
            (s.obj c k).owner = ownerWord (fld (msgField p) 0 16) (fld (msgField p) 16 8) (bitAt (msgField p) 24) then
          { s.obj c k with epoch := fld (msgField p) 32 16 }
        else s.obj c k) ∧
      ((∀ c st, (s.stream c st).wait = none) → { u with objs := s.objs, dict := s.dict, ports := s.ports } = s ∧ s.Counted u (dkx 0x2900 (msgPart p) 9) 1)) ∧
  (∀ (s : State) (p : Packet), s.Arrives p → isMsg p 0x08 = true → s.staleTerm p = true → exec (.lossNotice p) s = .next (s.freeBuffer p)) ∧
  (∀ (s : State) (c : CoreId) (st : StreamId) (id obj : Nat) (cond : BitVec 2) (val : BitVec 48) (ep : W16) (start : W64) (wd : W32)
      (q : PartId),
    q = s.partD c (streamCtx st) → (s.stream c st).wait = some (.sync id obj cond val ep start false wd) → wd ≠ 0 → s.d (dkx 0x2900 q 3) = 0 →
    s.faults = [] → s.hasRun q = true →
    ∃ (u : State) (r : BitVec 256), exec (.syncWatchdogExpiry c st) s = .next u.settle ∧ u.mem = s.mem ∧ u.objs = s.objs ∧
      (u.stream c st).wait = some (.sync id obj cond val ep start true wd) ∧ u.faults = [r] ∧ frCode r = 0x0B ∧ frCls r = 1 ∧
      frPart r = q.val ∧ frTime r = s.now.toNat ∧ fldN r 64 64 = (4 + 256 * streamCode st + 65536 * obj) % 2 ^ 64 ∧
      (∀ e ∈ s.ctxsOf q, (u.ctx e.1 e.2).halted = true) ∧ (u.part q).gate.voidFrom.isSome = true)

/-! ## Responses and forwarding -/

/-- Responses. One that answers no request is counted and dropped (R242). Data of a read is written for its command, an ACK completes a
command whose last packet it answers, an ERR is kept in its status and stops further packets (R239 to R241). A request without a response
counts as answered at its timeout, with status 0x06 (R242). The model's choices in it: log entries 34 and 57. -/
def Obligations.FabricResponses : Prop :=
  ∀ (s : State) (p : Packet), s.Arrives p →
    (s.req (rspKey p) = none → ∀ e ∈ [(Instr.rdr p, 3), (.ack p, 4), (.err p, 5), (.mrr p, 0x12)], pOpc p.hdr = e.2 →
      ∃ (t : State), exec e.1 s = .next t ∧ (s.freeBuffer p).OnlyDict t [dk 0x2300 7] ∧ s.Counted t (dk 0x2300 7) 1) ∧
    (∀ r j, s.Awaits r j →
      (s.req (rspKey p) = some r → 2 ≤ j.outst →
        ∀ a n, r.sink = .mem a n → 0 < n → p.data.length = n → s.check (s.partD r.core r.ctx) (keyAddr a) (16 * n) = .ok →
        ∀ e ∈ [(Instr.rdr p, 3), (.mrr p, 0x12)], pOpc p.hdr = e.2 →
          ∃ (t : State) (i : Job), exec e.1 s = .next t.settle ∧ s.Responded t (rspKey p) ∧
            { t with cores := s.cores, reqs := s.reqs, mem := s.mem, dict := s.dict, stackSts := s.stackSts, ports := s.ports } = s ∧
            (∀ k, k < 16 * n → t.mem.byte (a + k) = (bytesOfUnits p.data).getD k 0) ∧ s.mem.SameOutside t.mem a (16 * n) ∧
            t.job r.core r.ctx r.job = some i ∧ i.outst = j.outst - 1 ∧ i.status = none ∧ i.errs = j.errs ∧
            i.poison = (j.poison || (psnUnits (s.pver (s.partD r.core r.ctx)) (16 * n) (pPsn p.hdr)).any id)) ∧
      (s.req (rspKey p) = some r → r.sink = .ack → j.outst = 1 → j.errs = [] → j.fpoison = [] → j.timedOut = false →
        pOpc p.hdr = 4 →
          ∃ (t : State) (i : Job), exec (.ack p) s = .next t.settle ∧ s.Responded t (rspKey p) ∧ { t with cores := s.cores, reqs := s.reqs, ports := s.ports } = s ∧
            t.job r.core r.ctx r.job = some i ∧ i.outst = 0 ∧ i.status = some (if j.poison = true then 0x05 else 0x00)) ∧
      (s.req (rspKey p) = some r → r.sink = .ack → j.fpoison = [] → pOpc p.hdr = 5 →
        (2 ≤ j.outst →
          ∃ (t : State) (i : Job), exec (.err p) s = .next t.settle ∧ s.Responded t (rspKey p) ∧ { t with cores := s.cores, reqs := s.reqs, ports := s.ports } = s ∧
            t.job r.core r.ctx r.job = some i ∧ i.outst = j.outst - 1 ∧ i.status = none ∧
            i.errs = j.errs ++ [BitVec.ofNat 4 (rspStatus p)] ∧ i.queue = []) ∧
        (j.outst = 1 → rspStatus p ≠ 2 → j.errs.contains 2 = false →
          ∃ (t : State) (i : Job), exec (.err p) s = .next t.settle ∧ s.Responded t (rspKey p) ∧ { t with cores := s.cores, reqs := s.reqs, ports := s.ports } = s ∧
            t.job r.core r.ctx r.job = some i ∧ i.outst = 0 ∧ i.status = some 0x02)) ∧
      (∀ q : ReqId, s.req (reqKey q.kind.val q.unit.toNat q.tag.toNat) = some r → r.sink = .ack → j.fpoison = [] → j.outst = 1 → j.errs = [] →
        ∃ (t : State) (i : Job) (f : BitVec 256), exec (.responseTimeout q) s = .next t.settle ∧ s.Responded t (reqKey q.kind.val q.unit.toNat q.tag.toNat) ∧ t.mem = s.mem ∧
          t.job r.core r.ctx r.job = some i ∧ i.outst = 0 ∧ i.status = some 0x06 ∧
          (s.faults = [] →
            t.faults = [f] ∧ frCode f = 0x05 ∧ frPart f = (s.partD r.core r.ctx).val ∧ fldN f 64 64 = r.addr.toNat))) ∧
    (∀ q : ReqId, s.req (reqKey q.kind.val q.unit.toNat q.tag.toNat) = none → exec (.responseTimeout q) s = .next s)

/-- A packet that comes in at a G port for a module of this rack leaves on the plane that its route number gives, on VC B where it crossed a
wrap of its last axis, with its HCHK made anew and nothing else changed (R236, R246 to R248). A reservation's outcome reaches a group that
waits for it (R280). A switch's result goes to its place in the call's result, and one that belongs to no call is counted once a call has
ended early (R275, R285). The model's choices in it: log entries 22, 23, 54 and 56. -/
def Obligations.ForwardAndMessages : Prop :=
  ∀ (s : State) (p : Packet), s.ownDev ≠ 0xFFFF → hchkOk p.hdr = true →
    (∀ (n m : PortId) pl planes h, pDst p.hdr ≠ s.ownDev → pOpc p.hdr ≠ 0 → rackOf s.ownDev = rackOf (pDst p.hdr) → p.port = some n → 8 ≤ n.val →
      pTc p.hdr ≠ 2 → s.fwdPlan p = some pl → planes = pl.planes → planes ≠ [] →
      planes.getD (((if pTc p.hdr = 3 then rspRoute p.hdr else fwdRoute p) + slotOf (pSrc p.hdr) + slotOf (pDst p.hdr) + rackOf (pDst p.hdr)) %
        planes.length) 0 = m.val → s.portActive m = true →
      h = withVc p.hdr (if lastVcB pl.bytes (rackOf (pSrc p.hdr)) (rackOf (pDst p.hdr)) then 1 else 0) →
      (s.portSt m).txq = [] → (s.portSt m).swapping = false → p.data.length + 1 ≤ (s.portSt m).credit (4 * pTc p.hdr + (pVc h).toNat) →
      ∃ (t : State), exec (.packetForward p) s = .next t ∧ t.out = s.out ++ [.packet m ⟨h, p.data, none⟩] ∧ hchkOk h = true ∧
        pVc h = (if lastVcB pl.bytes (rackOf (pSrc p.hdr)) (rackOf (pDst p.hdr)) then 1 else 0) ∧
        fld h 0 69 = fld p.hdr 0 69 ∧ fld h 71 49 = fld p.hdr 71 49 ∧
        (t.portSt m).credit (4 * pTc p.hdr + (pVc h).toNat) = (s.portSt m).credit (4 * pTc p.hdr + (pVc h).toNat) - (p.data.length + 1) ∧
        (∀ k, k ≠ m → t.portSt k = (s.freeBuffer p).portSt k) ∧ { t with ports := s.ports, out := s.out } = s) ∧
    (∀ g rack plane, pDst p.hdr = s.ownDev → isMsg p 0x20 = true → s.groupOf (msgPart p) (fld (msgField p) 0 16) = some g →
      rack = fldN (msgField p) 16 16 → plane = fldN (msgField p) 32 8 → g.pendingRes.contains (rack, plane) = true → g.sw = 0 →
      (∃ e ∈ g.pendingRes, e ≠ (rack, plane)) → bitAt (msgField p) 40 = true →
      ∃ (t : State) (i : Group), exec (.msg p) s = .next t.settle ∧ { t with parts := s.parts, ports := s.ports } = s ∧ (∀ q, q ≠ msgPart p → t.part q = s.part q) ∧
        t.groupOf (msgPart p) (fld (msgField p) 0 16) = some i ∧ i.handles = g.handles ++ [(rack, plane, fld (msgField p) 48 16)] ∧
        i.pendingRes = g.pendingRes.filter (· ≠ (rack, plane)) ∧ { i with handles := g.handles, pendingRes := g.pendingRes } = g) ∧
    (pOpc p.hdr = 0x09 → ∀ n : PortId, p.port = some n →
      (s.redCall (pPart p.hdr) n.val (pAddr p.hdr) = none → (s.part (pPart p.hdr)).failed ≠ [] →
        ∃ (u : State), exec (.redr p) s = .next u.collPump.settle ∧ (s.freeBuffer p).OnlyDict u [dkx 0x2640 (pPart p.hdr) 0x0B] ∧
          s.Counted u (dkx 0x2640 (pPart p.hdr) 0x0B) 1) ∧
      (∀ g k r, s.redCall (pPart p.hdr) n.val (pAddr p.hdr) = some (g, k, r) → r.first = true → (g.shape k.me k.desc).hier = false →
        16 * p.data.length ≤ r.left →
        ∃ (u : State) (i : Call), exec (.redr p) s = .next u.collPump.settle ∧ { u with parts := s.parts, ports := s.ports } = s ∧
          (∀ q, q ≠ pPart p.hdr → u.part q = s.part q) ∧ i ∈ (u.part (pPart p.hdr)).calls ∧
          i.res = putVals k.res (r.seg * (g.shape k.me k.desc).segElems + fldN (pAddr p.hdr) 0 16 / (g.shape k.me k.desc).ebytes)
            (elemsLe (g.shape k.me k.desc).ebytes (16 * p.data.length / (g.shape k.me k.desc).ebytes) (bytesOfUnits p.data)) ∧
          { i with res := k.res, resPsn := k.resPsn, red := k.red } = k ∧
          (16 * p.data.length = r.left → ∀ x ∈ i.red, x.seg ≠ r.seg) ∧
          (16 * p.data.length < r.left → ∃ x ∈ i.red, x.seg = r.seg ∧ x.left = r.left - 16 * p.data.length)))

/-! ## The link layer -/

/-- Codewords and FLOW on a trained port. The codeword expected next is taken, any other is not; the symbols corrected are counted for the port
and for their lanes, and a lane that exceeds its limit in a second gives its place to the spare one; a codeword with more errors than the code
corrects asks for a replay from its number on. A FLOW returns credits, which let a waiting packet go when they cover all of it, and its NAK is
answered with every codeword kept from ACKSEQ on; more replays in a millisecond than the limit take the port down (R226, R227, R229, R230,
R244). The model's choices in it: log entries 23, 56 and 91. -/
def Obligations.CodewordsAndCredits : Prop :=
  ∀ (s : State) (n : PortId), s.portTrained n.val = true →
    (∀ (errs : List (Fin 544)) kinds flits,
      let hits := fun l : Fin 16 => (((s.portSt n).addSer s.now errs).ser.filter (fun e => e.2 == l)).length
      (errs.length ≤ 15 → (∀ l, hits l ≤ s.dN (dk 0x2300 0x0A)) →
        (∃ (t : State), exec (.codeword n (s.portSt n).rxSeq errs kinds flits) s = .next t ∧ { t with ports := s.ports, dict := s.dict } = s ∧
          s.Counted t (ckPort n.val 6) errs.length ∧ (∀ k, k ≠ ckPort n.val 6 → t.d k = s.d k) ∧ (∀ m, m ≠ n → t.portSt m = s.portSt m) ∧
          (t.portSt n).rxSeq = (s.portSt n).rxSeq + 1 ∧ (t.portSt n).nak = false ∧ (t.portSt n).discard = false ∧
          { t.portSt n with
            rxSeq := (s.portSt n).rxSeq
            nak := (s.portSt n).nak
            discard := (s.portSt n).discard
            ser := (s.portSt n).ser
            rx := (s.portSt n).rx } = s.portSt n ∧ (t.portSt n).ser = ((s.portSt n).addSer s.now errs).ser ∧
          ((s.portSt n).rx = [] → (∀ u ∈ slotUnits kinds flits, idleUnit u = true) → (t.portSt n).rx = [])) ∧
        (∀ seq, seq ≠ (s.portSt n).rxSeq → ∃ (t : State), exec (.codeword n seq errs kinds flits) s = .next t ∧
          { t with ports := s.ports, dict := s.dict } = s ∧ (∀ k, k ≠ ckPort n.val 6 → t.d k = s.d k) ∧
          (∀ m, m ≠ n → t.portSt m = s.portSt m) ∧ t.portSt n = (s.portSt n).addSer s.now errs ∧ s.Counted t (ckPort n.val 6) errs.length)) ∧
      (∀ seq, errs.length ≤ 15 → (∃ l, s.dN (dk 0x2300 0x0A) < hits l) → (s.portSt n).used = false →
        ∃ (t : State) (l : Fin 16) (f : W256), exec (.codeword n seq errs kinds flits) s = .next t.settle ∧ s.dN (dk 0x2300 0x0A) < hits l ∧
          t.dN (ckPort n.val 5) = l.val ∧ (t.portSt n).used = true ∧ (t.portSt n).swapping = true ∧ t.out = s.out ++ [.lcf n f] ∧ lcType f = 3) ∧
      (∀ seq, 15 < errs.length → ∃ t f, exec (.codeword n seq errs kinds flits) s = .next t ∧
        { t with ports := s.ports, dict := s.dict, out := s.out } = s ∧ s.Counted t (ckPort n.val 7) 1 ∧
        t.portSt n = { s.portSt n with nak := true, discard := true } ∧ (∀ m, m ≠ n → t.portSt m = s.portSt m) ∧
        t.out = s.out ++ [.lcf n f] ∧ lcType f = 1 ∧ fld f 232 16 = (s.portSt n).rxSeq ∧ bitAt f 231 = true)) ∧
    (∀ f : W256, lcType f = 1 →
      (bitAt f 231 = false → (s.portSt n).txq = [] → ∃ (t : State), exec (.flow n f) s = .next t ∧ { t with ports := s.ports } = s ∧
        (∀ m, m ≠ n → t.portSt m = s.portSt m) ∧ { t.portSt n with credits := (s.portSt n).credits, acked := (s.portSt n).acked } = s.portSt n ∧
        (t.portSt n).acked = fld f 232 16 ∧ ∀ v, v < 20 → (t.portSt n).credit v = (s.portSt n).credit v + fldN f (64 + 8 * v) 8) ∧
      (∀ p v, bitAt f 231 = false → (s.portSt n).txq = [p] → (s.portSt n).swapping = false → v = 4 * pTc p.hdr + (pVc p.hdr).toNat → v < 20 →
        ∃ (t : State), exec (.flow n f) s = .next t ∧ { t with ports := s.ports, out := s.out } = s ∧
          (p.data.length + 1 ≤ (s.portSt n).credit v + fldN f (64 + 8 * v) 8 → t.out = s.out ++ [.packet n { p with port := none }] ∧
            (t.portSt n).txq = [] ∧ (t.portSt n).credit v = (s.portSt n).credit v + fldN f (64 + 8 * v) 8 - (p.data.length + 1)) ∧
          ((s.portSt n).credit v + fldN f (64 + 8 * v) 8 < p.data.length + 1 → t.out = s.out ∧ (t.portSt n).txq = [p])) ∧
      (bitAt f 231 = true → (s.portSt n).msReplays + 1 ≤ s.dN (dk 0x2300 9) → (s.portSt n).txq = [] →
        ∃ (t : State), exec (.flow n f) s = .next t ∧ { t with ports := s.ports, dict := s.dict, out := s.out } = s ∧ s.Counted t (ckPort n.val 8) 1 ∧
          (t.portSt n).msReplays = (s.portSt n).msReplays + 1 ∧ (t.portSt n).replay = (s.portSt n).replay ∧
          t.out = s.out ++ ((s.portSt n).replay.filter (fun e => decide ((e.1 - fld f 232 16).toNat < 2 ^ 15))).map (fun e => .codeword n e.1 e.2)) ∧
      (bitAt f 231 = true → s.dN (dk 0x2300 9) < (s.portSt n).msReplays + 1 → s.portUsers n.val = [] →
        ∃ (t : State), exec (.flow n f) s = .next t.settle ∧ s.WentDown t n))

/-- Training, discovery and loss of a port: an attempt sends a training pattern, a link comes up when both ends chose the highest version of
both masks, and a port without a common version reads STATE 4 (R232, R256, R418). A changed neighbour, a second lane failure and PORT_DOWN
take a port down, and PARTITION_FAULT is raised for a partition whose plan uses it (R226, R227, R260). The model's choices in it: log
entries 7 and 56. -/
def Obligations.LinkStates : Prop :=
  ∀ (s : State) (n : PortId),
    (s.board.tkUp = true → s.portTrained n.val = false → s.dN (ckPort n.val 1) ≠ 1 → ∃ (t : State), exec (.linkTrainingAttempt n) s = .next t ∧
      { t with ports := s.ports, dict := s.dict, out := s.out } = s ∧ t.dN (ckPort n.val 1) = 1 ∧ (∀ k, k ≠ ckPort n.val 1 → t.d k = s.d k) ∧
      t.out = s.out ++ [.train n] ∧ t.portSt n = { Port.reset with leftTraining := (s.portSt n).leftTraining } ∧
      (∀ m, m ≠ n → t.portSt m = s.portSt m)) ∧
    (∀ f v, s.dN (ckPort n.val 1) = 1 → lcType f = 2 → v = commonVer (dcVmask f) →
      (v = 0 → ∃ (t : State), exec (.linkTrained n f) s = .next t ∧ { t with ports := s.ports, dict := s.dict } = s ∧ t.dN (ckPort n.val 1) = 4 ∧
        (t.portSt n).leftTraining = true) ∧
      (v ≠ 0 → (dcVsel f).toNat ≠ v → ∃ (t : State), exec (.linkTrained n f) s = .next t ∧ { t with ports := s.ports } = s ∧
        t.portSt n = { s.portSt n with vsel := BitVec.ofNat 4 v }) ∧
      (v ≠ 0 → (dcVsel f).toNat = v → s.NoPlanWaits → (s.portSt n).txq = [] → ∃ (t : State), exec (.linkTrained n f) s = .next t.settle ∧
        { t with ports := s.ports, dict := s.dict } = s ∧ (∀ m, m ≠ n → t.portSt m = s.portSt m) ∧
        t.dN (ckPort n.val 1) = (if s.portUsers n.val = [] ∧ ∃ p ∈ allParts, s.dN (dkx 0x2330 p 3) = 2 then 3 else 2) ∧
        t.dN (ckPort n.val 2) = v ∧ t.dN (ckPort n.val 3) = dcId f ∧ t.dN (ckPort n.val 4) = dcRolePort f ∧ t.dN (ckPort n.val 5) = 0xFF ∧
        t.portSt n = { Port.reset with leftTraining := true, vsel := BitVec.ofNat 4 v, reach := dcReach f }) ∧
      (∃ (t : State), exec (.disc n f) s = .next t ∧ { t with ports := s.ports } = s ∧ t.portSt n = { s.portSt n with vsel := BitVec.ofNat 4 v })) ∧
    (s.portTrained n.val = true →
      (∀ f, lcType f = 2 → s.NoPlanWaits → dcId f = s.dN (ckPort n.val 3) → dcRolePort f = s.dN (ckPort n.val 4) →
        ∃ (t : State), exec (.disc n f) s = .next t.settle ∧ { t with ports := s.ports } = s ∧ t.portSt n = { s.portSt n with reach := dcReach f } ∧
          ∀ m, m ≠ n → t.portSt m = s.portSt m) ∧
      (∃ (t : State) (f : W256), exec (.discSend n) s = .next t ∧ { t with out := s.out } = s ∧ t.out = s.out ++ [.lcf n f] ∧ lcType f = 2 ∧ dcVmask f = 7 ∧
        dcVsel f = (s.portSt n).vsel ∧ dcId f = s.ownDev.toNat ∧ dcRolePort f = (if 8 ≤ n.val then 16 else 0) + n.val) ∧
      (∃ (t : State), exec (.equalisationUpdate n) s = .next t ∧ s.OnlyDict t [dk 0x2150 (n.val + 1)] ∧ s.Counted t (dk 0x2150 (n.val + 1)) 1) ∧
      (∀ lane : Fin 16, (s.portSt n).used = false → ∃ (t : State) (f : W256), exec (.laneFailure n lane) s = .next t ∧
        { t with ports := s.ports, dict := s.dict, out := s.out, free := s.free } = s ∧ t.out = s.out ++ [.lcf n f] ∧ lcType f = 3 ∧
        t.dN (ckPort n.val 5) = lane.val ∧ t.portSt n = { s.portSt n with used := true, swapping := true, ser := (s.portSt n).ser.filter (fun e => e.2 ≠ lane) }) ∧
      (∀ f, lcType f = 3 → (s.portSt n).used = false → ∃ (t : State), exec (.lane n f) s = .next t ∧ { t with ports := s.ports, dict := s.dict } = s ∧
        t.dN (ckPort n.val 5) < 16 ∧ t.portSt n = { s.portSt n with
          used := true
          swapping := true
          ser := (s.portSt n).ser.filter (fun e => e.2.val ≠ t.dN (ckPort n.val 5)) }) ∧
      (s.portUsers n.val = [] →
        (∃ (t : State), exec (.portDown n) s = .next t.settle ∧ s.WentDown t n) ∧
        (∀ lane : Fin 16, (s.portSt n).used = true → ∃ (t : State), exec (.laneFailure n lane) s = .next t.settle ∧ s.WentDown t n) ∧
        (∀ f, lcType f = 2 → dcId f ≠ s.dN (ckPort n.val 3) → ∃ (t : State), exec (.disc n f) s = .next t.settle ∧ s.WentDown t n)) ∧
      (∀ p, s.portUsers n.val = [p] → s.faults = [] → ∃ (t : State) (f : BitVec 256), exec (.portDown n) s = .next t.settle ∧
        t.mem = s.mem ∧ t.dN (ckPort n.val 1) = 0 ∧ t.faults = [f] ∧ frCode f = 0x0B ∧ frCls f = 1 ∧ frPart f = p.val ∧ fldN f 64 64 = 2)) ∧
    ((s.portSt n).swapping = true → (s.portSt n).txq = [] → ∃ (t : State), exec (.spareLaneSwapDone n) s = .next t ∧ { t with ports := s.ports } = s ∧
      t.portSt n = { s.portSt n with swapping := false } ∧ ∀ m, m ≠ n → t.portSt m = s.portSt m)

/-! ## Plans, groups and collective messages -/

/-- PLAN_LOAD and GROUP_LOAD are refused while a context of the partition is enabled (R259, R264). A plan whose address is not aligned is
refused with cause 1; one that passes, with every port it uses matching, is accepted at once with its ports and planes, and one still
without its ports after 500 ms is refused with cause 7 and PLAN_MISMATCH (R258). Groups that no switch could serve are planned at once, with
the digest of their records (R272, R283); a reservation that gets no answer counts as refused (R280). The model's choices in it: log entries
29, 54 and 55. -/
def Obligations.PlansAndGroups : Prop :=
  ∀ (s : State) (p : PartId) (r : Route), s.GrantsPart r p →
    (s.anyEnabled p = true →
      (∃ (t : State), exec (.planLoad r p 1) s = .next t.settle ∧ s.OnlyDict t [dkx 0x2330 p 8] ∧ t.dN (dkx 0x2330 p 8) = 6) ∧
      (∃ (t : State), exec (.groupLoad r p 1) s = .next t.settle ∧ s.OnlyDict t [dkx 0x2640 p 4] ∧ t.dN (dkx 0x2640 p 4) = 5)) ∧
    (s.anyEnabled p = false →
      (aOff (s.d (dkx 0x2330 p 1)) % 64 ≠ 0 →
        ∃ (t : State), exec (.planLoad r p 1) s = .next t.settle ∧ { t with dict := s.dict } = s ∧ t.dN (dkx 0x2330 p 3) = 3 ∧ t.dN (dkx 0x2330 p 8) = 1) ∧
      (∀ a pl, a = s.d (dkx 0x2330 p 1) → s.ownMem a 1280 = true → aSpace a = 0 → aOff a % 64 = 0 → s.check p a 1280 = .ok → s.mem.wf = true →
        (∀ u ∈ unitsOf (aKey a) 1280, s.mem.unit u = .clean) → pl = s.mem.bytes (aKey a) 1280 →
        planFields pl = true → planWraps pl = true → planGateways pl (rackOf s.ownDev) = true →
        (∀ n ∈ planUses pl, s.portMatch pl n = true ∧ planPver pl ≤ s.dN (dk (0x2301 + n) 2) ∧ (8 ≤ n → ∀ q ∈ s.portUsers n, q = p)) →
        ∃ (t : State), exec (.planLoad r p 1) s = .next t.settle ∧ { t with dict := s.dict, parts := s.parts } = s ∧ (t.part p).plan = pl ∧
          { t.part p with plan := (s.part p).plan } = s.part p ∧ (∀ q, q ≠ p → t.part q = s.part q) ∧
          t.dN (dkx 0x2330 p 3) = 2 ∧ t.dN (dkx 0x2330 p 4) = planId pl ∧ t.dN (dkx 0x2330 p 6) = planPlanes pl ∧ t.dN (dkx 0x2330 p 7) = planPver pl ∧
          (∀ n, n < 10 → ((t.d (dkx 0x2330 p 5)).getLsbD n = true ↔ n ∈ planUses pl)) ∧
          (∀ n ∈ planUses pl, t.dN (dk (0x2301 + n) 1) = 2 ∧ (8 ≤ n → t.dN (dk (0x2301 + n) 9) = p.val))) ∧
      (∀ gs, (s.part p).groups = [] → (s.part p).outcomes = [] → s.dN (dkx 0x2330 p 3) = 2 → s.d (dkx 0x2640 p 5) = 0 →
        s.parseTable p (s.d (dkx 0x2640 p 1)) = (s, ⟨gs, []⟩) → (∀ g ∈ gs, g.couldSwitch (s.dN (dkx 0x2330 p 7)) = false ∧ g.sw ≠ 2) →
        ∃ (t : State), exec (.groupLoad r p 1) s = .next t.settle ∧ { t with dict := s.dict, parts := s.parts } = s ∧
          t.dN (dkx 0x2640 p 3) = 2 ∧ (t.part p).groups = gs.map Group.planned ∧ (t.part p).callNo = [] ∧ (t.part p).mailbox = [] ∧
          t.d (dkx 0x2640 p 6) = sha64 ((gs.map Group.planned).flatMap Group.record) ∧
          (∀ k, k ∉ [dkx 0x2640 p 3, dkx 0x2640 p 6, dkx 0x2640 p 0x0D] → t.d k = s.d k) ∧ (∀ q, q ≠ p → t.part q = s.part q)) ∧
      ((s.part p).groups = [] → s.dN (dkx 0x2330 p 3) = 2 → aOff (s.d (dkx 0x2640 p 1)) % 64 ≠ 0 →
        ∃ (t : State), exec (.groupLoad r p 1) s = .next t.settle ∧ { t with dict := s.dict, parts := s.parts } = s ∧ t.dN (dkx 0x2640 p 3) = 3 ∧
          t.dN (dkx 0x2640 p 4) = 1 ∧ t.part p = s.part p)) ∧
    (s.NoPlanWaits → exec (.planCheckTimeout p) s = .next s.settle) ∧
    (∀ n, s.dN (dkx 0x2330 p 3) = 1 → (∀ q, (s.part q).groupReq = false) → n ∈ planUses (s.part p).plan →
      (∀ m ∈ planUses (s.part p).plan, m < 8 ∧ (s.portMatch (s.part p).plan m = true → planPver (s.part p).plan ≤ s.dN (dk (0x2301 + m) 2))) →
      s.portMatch (s.part p).plan n = false → prOpt (planPort (s.part p).plan n) = false → s.faults = [] →
      ∃ (t : State) (f : BitVec 256), exec (.planCheckTimeout p) s = .next t.settle ∧ t.mem = s.mem ∧ t.dN (dkx 0x2330 p 3) = 3 ∧
        t.dN (dkx 0x2330 p 8) = 7 ∧ t.faults = [f] ∧ frCode f = 0x0A ∧ frPart f = p.val ∧ fldN f 64 64 = 7) ∧
    (∀ (gid : W16) (plane : Fin 8) g rack, s.groupOf p gid = some g → g.pendingRes.filter (fun e => e.2 == plane.val) = [(rack, plane.val)] →
      rack ≠ rackOf s.ownDev → g.handles = [] → s.dN (dkx 0x2640 p 3) ≠ 1 →
      ∃ (t : State) (i : Group), exec (.reservationTimeout p gid plane) s = .next t.settle ∧ { t with parts := s.parts } = s ∧
        (∀ q, q ≠ p → t.part q = s.part q) ∧ t.groupOf p gid = some i ∧ i.sw = 2 ∧
        i.pendingRes = g.pendingRes.filter (· ≠ (rack, plane.val)) ∧ { i with sw := g.sw, pendingRes := g.pendingRes } = g)

/-- Mailboxes of the collective engines. A READY for one of the next calls of its group waits in its mailbox, one three or more ahead is
turned back with status 4, and is sent again and counted while its call lasts (R268); a segment's end reaches the call that it names and no
other (R269). A call that times out
ends with status 0x09, and every later call of its group at the member with it (R286). The model's choices in it: log entries 19 and 53. -/
def Obligations.CollectiveMessages : Prop :=
  ∀ (s : State),
    (∀ p n m k, s.FromPlane p n → pOpc p.hdr = 0x01 → s.mailFor p m.part m.core = true →
      (s.part m.part).failed.contains (m.core, m.gid) = false → (s.part m.part).calls = [] →
      ((s.part m.part).nextCall m.core m.gid).toNat ≤ m.call.toNat → k = m.call.toNat - ((s.part m.part).nextCall m.core m.gid).toNat →
      ∃ (u : State), exec (.ready (p, m)) s = .next u.collPump.settle ∧ { u with parts := s.parts, ports := s.ports, out := s.out } = s ∧
        s.Answered u p n 0x04 (if 3 ≤ k then 4 else 0) 0 [] ∧
        u.part m.part = (if 3 ≤ k then s.part m.part else { s.part m.part with mailbox := (s.part m.part).mailbox ++ [m] }) ∧
        ∀ q, q ≠ m.part → u.part q = s.part q) ∧
    (∀ m, (s.part m.part).retries = [(s.ownDev, m)] →
      ((s.part m.part).calls.find? (fun k => k.gid == m.gid && k.me == m.peer && k.call == m.call) = none →
        ∃ (t : State), exec (.readyRetry m) s = .next t ∧ { t with parts := s.parts } = s ∧ t.part m.part = { s.part m.part with retries := [] }) ∧
      (∀ c k, (s.part m.part).calls.find? (fun k => k.gid == m.gid && k.me == m.peer && k.call == m.call) = some c →
        (s.part m.part).failed.contains (m.core, m.gid) = false → (∀ i ∈ (s.part m.part).calls, i.is m.core m.gid = false) →
        ((s.part m.part).nextCall m.core m.gid).toNat ≤ m.call.toNat → k = m.call.toNat - ((s.part m.part).nextCall m.core m.gid).toNat →
        ∃ (u : State), exec (.readyRetry m) s = .next u.collPump.settle ∧ { u with parts := s.parts, dict := s.dict } = s ∧
          s.Counted u (dkx 0x2640 m.part 0x0F) 1 ∧ (∀ k, k ≠ dkx 0x2640 m.part 0x0F → u.d k = s.d k) ∧
          u.part m.part = (if 3 ≤ k then s.part m.part else { s.part m.part with mailbox := (s.part m.part).mailbox ++ [m], retries := [] }))) ∧
    (∀ m, (s.part m.part).retries.all (fun e => e.2 != m) = true → exec (.readyRetry m) s = .next s) ∧
    (∀ p n m, s.FromPlane p n → pOpc p.hdr = 0x01 → s.mailFor p m.part m.core = true →
      (∀ k, (s.part m.part).calls = [k] → k.core = m.core → k.gid = m.gid → k.call = m.call → k.heard.contains m.peer = true →
        ∃ (u : State) (i : Call), exec (.segmentEnd (p, m)) s = .next u.collPump.settle ∧ s.Answered u p n 0x04 0 0 [] ∧
          { u with parts := s.parts, ports := s.ports, out := s.out } = s ∧ (u.part m.part).calls = [i] ∧
          { i with inq := k.inq, recv := k.recv } = k ∧ i.inq = k.inq ++ [(cget k.recv m.peer, m)] ∧
          (∀ n, cget i.recv n = cget k.recv n + if n = m.peer then 1 else 0) ∧ (∀ q, q ≠ m.part → u.part q = s.part q)) ∧
      ((s.part m.part).calls = [] → (s.part m.part).failed.contains (m.core, m.gid) = true →
        ∃ (u : State), exec (.segmentEnd (p, m)) s = .next u.collPump.settle ∧ s.Answered u p n 0x04 0 0 [] ∧
          { u with dict := s.dict, ports := s.ports, out := s.out } = s ∧ s.Counted u (dkx 0x2640 m.part 0x0B) 1)) ∧
    (∀ (c : CoreId) (x : CtxId) gid p k j, p = s.partD c x → (s.part p).calls = [k] → k.core = c → k.ctx = x → k.gid = gid →
      s.job c x k.job = some j → j.status = none → s.faults = [] → s.hasRun p = true →
      ∃ (u : State) (i : Job) (f g : BitVec 256), exec (.collTimeout c x gid) s = .next u.collPump.settle ∧ u.mem = s.mem ∧ (u.part p).calls = [] ∧
        (u.part p).failed = (s.part p).failed ++ [(c, gid)] ∧ u.job c x k.job = some i ∧ i.status = some 0x09 ∧
        u.faults = [f, g] ∧ frCode f = 0x09 ∧ frCode g = 0x0B ∧ fldN g 64 64 = 3 ∧ ∀ e ∈ s.ctxsOf p, (u.ctx e.1 e.2).halted = true)

/-! ## Commit gate and damask -/

/-- The commit gate. A step that every enabled context has passed, or holds a STEPCOMMIT of with everything before it done, closes locally:
the collectors end the step, entries written come into force, and captures of the step become urgent (R118, R203, R316, R320). Its tally goes
to the vote as (c, s, not s) (R287). A clean result commits it; a dirty one, a timeout and a VOID message make every undecided step void,
once, and after a timeout no later vote is clean (R286, R320, R321). The model's choices in it: log entries 25 and 61. -/
def Obligations.CommitGate : Prop :=
  ∀ (s : State) (p : PartId) (g : Gate), g = (s.part p).gate →
    (g.closed0 = false → g.voidFrom = none → (∃ e ∈ s.ctxsOf p, (s.ctx e.1 e.2).en = true) →
      (∀ e ∈ s.ctxsOf p, (s.ctx e.1 e.2).en = true → s.ctxClosed e.1 e.2 g.step = true) → s.ckptDue p g.step = none →
      ∃ (t : State), exec (.localClose p) s = .next t.settle ∧ (t.part p).gate = { g with closed0 := true } ∧ t.dN (dkx 0x2510 p 8) = 2 ∧
        t.objs = s.objs ∧ (t.part p).tallies = [] ∧ (t.part p).pinStep = g.step + 1 ∧ (t.part p).late = [] ∧
        (∀ r ∈ (t.part p).reports, r.step ≠ g.step) ∧ (∀ k ∈ closeKeys p, t.df k = s.d k) ∧
        t.d (dkp p 0x2710 9) = g.step ∧ (∀ i, i < 8 → t.d (dkp p 0x2710 (i + 1)) =
          (s.coresIn p).foldl (fun a c => a + timerAt ((s.core c).stepTimers g.step) i) 0) ∧
        t.caps = s.caps.map (fun k => if k.part = p ∧ k.step = g.step then { k with urgent := true } else k)) ∧
    (s.dN (dkx 0x2510 p 8) = 2 → g.closed0 = true → (∀ k ∈ s.caps, ¬(k.part = p ∧ k.step = g.step)) → s.badGroup p 0xFFFF = false →
      ((s.part p).failed.contains (0, 0xFFFF) = false → s.critOk (dkx 0x2510 p 7) = true →
        ∃ (t : State), exec (.cleanVote p) s = .next t ∧ { t with dict := s.dict, out := s.out } = s ∧ t.dN (dkx 0x2510 p 8) = 3 ∧
          (∀ k, k ≠ dkx 0x2510 p 8 → t.d k = s.d k) ∧
          t.out = s.out ++ [.vote p (if g.dirty0 = none then 1 else 0) (s.d (dkx 0x2510 p 7) + 1) (~~~(s.d (dkx 0x2510 p 7) + 1))]) ∧
      ((s.part p).failed.contains (0, 0xFFFF) = true → g.voidFrom = none →
        ∃ (t : State), exec (.cleanVote p) s = .next t.settle ∧ (t.part p).gate.voidFrom = some g.step ∧ t.dN (dkx 0x2510 p 8) = 4)) ∧
    (s.dN (dkx 0x2510 p 8) = 3 → ∀ aw : List Nat,
      (∀ r : W64, ∃ (t : State), exec (.voteResult p (.result 1 r (~~~r))) s = .next t.settle ∧ t.d (dkx 0x2510 p 7) = g.step ∧
        t.critOk (dkx 0x2510 p 7) = true ∧ (t.part p).gate = ⟨g.step + 1, g.closed1, false, g.dirty1, none, none⟩ ∧
        t.dN (dkx 0x2510 p 8) = (if g.closed1 = true then 2 else 0) ∧ { t with dict := s.dict, dictN := s.dictN, parts := s.parts, caps := s.caps } = s) ∧
      (∀ r0 r1 r2 : W64, (r0 ≠ 1 ∨ r1 ≠ ~~~r2) → g.voidFrom = none → s.voteDevs p = [s.ownDev] → s.leader = 0xFFFF ∨ s.leader = s.ownDev →
        ∃ (t : State), exec (.voteResult p (.result r0 r1 r2)) s = .next t.settle ∧ s.Voided t p g.step) ∧
      (g.voidFrom = none → s.faults = [] → s.hasRun p = true → ∃ (t : State) (f h : BitVec 256), exec (.voteResult p (.timeout aw)) s = .next t.settle ∧
        t.faults = [f, h] ∧ frCode f = 0x09 ∧ fldN f 64 64 = (0xFFFF * 2 ^ 32 + s.votePeer p aw) % 2 ^ 64 ∧ frCode h = 0x0B ∧ fldN h 64 64 = 3 ∧
        (t.part p).failed.contains (0, 0xFFFF) = true ∧ (t.part p).gate.voidFrom = some g.step ∧
        t.dN (dkx 0x2510 p 8) = 4 ∧ ∀ e ∈ s.ctxsOf p, (t.ctx e.1 e.2).halted = true)) ∧
    (∀ m, s.Arrives m → isMsg m 0x05 = true → msgPart m = p →
      (s.staleTerm m = false → g.voidFrom = none → s.leader = 0xFFFF ∨ s.voteDevs p = [] ∨ s.leader ∈ s.voteDevs p →
        ∃ (t : State), exec (.void m) s = .next t.settle ∧
          (s.freeBuffer m).Voided t p (if g.step.toNat ≤ (msgField m).toNat then msgField m else g.step)) ∧
      (s.staleTerm m = false → g.voidFrom ≠ none → exec (.void m) s = .next (s.freeBuffer m).settle) ∧
      (s.staleTerm m = true → exec (.void m) s = .next (s.freeBuffer m)))

/-- Damask. The buddy, eight districts on, re-executes a capture when it is idle or the capture is urgent; it forms a digest from the captured
operands under the decisions of their step. One that is equal to the origin's ends the check, and another one is counted and goes to the
arbiter, whose digest decides the loser; one equal to neither, a capture that fails its own check, and a timeout leave the check unresolved.
The arbiter's digest makes the step dirty; it and an unresolved check raise DAMASK_MISMATCH (R316 to R319). `u` are the bits that an upset
has turned over in what the core computes. The model's choices in it: log entries 6, 37 and 46. -/
def Obligations.DamaskChecks : Prop :=
  ∀ (s : State) (id : Nat) (k : Capture), s.capOf id = some k →
    (∀ b, b = coreOf (16 * ((districtOf k.core + 8) % 16) + k.core.val % 16) → s.offered b = true →
      (k.st = .waiting → k.urgent = true ∨ s.coreIdle b = true → ∃ (t : State), exec (.damaskReexecute id) s = .next t ∧
        { t with caps := s.caps } = s ∧ t.capOf id = some { k with st := .running } ∧ ∀ i, i ≠ id → t.capOf i = s.capOf i) ∧
      (k.st = .waiting → k.urgent = false → s.coreIdle b = false → exec (.damaskReexecute id) s = .next s) ∧
      (k.st = .arbitrating → s.damaskGo k = true → k.digest ≠ k.buddyDigest → s.faults = [] →
        ∀ u d, d = k.redo ^^^ u → ∃ (t : State) (f : BitVec 256), exec (.damaskArbitration id (some u)) s = .next t.settle ∧ t.capOf id = none ∧
          t.faults = [f] ∧ frCode f = 0x06 ∧ frCls f = 0 ∧ frPart f = k.part.val ∧
          fldN f 64 64 = (if d = k.digest then b.val else if d = k.buddyDigest then k.core.val else 0xFF) + 256 * k.core.val ∧
          (d ≠ k.digest → d ≠ k.buddyDigest → s.Counted t (dkx 0x2510 k.part 6) 1) ∧
          ((s.part k.part).gate.voidFrom = none → k.step = (s.part k.part).gate.step → (t.part k.part).gate.dirty0 ≠ none))) ∧
    (k.st = .running → s.damaskGo k = true →
      (∀ u, k.redo ^^^ u = k.digest → ∃ (t : State), exec (.damaskCheck id (some u)) s = .next t ∧ { t with caps := s.caps } = s ∧
        t.capOf id = none ∧ ∀ i, i ≠ id → t.capOf i = s.capOf i) ∧
      (∀ u, k.redo ^^^ u ≠ k.digest → ∃ (t : State), exec (.damaskCheck id (some u)) s = .next t ∧ { t with caps := s.caps, dict := s.dict } = s ∧
        s.Counted t (dkx 0x2510 k.part 5) 1 ∧ t.capOf id = some { k with st := .disputed, buddyDigest := k.redo ^^^ u } ∧
        ∀ i, i ≠ id → t.capOf i = s.capOf i)) ∧
    (s.faults = [] → ∀ e ∈ [(Instr.damaskTimeout id, k.urgent = true), (.damaskCheck id none, k.st = .running ∧ s.damaskGo k = true),
        (.damaskArbitration id none, k.st = .arbitrating ∧ s.damaskGo k = true)], e.2 →
      ∃ (t : State) (f : BitVec 256), exec e.1 s = .next t.settle ∧ t.capOf id = none ∧
        s.Counted t (dkx 0x2510 k.part 6) 1 ∧ t.faults = [f] ∧ frCode f = 0x06 ∧ fldN f 64 64 = 0xFF + 256 * k.core.val ∧ t.mem = s.mem)

/-! ## Recovery -/

/-- Checkpoints and restarts. A request is kept for the next local close; a finished copy is valid once its step has committed (R326, R327).
A member answers the STOP phase with the checkpoints that it holds, and the leader keeps each CKPT_STATUS and each reply until all are there
(R328). The watchdog of the service firmware voids undecided steps and abandons copies, keeps the reply to a restore as owed, and the module
is a follower (R335). The model's
choices in it: log entries 66, 67 and 80. -/
def Obligations.CheckpointsAndRestarts : Prop :=
  ∀ (s : State) (p : PartId) (k : Ckpt), k = (s.part p).ckpt →
    (∀ r, s.GrantsPart r p → ∃ (t : State), exec (.ckptRequest r p 1) s = .next t.settle ∧ { t with parts := s.parts } = s ∧
      t.part p = { s.part p with ckpt := { k with requested := true } } ∧ ∀ q, q ≠ p → t.part q = s.part q) ∧
    (∀ n slot, k.copying = some (n, slot) → slot < 2 → k.outst = 0 → k.queue = [] → ∃ (t : State) (c : Ckpt),
      exec (.checkpointCopyDone p) s = .next t.settle ∧ { t with parts := s.parts, dict := s.dict } = s ∧ t.dN (dkx 0x2510 p 0x0F) = 0 ∧
        t.part p = { s.part p with ckpt := c } ∧ (∀ q, q ≠ p → t.part q = s.part q) ∧ c.copying = none ∧ c.ranges = [] ∧ c.failed = false ∧
        c.requested = k.requested ∧ c.saved = k.saved ∧
        (k.failed = false → n.toNat < (s.part p).gate.step.toNat → c.copied = none ∧ (if slot = 0 then c.slot0 else c.slot1) = some n ∧
          (if slot = 0 then c.slot1 else c.slot0) = (if slot = 0 then k.slot1 else k.slot0)) ∧
        (k.failed = false → (s.part p).gate.step.toNat ≤ n.toNat → c.copied = some (n, slot) ∧ c.slot0 = k.slot0 ∧ c.slot1 = k.slot1) ∧
        (k.failed = true → c.copied = none ∧ c.slot0 = k.slot0 ∧ c.slot1 = k.slot1)) ∧
    (∀ m r, s.Arrives m → msgPart m = p → s.term ≤ msgTerm m → s.leads = true → s.lead.restarts = [r] → r.part = p → r.sent = true →
      s.lead.pendingReplies = [] → s.lead.unhealthy = [] → (∀ q, (s.part q).gate.voidFrom = none) →
      (∃ d ∈ r.devs, d ≠ pSrc m.hdr ∧ d ∉ r.replies ∧ ∀ e ∈ r.status, e.1 ≠ d) →
      (∀ e ∈ (pSrc m.hdr, msgField m, fld (m.data.getD 1 0) 0 64) :: r.status, e.2.1 ≠ BitVec.allOnes 64 ∨ e.2.2 ≠ BitVec.allOnes 64) →
      (isMsg m 0x06 = true → r.phase = 0 → ∃ (t : State), exec (.ckptStatus m) s = .next t.settle ∧
        { t with lead := s.lead, dict := s.dict, ports := s.ports } = s ∧
        t.lead = { s.lead with restarts := [{ r with
          status := r.status.filter (fun e => e.1 != pSrc m.hdr) ++ [(pSrc m.hdr, msgField m, fld (m.data.getD 1 0) 0 64)] }] }) ∧
      (isMsg m 0x07 = true → bitAt (m.data.headD 0) 10 = true → fld (m.data.headD 0) 8 2 = r.phase → r.phase ≠ 0 → pSrc m.hdr ∉ r.replies →
        r.replies.Nodup → ∃ (t : State), exec (.restart m) s = .next t.settle ∧ { t with lead := s.lead, dict := s.dict, ports := s.ports } = s ∧
          t.lead = { s.lead with restarts := [{ r with replies := r.replies ++ [pSrc m.hdr] }] })) ∧
    (∀ m n, s.Arrives m → msgPart m = p → s.term ≤ msgTerm m → isMsg m 0x07 = true → bitAt (m.data.headD 0) 10 = false →
      fldN (m.data.headD 0) 8 2 = 0 → s.configured p = true → s.hasRun p = false → s.unfit p = false → s.board.sfUp = true → s.lead.pendingReplies = [] →
      pSrc m.hdr ≠ s.ownDev → pSrc m.hdr ≠ 0xFFFF → s.MayTell (pSrc m.hdr) n 2 →
      ∃ (t : State) (u : W128), exec (.restart m) s = .next t.settle ∧ t.mem = s.mem ∧ t.parts = s.parts ∧ t.cores = s.cores ∧
        t.term = msgTerm m ∧ t.leader = pSrc m.hdr ∧ s.Told t (pSrc m.hdr) n [u, (s.d (dkx 0x2510 p 0x0E)).zeroExtend 128] ∧
        fldN u 0 8 = 0x06 ∧ fldN u 16 4 = p.val ∧ fldN u 32 32 = msgTerm m ∧ fld u 64 64 = s.d (dkx 0x2510 p 0x0D)) ∧
    (∀ b, s.board.sfUp = true → ∃ (t : State), exec (.sfWatchdogExpiry b) s = .next t.settle ∧ s.Counted t (dk 0x2530 5) 1 ∧
      t.dN (dk 0x2530 4) = 1 ∧ t.dN (dk 0x2530 3) = 0 ∧ t.mem = s.mem ∧ t.cores = s.cores ∧ t.objs = s.objs ∧
      (s.configured p = true → s.hasRun p = true → (t.part p).gate.voidFrom.isSome = true) ∧
      (s.configured p = true → (t.part p).ckpt = { k with
        copying := none
        ranges := []
        copied := none
        queue := []
        outst := 0
        failed := false
        restore := none }) ∧
      { t.lead with pendingReplies := s.lead.pendingReplies } = { s.lead with leased := false, stopped := s.lead.stopped || b } ∧
      (s.configured p = true → ∀ r, k.restore = some r → (p, 2, r.step) ∈ t.lead.pendingReplies))

/-- Leases and replicas. A follower answers a LEASE of its term or a later one and takes its term, leader and health map; the leader sends
one to every module of its pod that it can reach, and takes each answer; one that it had declared lost is sent to its replicas as well again
(R333). A replica keeps the state it is sent when its halves agree,
answers with its number, and discards it otherwise (R325, R332). A lapse makes replica 1 the leader of the next term, and a leader that
hears from no replica a follower (R333). The model's choices in it: log entries 26 and 67. -/
def Obligations.LeasesAndReplicas : Prop :=
  ∀ (s : State),
    (∀ m n, s.Arrives m → isMsg m 0x01 = true → s.term ≤ msgTerm m → s.leads = false → s.lead.stopped = false → s.lead.pendingReplies = [] →
      bitAt (m.data.getD (podIdx s.ownDev / 128 + 1) 0) (podIdx s.ownDev % 128) = true → pSrc m.hdr ≠ 0xFFFF → s.board.sfUp = true →
      s.MayTell (pSrc m.hdr) n 1 →
      ∃ (t : State) (u : W128), exec (.lease m) s = .next t.settle ∧ t.mem = s.mem ∧ t.parts = s.parts ∧ t.cores = s.cores ∧
        t.term = msgTerm m ∧ t.leader = pSrc m.hdr ∧ t.dN (dk 0x2530 4) = 0 ∧
        t.lead = { s.lead with unhealthy := unhealthyOf (m.data.drop 1), leased := true } ∧
        s.Told t (pSrc m.hdr) n [u] ∧ fldN u 0 8 = 0x02 ∧ fldN u 32 32 = msgTerm m) ∧
    (∀ m, s.Arrives m → isMsg m 0x02 = true → s.leads = true → msgTerm m = s.term → podIdx (pSrc m.hdr) ∉ s.lead.unhealthy →
      ∃ (t : State), exec (.leaseAck m) s = .next t ∧
      { t with lead := s.lead, ports := s.ports } = s ∧ t.lead.awaiting = s.lead.awaiting.filter (· ≠ pSrc m.hdr) ∧
      t.lead.unhealthy = s.lead.unhealthy.filter (· ≠ podIdx (pSrc m.hdr)) ∧
      (∀ i, SMap.get (fun _ => 0) t.lead.missed i = if i = podIdx (pSrc m.hdr) then 0 else SMap.get (fun _ => 0) s.lead.missed i) ∧
      { t.lead with awaiting := s.lead.awaiting, unhealthy := s.lead.unhealthy, missed := s.lead.missed } = s.lead) ∧
    (∀ m, s.Arrives m → isMsg m 0x02 = true → s.leads = true → msgTerm m = s.term → podIdx (pSrc m.hdr) ∈ s.lead.unhealthy → s.replicas ≠ [] →
      ∃ (t : State), exec (.leaseAck m) s = .next t.settle ∧ podIdx (pSrc m.hdr) ∉ t.lead.unhealthy ∧ t.lead.replicaAcks = [] ∧
        t.lead.replSeq = s.lead.replSeq + 1 ∧ t.mem = s.mem ∧ t.parts = s.parts ∧ t.cores = s.cores) ∧
    (∀ n : PortId, s.leads = true → s.ownDev ≠ 0xFFFF → s.lead.awaiting = [] → s.handOver = false → (∀ d ∈ s.replicas, d ∈ s.lead.replicaAcks) →
      n.val < 8 → s.portActive n = true →
      (∀ m : PortId, m.val < 8 → m ≠ n → s.portActive m = false) → (∀ q, s.planOf q = none) → (s.portSt n).txq = [] →
      (s.portSt n).swapping = false → 384 ≤ (s.portSt n).credit 16 →
      ∃ (u : State), exec .leaseSend s = .next u.leadStep.settle ∧ u.mem = s.mem ∧ u.dict = s.dict ∧ u.parts = s.parts ∧
        u.lead = { s.lead with awaiting := s.podOthers.filter (fun d => s.reaches d) } ∧
        ∀ d ∈ s.podOthers, rackOf d = rackOf s.ownDev → ∃ h, .packet n ⟨h, recUnit 0x01 0 s.term 0 0 :: s.healthUnits, none⟩ ∈ u.out ∧
          pDst h = d ∧ pSrc h = s.ownDev ∧ pOpc h = 0x14 ∧ pTc h = 4) ∧
    (∀ m n l, s.Arrives m → isMsg m 0x03 = true → s.term ≤ msgTerm m → m.data.drop 1 = l ++ l.map (~~~ ·) → s.MayTell (pSrc m.hdr) n 1 →
      ∃ (t : State) (u : W128), exec (.repl m) s = .next t ∧ t.lead = { s.lead with replica := l, replicaN := l.map (~~~ ·) } ∧
        t.term = msgTerm m ∧ t.leader = pSrc m.hdr ∧ s.Told t (pSrc m.hdr) n [u] ∧ fldN u 0 8 = 0x04 ∧ fld u 64 64 = msgField m ∧
        { t with lead := s.lead, dict := s.dict, ports := s.ports, out := s.out, nextTag := s.nextTag } = s) ∧
    (∀ m l r, s.Arrives m → isMsg m 0x03 = true → s.term ≤ msgTerm m → m.data.drop 1 = l ++ r → l.length = r.length → r ≠ l.map (~~~ ·) →
      s.faults = [] → ∃ (t : State) (f : BitVec 256), exec (.repl m) s = .next t ∧ t.lead = { s.lead with replica := [], replicaN := [] } ∧
        t.faults = [f] ∧ frCode f = 0x04 ∧ frCls f = 2 ∧ fldN f 64 64 = 8) ∧
    (∀ m, s.Arrives m → isMsg m 0x04 = true → s.leads = true → msgTerm m = s.term → msgField m = s.lead.replSeq →
      (∀ r ∈ s.lead.restarts, r.sent = true) → s.lead.declare = [] → s.lead.ended = [] → pSrc m.hdr ∉ s.lead.replicaAcks →
      s.lead.replicaAcks.Nodup → ∃ (t : State), exec (.replAck m) s = .next t.settle ∧ { t with lead := s.lead, ports := s.ports } = s ∧
        t.lead = { s.lead with replicaAcks := s.lead.replicaAcks ++ [pSrc m.hdr] }) ∧
    (s.dN (dk 0x2530 3) = 2 → s.dN (dk 0x2530 4) = 0 → s.lead.stopped = false → s.ownDev ≠ 0xFFFF → s.board.sfUp = true → s.leader = 0xFFFF →
      s.lead.replica = [] → s.lead.replicaN = [] → (∀ q, (s.part q).gate.voidFrom = none) → s.podJobs = [] → s.lead.pendingReplies = [] →
      ∃ (t : State), exec .leaseLapse s = .next t.settle ∧ t.mem = s.mem ∧ t.cores = s.cores ∧ t.parts = s.parts ∧
        t.term = (s.term + 1) % 2 ^ 32 ∧ t.leader = s.ownDev ∧ t.dN (dk 0x2530 3) = 1 ∧ t.lead.restarts = [] ∧ t.lead.leased = true ∧
        t.lead.awaiting = s.podOthers.filter (fun d => s.reaches d)) ∧
    (s.leads = true → ∃ (t : State), exec .leaderAckExpiry s = .next t ∧ s.OnlyDict t [dk 0x2530 1, dk 0x2530 3] ∧
      t.dN (dk 0x2530 3) = 0 ∧ t.leader = 0xFFFF)

/-! ## Memory upkeep -/

/-- Actions on memory: a bulk fill writes the pattern to every stack, clean, and is refused and counted while a context is enabled; each
stack that is done sets its bit; the logs are emptied with their totals; a row is nominated for repair, and a core for quarantine (R220,
R222, R223, R324, R329). The upkeep of memory. The scrubber of a stack reads the next burst: a correctable error is counted and logged with
its symbol, and an uncorrectable one is counted, its burst rewritten in poisoned form, and its row nominated (R216, R217, R221 to R223). In
core memory a single-bit error is counted, and any other poisons its unit and nominates the core (R207, R329). Refresh follows temperature,
up at once and down by one state; a refresh and a trim change no data (R215, R406). The model's choices in it: log entries 60 and 84. -/
def Obligations.MemoryUpkeep : Prop :=
  (∀ (s : State) (r : Route), s.GrantsModule r →
    (allParts.any s.anyEnabled = true → ∃ (t : State), exec (.initStart r 1) s = .next t.settle ∧ s.OnlyDict t [dk 0x2201 4] ∧ s.Counted t (dk 0x2201 4) 1) ∧
    (allParts.any s.anyEnabled = false → ∃ (t : State), exec (.initStart r 1) s = .next t.settle ∧
      { t with mem := s.mem, stackSts := s.stackSts, dict := s.dict } = s ∧ t.dN (dk 0x2201 3) = 0 ∧ (∀ k, k ≠ dk 0x2201 3 → t.d k = s.d k) ∧
      (∀ d, t.stack d = { s.stack d with filling := true }) ∧
      (∀ a, t.mem.byte a = if a < 2 ^ 40 then fld (s.d (dk 0x2201 2)) (8 * (a % 8)) 8 else s.mem.byte a) ∧
      (∀ u, t.mem.unit u = if u < 2 ^ 34 then .clean else s.mem.unit u)) ∧
    (∀ d, (s.stack d).filling = true → ∃ (t : State), exec (.bulkFillDone d) s = .next t ∧ { t with stackSts := s.stackSts, dict := s.dict } = s ∧
      t.stack d = { s.stack d with filling := false } ∧ (∀ e, e ≠ d → t.stack e = s.stack e) ∧ (∀ k, k ≠ dk 0x2201 3 → t.d k = s.d k) ∧
      ∀ n, n < 16 → (t.d (dk 0x2201 3)).getLsbD n = ((s.d (dk 0x2201 3)).getLsbD n || n == d.val)) ∧
    (∃ (t : State), exec (.logClear r 1) s = .next t.settle ∧ { t with stackSts := s.stackSts, dict := s.dict } = s ∧
      (∀ d, t.stack d = { s.stack d with log := [] }) ∧ (∀ k, t.d k = if k ∈ [dk 0x2205 1, dk 0x2205 2, dk 0x2205 3] then 0 else s.d k)) ∧
    (∃ (t : State), exec (.faultClear r 1) s = .next t.settle ∧ { t with faults := s.faults } = s ∧ t.faults = []) ∧
    (∀ v : Byte, s.quar.contains (s.physical (coreOf v.toNat)) = false → ∃ (t : State), exec (.quarNominate r v) s = .next t.settle ∧
      { t with quar := s.quar, dict := s.dict } = s ∧ t.quar = s.quar ++ [s.physical (coreOf v.toNat)] ∧
      t.dN (dk 0x2520 7) = (s.quar.length + 1) % 2 ^ 16 ∧ (∀ k, k ≠ dk 0x2520 7 → t.d k = s.d k)) ∧
    (∀ (v : W64) d w, v.toNat < 2 ^ 40 → d = stackOf (v.toNat / 64) → w = rowOfUnit (v.toNat / 64) → (s.stack d).repairs.contains w = false →
      sparesUsed (s.stack d) w.chan < 16 →
      ((s.stack d).repairs.length < 64 → ∃ (t : State), exec (.repairNominate r v) s = .next t.settle ∧ { t with stackSts := s.stackSts } = s ∧
        t.stack d = { s.stack d with repairs := (s.stack d).repairs ++ [w] } ∧ ∀ e, e ≠ d → t.stack e = s.stack e) ∧
      (64 ≤ (s.stack d).repairs.length → ∃ (t : State), exec (.repairNominate r v) s = .next t.settle ∧ s.OnlyDict t [dk 0x2220 5] ∧
        s.Counted t (dk 0x2220 5) 1))) ∧
  (∀ (s : State) (d : District),
    (s.scrubs d = false → ∀ e, exec (.dramScrub d e) s = .next s) ∧
    (∀ e u o, s.scrubs d = true → (s.stack d).scrubPos + 1 < 2 ^ 30 → u = d.val * 2 ^ 30 + (s.stack d).scrubPos → s.mem.unit u ≠ .raw →
      o = rsDecode (storedError (s.mem.unit u) e) → ∃ (t : State), exec (.dramScrub d e) s = .next t ∧
        { t with stackSts := s.stackSts, dict := s.dict, mem := s.mem } = s ∧ (t.stack d).scrubPos = (s.stack d).scrubPos + 1 ∧
        (∀ f, f ≠ d → t.stack f = s.stack f) ∧
        (o = .clean ∨ o = .poisoned → t.mem = s.mem ∧ t.dict = s.dict ∧ { t.stack d with scrubPos := (s.stack d).scrubPos } = s.stack d) ∧
        (∀ k m b, o = .ce k m b → t.mem = s.mem ∧ s.Counted t (dk 0x2205 1) 1 ∧ ((s.stack d).log = [] →
          logGet (t.stack d) 0 = some ⟨BitVec.ofNat 64 (s.now.toNat / 1000 % 2 ^ 48), 1, BitVec.ofNat 8 k.val, m, false, 1, u⟩)) ∧
        (o = .ue → s.Counted t (dk 0x2205 2) 1 ∧ t.mem.unit u = .poisoned ∧ (∀ w, w ≠ u → t.mem.unit w = s.mem.unit w) ∧
          s.mem.SameOutside t.mem (64 * u) 64 ∧ ((s.stack d).log = [] →
            logGet (t.stack d) 0 = some ⟨BitVec.ofNat 64 (s.now.toNat / 1000 % 2 ^ 48), 1, 0xFF, 0, true, 1, u⟩) ∧
          (sparesUsed (s.stack d) (rowOfUnit u).chan < 16 → (s.stack d).repairs.length < 64 → (t.stack d).repairs.contains (rowOfUnit u) = true))) ∧
    (∀ (c : CoreId) (n : W16) (l : List (Fin 8 × Byte × Byte)),
      ((∀ f ∈ l, f.2.1 = f.2.2) → ∃ (t : State), exec (.sramScrub c n l) s = .next t ∧ s.OnlyDict t [dk 0x2205 5] ∧ s.Counted t (dk 0x2205 5) l.length) ∧
      (∀ w a b, l = [(w, a, b)] → a ≠ b → ∃ (t : State), exec (.sramScrub c n l) s = .next t ∧ s.Counted t (dk 0x2205 6) 1 ∧
        { t with mem := s.mem, dict := s.dict, quar := s.quar } = s ∧ t.quar.contains (s.physical c) = true ∧
        t.mem.unit (ckey c (64 * n.toNat) / 64) = .poisoned ∧ s.mem.SameOutside t.mem (ckey c (64 * n.toNat) + 8 * w.val) 8)) ∧
    (∀ chan bank : Fin 32, ∃ (t : State), exec (.bankRefresh d chan bank) s = .next t ∧ { t with stackSts := s.stackSts } = s ∧
      (∀ e, e ≠ d → t.stack e = s.stack e) ∧ { t.stack d with refreshed := (s.stack d).refreshed } = s.stack d ∧
      ∀ k, SMap.get (fun _ => 0) (t.stack d).refreshed k = if k = chan.val * 32 + bank.val then s.now else SMap.get (fun _ => 0) (s.stack d).refreshed k) ∧
    (∀ chan : Fin 32, ∃ (t : State), exec (.dramTimingTrim d chan) s = .next t ∧ { t with stackSts := s.stackSts } = s ∧
      (∀ e, e ≠ d → t.stack e = s.stack e) ∧ (t.stack d).trimTemp = ((s.d (dk 0x2140 (d.val + 1))).setWidth 16).toInt ∧
      { t.stack d with trims := (s.stack d).trims, trimTemp := (s.stack d).trimTemp } = s.stack d ∧
      ∀ k, SMap.get (fun _ => 0) (t.stack d).trims k = SMap.get (fun _ => 0) (s.stack d).trims k + if k = chan.val then 1 else 0) ∧
    (∀ (temp : Int) (b : Bool), ∃ (t : State), exec (.refreshSample d temp b) s = .next t ∧
      { t with dict := s.dict, dists := s.dists, cores := s.cores } = s ∧ t.d (dk 0x2140 (d.val + 1)) = (BitVec.ofInt 16 temp).setWidth 64 ∧
      (∀ e, e ≠ d → t.refreshState e = s.refreshState e) ∧
      t.refreshState d = (if 950 < temp then Nat.max (s.refreshState d) 2 else if 850 < temp then
          (if s.refreshState d = 2 ∧ temp < 930 ∧ b = true then 1 else Nat.max (s.refreshState d) 1)
        else if s.refreshState d = 2 ∧ b = true then 1 else if s.refreshState d = 1 ∧ temp < 830 ∧ b = true then 0 else s.refreshState d)))

/-! ## Power and heat -/

/-- Events of the input, the reference clock and the coolant: each sets or clears its bit of RESET_CAUSE past its threshold, and ALERT goes
out when it becomes asserted; a reference lost for too long is a thermal trip (R394, R402, R403, R407, R408). Power and reset pins, and the
reset commands. EN deasserted and a lockout lose everything that lives only on the module and take PG away; a lockout holds until EN is
cycled (R394, R409). The release of RESET, and the cold reset command, run a cold reset, with its cause in RESET_CAUSE; a warm reset keeps
DRAM and zeroes core memory, and raises the epochs, and it becomes a cold reset before DRAM has trained (R411 to R414). The model's choices
in it: log entries 16, 63 and 65. -/
def Obligations.BoardAndResets : Prop :=
  (∀ (s : State),
    (∀ mv : W16,
      (mv.toNat < 40000 → ∃ t, exec (.inputLow mv) s = .next t ∧ s.Condition t 8 true ∧ t.dN (dk 0x2100 3) = mv.toNat) ∧
      (59500 < mv.toNat → ∃ t, exec (.inputHigh mv) s = .next t ∧ s.Condition t 9 true ∧ t.dN (dk 0x2100 3) = mv.toNat) ∧
      (40000 ≤ mv.toNat → mv.toNat ≤ 59500 → ∃ t, exec (.inputInRange mv) s = .next t ∧ { t with board := s.board, dict := s.dict } = s ∧
        t.dN (dk 0x2100 3) = mv.toNat ∧ { t.board with cause := s.board.cause } = s.board ∧
        ∀ n, n < 16 → t.board.cause.getLsbD n = if n = 8 ∨ n = 9 then false else s.board.cause.getLsbD n)) ∧
    (∀ temp : Int,
      (400 < temp → ∃ t, exec (.inletHigh temp) s = .next t ∧ s.Condition t 10 true ∧ t.d (dk 0x2100 6) = tempWord temp) ∧
      (temp ≤ 400 → ∃ t, exec (.inletNormal temp) s = .next t ∧ s.Condition t 10 false ∧ t.d (dk 0x2100 6) = tempWord temp)) ∧
    (∃ t u, exec .referenceLoss s = .next t ∧ u = { s with board := { s.board with refLost := true } } ∧ u.Condition t 11 true ∧ t.dict = s.dict) ∧
    (∃ t u, exec .referenceRestore s = .next t ∧ u = { s with board := { s.board with refLost := false } } ∧ u.Condition t 11 false ∧ t.dict = s.dict) ∧
    (s.board.refLost = true → ∃ t, exec .referenceLossTimeout s = .next t ∧ s.Condition t 12 true ∧ t.dict = s.dict) ∧
    (s.board.refLost = false → exec .referenceLossTimeout s = .next s)) ∧
  (∀ (s : State),
    (∃ (t : State), exec .enAssert s = .next t ∧ t = { s with board := { s.board with en := true } }) ∧
    (s.board.en = true → s.board.lockout = false → ∃ (t : State), exec .powerGood s = .next t ∧ t = { s with board := { s.board with pg := true } }) ∧
    (s.board.en = true → s.board.lockout = true → exec .powerGood s = .next s) ∧
    (∃ (t : State), exec .enDeassert s = .next t ∧ s.Cleared t ∧ t.board.en = false ∧ t.board.pg = false ∧ t.board.lockout = false ∧
      t.board.fresh = true ∧ t.sec.staged = Fuses.zero ∧ t.sec.fuses = s.sec.fuses ∧ t.quar = []) ∧
    (s.board.en = true → ∀ mv : W16,
      (mv.toNat < 38000 → ∃ (t : State), exec (.undervoltageLockout mv) s = .next t ∧ s.Cleared t ∧ t.board.pg = false ∧ t.board.en = true ∧
        t.board.lockout = true ∧ t.sec.fuses = s.sec.fuses) ∧
      (61000 < mv.toNat → ∃ (t : State), exec (.overvoltageLockout mv) s = .next t ∧ s.Cleared t ∧ t.board.pg = false ∧ t.board.en = true ∧
        t.board.lockout = true ∧ t.sec.fuses = s.sec.fuses)) ∧
    (s.board.resetPin = false → ∃ (t : State), exec .resetAssert s = .next t ∧ s.Cleared t ∧ t.board.resetPin = true ∧ t.board.booting = false ∧
      t.board.pg = s.board.pg ∧ t.board.en = s.board.en ∧ t.sec.fuses = s.sec.fuses ∧ t.sec.staged = s.sec.staged) ∧
    (s.board.resetPin = true → ∀ id,
      (s.board.pg = false → ∃ (t : State), exec (.resetRelease id) s = .next t ∧ t = { s with board := { s.board with resetPin := false } }) ∧
      (s.board.pg = true → ∃ (t : State), exec (.resetRelease id) s = .next t ∧ s.Cleared t ∧ t.board.resetPin = false ∧ t.board.slotId = id ∧
        t.board.booting = true ∧ fldN t.board.cause 0 4 = (if s.board.fresh = true then 1 else 2) ∧ fldN t.board.cause 8 5 = fldN s.board.cause 8 5 ∧
        t.quar = [] ∧ s.sec.fuses.Le t.sec.fuses)) ∧
    (s.board.pg = true → s.board.resetPin = false →
      (∃ (t : State), exec (.coldResetCommand true) s = .next t ∧ s.Cleared t ∧ fldN t.board.cause 0 4 = 3 ∧ t.board.booting = true ∧ t.quar = []) ∧
      (s.board.dramTrained = false → ∃ (t : State), exec (.warmResetCommand true) s = .next t ∧ s.Cleared t ∧ fldN t.board.cause 0 4 = 4) ∧
      (s.board.dramTrained = true → s.board.booting = false → (∀ d, (s.stack d).repairs = []) → s.sec.lastDoc = none → s.mem.wf = true →
        ∃ (t : State), exec (.warmResetCommand true) s = .next t ∧ t.objs = [] ∧ t.reqs = [] ∧ t.ports = [] ∧ t.parts = [] ∧
          (∀ a, t.mem.byte a = if a < 2 ^ 40 then s.mem.byte a else 0) ∧ (∀ u, t.mem.unit u = if u < 2 ^ 34 then s.mem.unit u else .clean) ∧
          (∀ c x, (t.ctx c x).epoch = nextEpoch (s.ctx c x).epoch ∧ (t.ctx c x).part = none ∧ (t.ctx c x).jobs = [] ∧ (t.ctx c x).step = 0) ∧
          fldN t.board.cause 0 4 = 4 ∧ t.board.tkWarm = true ∧ t.board.booting = true ∧ t.now = s.now ∧ t.quar = [])) ∧
    (∀ c ∈ [Instr.coldResetCommand false, .warmResetCommand false], exec c s = .next s))

/-- Operating points and throttling. A transition ends at its target and begins again when the target has moved (R397). Above the cap the
power controller takes the next action of its order, and withdraws the last one after 10 ms at 95 % of the cap (R401, R404). A district's
thermal controller acts above its thresholds, changes nothing between them, and trips at 110.0 degrees (R403). Adaptive voltage moves VDD by
5 mV within -60 mV and +20 mV of nominal, and a stretch is counted (R399, R400). The model's choices in it: log entry 65. -/
def Obligations.PowerAndHeat : Prop :=
  ∀ (s : State) (d : District) (k : Dist), k = s.dist d →
    (k.moving = true → -60 ≤ k.vddOff → k.vddOff ≤ 20 → ∃ (t : State), exec (.opTransitionDone d) s = .next t ∧
      { t with dists := s.dists, dict := s.dict } = s ∧ (∀ e, e ≠ d → t.dist e = s.dist e) ∧ (t.dist d).op = k.target ∧
      (t.dN (dk 0x2120 (d.val + 1)) : Int) = opMv k.target + k.vddOff ∧
      ((t.dist d).moving = true ↔ s.effOp d ≠ k.target ∧ s.board.sfUp = true ∧ s.board.coresDone = true) ∧
      ((t.dist d).moving = true → (t.dist d).target = s.effOp d) ∧
      { t.dist d with op := k.op, moving := k.moving, target := k.target } = k) ∧
    (∀ avg all95 cap, cap = Nat.min (s.dN (dk 0x2100 1)) (62 * s.dN (dk 0x2100 3) / 1000) →
      (k.moving = true → ∃ (t : State), exec (.powerEvaluation avg all95) s = .next t ∧ s.OnlyDict t [dk 0x2100 5] ∧
        t.dN (dk 0x2100 5) = Nat.min avg 65535) ∧
      ((∀ e, (s.dist e).moving = false) → ∃ (t : State), exec (.powerEvaluation avg all95) s = .next t ∧
        { t with dists := s.dists, dict := s.dict, board := s.board } = s ∧
        { t.board with powerActs := s.board.powerActs, modOp := s.board.modOp } = s.board ∧
        (∀ e, { t.dist e with moving := (s.dist e).moving, target := (s.dist e).target } = s.dist e ∧
          ((t.dist e).moving = true ↔ t.effOp e ≠ (s.dist e).op ∧ s.board.sfUp = true ∧ s.board.coresDone = true)) ∧
        (cap < avg → (∀ e, s.NoFiller e) → s.board.modOp ≠ 0 → (∃ e, s.effOp e ≠ 0) → t.board.modOp = s.board.modOp - 1 ∧
          t.board.powerActs = s.board.powerActs ++ [.op s.board.modOp]) ∧
        (cap < avg → (∀ e, s.NoFiller e) → s.board.modOp = 0 → s.powerCount .gate < 7 → t.board.modOp = 0 ∧
          t.board.powerActs = s.board.powerActs ++ [.gate]) ∧
        (avg ≤ cap → all95 = false → t.board = s.board) ∧
        (avg ≤ cap → all95 = true → t.board.powerActs = s.board.powerActs.dropLast))) ∧
    (∀ logic dram b c, s.NoFiller d →
      ∃ (t : State), exec (.thermalEvaluation d logic dram b c) s = .next t ∧ (∀ e, e ≠ d → t.dist e = s.dist e) ∧
        t.d (dk 0x2130 (d.val + 1)) = tempWord logic ∧ t.d (dk 0x2140 (d.val + 1)) = tempWord dram ∧
        { t with dists := s.dists, dict := s.dict, board := s.board, out := s.out, cores := s.cores } = s ∧
        (t.board.cause.getLsbD 12 = true ↔ s.board.cause.getLsbD 12 = true ∨ 1100 ≤ logic ∨ 1100 ≤ dram) ∧
        (990 ≤ dram → dram ≤ 1020 →
          (940 ≤ logic → logic ≤ 970 → (t.dist d).acts = k.acts ∧ (t.dist d).thermOp = k.thermOp) ∧
          (970 < logic → s.effOp d ≠ 0 → (t.dist d).acts = k.acts ++ [(false, .op k.thermOp)] ∧ (t.dist d).thermOp = s.effOp d - 1) ∧
          (970 < logic → s.effOp d = 0 → s.thermalCount d .gate < 7 → (t.dist d).acts = k.acts ++ [(false, .gate)]) ∧
          (∀ l p, logic < 940 → b = true → k.acts = l ++ [(false, .op p)] → (t.dist d).acts = l ∧ (t.dist d).thermOp = p)) ∧
        (940 ≤ logic → logic ≤ 970 → 1020 < dram → s.effOp d = 0 → s.thermalCount d .dram < 3 → (t.dist d).acts = k.acts ++ [(true, .dram)])) ∧
    (exec (.avsAdjust d .met) s = .next s) ∧
    (∀ m n, (m, n) ∈ [(AvsMargin.more, -5), (.less, 5)] → -60 ≤ k.vddOff + n → k.vddOff + n ≤ 20 → -60 ≤ k.vddOff → k.vddOff ≤ 20 →
      ∃ (t : State), exec (.avsAdjust d m) s = .next t ∧ { t with dists := s.dists, dict := s.dict } = s ∧ t.dist d = { k with vddOff := k.vddOff + n } ∧
        (∀ e, e ≠ d → t.dist e = s.dist e) ∧ (t.dN (dk 0x2120 (d.val + 1)) : Int) = opMv k.op + (k.vddOff + n)) ∧
    (k.vddOff = 20 → s.effOp d ≠ 0 → ∃ (t : State), exec (.avsAdjust d .less) s = .next t ∧ { t with dists := s.dists, dict := s.dict } = s ∧
      (t.dist d).vddOff = 20 ∧ (t.dist d).thermOp = s.effOp d - 1 ∧ (t.dist d).acts = k.acts ++ [(false, .op k.thermOp)]) ∧
    (∃ (t : State), exec (.droopStretch d) s = .next t ∧ { t with dists := s.dists, dict := s.dict } = s ∧ t.dist d = { k with stretch := true } ∧
      s.Counted t (dk 0x2100 8) 1 ∧ ∀ e, e ≠ d → t.dist e = s.dist e) ∧
    (∃ (t : State), exec (.droopRecovery d) s = .next t ∧ { t with dists := s.dists } = s ∧ t.dist d = { k with stretch := false } ∧
      ∀ e, e ≠ d → t.dist e = s.dist e)

/-! ## Pins, resets and boot -/

/-- The boot chain. DRAM training and the self-test set their readiness, or mark a stack as degraded and nominate a core, which is then not
offered (R415, R416, R329). The trusted kernel runs the image that loads, and the ports begin to train; where none loads the module halts at
its stage, and so it does without an image of the service firmware, whose start makes STAGE 2 (R382, R418). The model's choices in it: log
entry 64. -/
def Obligations.BootChain : Prop :=
  ∀ (s : State),
    (∀ f : W16, s.board.pg = true → s.board.resetPin = false → s.board.dramTrained = false → s.stage ≠ 3 → ∃ (t : State),
      exec (.dramTrainingDone f) s = .next t ∧ { t with board := s.board, dict := s.dict } = s ∧ t.board = { s.board with dramTrained := f == 0 } ∧
      (∀ k, k ≠ dk 0x2500 8 → t.d k = s.d k) ∧
      ∀ n, n < 16 → (t.d (dk 0x2500 8)).getLsbD n = ((s.d (dk 0x2500 8)).getLsbD n || f.getLsbD n)) ∧
    (∀ l, s.board.pg = true → s.board.resetPin = false → s.board.coresDone = false → s.quar = [] → ∃ (t : State),
      exec (.selfTestDone l) s = .next t ∧ { t with quar := s.quar, selfFail := s.selfFail, board := s.board, dists := s.dists, dict := s.dict } = s ∧
      t.board = { s.board with coresDone := true } ∧ (∀ n, n ∈ t.quar ↔ n ∈ l) ∧
      (∀ c, t.offered c = (!(s.withdrawn.contains c) && !(l.contains (s.physical c)))) ∧
      (∀ c : CoreId, (t.d (dk 0x2520 (2 + c.val / 64))).getLsbD (c.val % 64) = t.offered c)) ∧
    (s.board.en = true → s.board.pg = true → s.board.resetPin = false → s.board.booting = true → s.board.tkUp = false → s.board.halt = false →
      s.sec.shadowN = s.sec.shadow.compl →
      (∀ i n c, loadImage s.sec.tkA s.sec.tkB s.sec.shadow = ⟨some (i, n), c⟩ → s.sec.lastDoc = none → s.updatePlace = none →
        ∃ (t : State), exec .trustedKernelStart s = .next t ∧ t.board = { s.board with tkUp := true } ∧ t.sec = { s.sec with tkRun := some i } ∧
          t.stage = 1 ∧ t.bootField 24 4 = c % 16 ∧ t.bootField 19 1 = n % 2 ∧ (∀ n : PortId, t.dN (dk (0x2301 + n.val) 1) = 1) ∧ t.mem = s.mem ∧
          t.cores = s.cores) ∧
      (∀ c, loadImage s.sec.tkA s.sec.tkB s.sec.shadow = ⟨none, c⟩ → ∃ (t : State), exec .trustedKernelStart s = .next t ∧
        { t with board := s.board, dict := s.dict } = s ∧ t.board = { s.board with halt := true } ∧ t.stage = 3 ∧ t.bootField 24 4 = c % 16)) ∧
    (s.board.tkUp = true → s.board.sfUp = false → s.board.halt = false → s.sec.shadowN = s.sec.shadow.compl →
      (∀ i n c, loadImage s.sec.sfA s.sec.sfB s.sec.shadow = ⟨some (i, n), c⟩ → (∀ q, (s.part q).planReq = false ∧ (s.part q).groupReq = false) →
        ∃ (t : State), exec .serviceFirmwareStart s = .next t.settle ∧ t.board = { s.board with sfUp := true, booting := false } ∧
          t.sec.sfRun = some i ∧ t.stage = 2 ∧ t.bootField 20 4 = c % 16 ∧ t.bootField 18 1 = n % 2 ∧ t.out = s.out ++ [.bootup s.nodeId] ∧
          t.mem = s.mem ∧ t.cores = s.cores ∧ t.parts = s.parts ∧ s.sec.fuses.Le t.sec.fuses) ∧
      (∀ c, loadImage s.sec.sfA s.sec.sfB s.sec.shadow = ⟨none, c⟩ → ∃ (t : State), exec .serviceFirmwareStart s = .next t ∧
        { t with board := s.board, dict := s.dict } = s ∧ t.board = { s.board with halt := true, booting := false } ∧ t.bootField 20 4 = c % 16))

/-! ## The companion link -/

/-- Messages of the companion. An unlisted opcode is answered with status 3. A SNPI is answered, and a held line that it names is read
again, with the other line of its slot (R341, R344). A request outside MCL_PARTMASK or the checks is refused, with status 2 or 1, and
counted: as a refusal of the dictionary where MCL_PARTMASK bars it from SPACE 0x3 (R361), with PARTITION_FAULT of cause 1 where the check of
R19 refuses it. One that passes reads memory or writes it (R342). The model's choices in it: log entries 75 and 92. -/
def Obligations.CompanionRequests : Prop :=
  ∀ (s : State) (m : MclMsg) (a : W64) (n : Nat), s.mclActive = true → a = mAddr m.hdr → n = 64 * mLen m.hdr →
    (mclListed (mOpc m.hdr) = false → ∀ e ∈ [Instr.snpi m, .data m, .cmp m, .mclMrd m, .mclMwr m, .attestationRequest m],
      ∃ (t : State) (r : MclMsg), exec e s = .next t ∧ s.Sent t [r] ∧ s.LinkIdle t ∧ IsAnswer r m 0x21 3 0 []) ∧
    (mOpc m.hdr = 0x10 →
      ((∀ w ∈ s.windows, a.toNat < w.base ∨ w.base + w.size ≤ a.toNat) →
        ∃ (t : State) (r : MclMsg), exec (.snpi m) s = .next t.settle ∧ s.Sent t [r] ∧ s.LinkIdle t ∧ IsAnswer r m 0x21 0 0 []) ∧
      (∀ w line, s.LinkClear → w ∈ s.windows → w.kind = 1 → w.base ≤ a.toNat → a.toNat < w.base + w.size → line = (a.toNat - w.base) / 64 →
        ((s.mcl.ring w.idx).line line).isSome = true →
        ∃ (t : State) (r r0 r1 : MclMsg), exec (.snpi m) s = .next t.settle ∧ s.Sent t [r, r0, r1] ∧ IsAnswer r m 0x21 0 0 [] ∧
          mOpc r0.hdr = 0x01 ∧ mOpc r1.hdr = 0x01 ∧ mPart r0.hdr = w.part ∧ mPart r1.hdr = w.part ∧
          (mAddr r0.hdr).toNat = (w.base + 128 * (line / 2)) % 2 ^ 64 ∧ (mAddr r1.hdr).toNat = (w.base + 128 * (line / 2) + 64) % 2 ^ 64 ∧
          ∀ l, (t.mcl.ring w.idx).line l = if l / 2 = line / 2 then none else (s.mcl.ring w.idx).line l)) ∧
    (∀ e ∈ [(Instr.mclMrd m, 0x30), (.mclMwr m, 0x31)], mOpc m.hdr = e.2 →
      (∀ (st : Nat) (u : State), st = s.mclRefusal m n → st ≠ 0 →
        u = (if s.mclBarred m = true then s.incD (if aSpace a = 3 then dk 0x2600 4 else dk 0x2300 4)
          else if s.mclForm m n = false then s.incD (dk 0x2300 3) else s.mgmtRefuse (mPart m.hdr) (s.check (mPart m.hdr) a n)) →
        ∃ (t : State) (r : MclMsg), exec e.1 s = .next t.settle ∧ t.out = u.out ++ [.mcl r] ∧ IsAnswer r m 0x21 st 0 [] ∧
          { t with mcl := u.mcl, out := u.out } = u) ∧
      (s.mclRefusal m n = 0 → aSpace a = 3 → s.serverBusy = true →
        ∃ (t : State) (r : MclMsg), exec e.1 s = .next t.settle ∧ t.out = s.out ++ [.mcl r] ∧ IsAnswer r m 0x21 3 0 [] ∧
          s.Counted t (dk 0x2600 5) (n / 8) ∧ { t with mcl := s.mcl, out := s.out, dict := s.dict } = s)) ∧
    (mOpc m.hdr = 0x30 → s.mclRefusal m n = 0 → aSpace a ≤ 1 → s.mem.wf = true → (∀ u ∈ unitsOf (aKey a) n, s.mem.unit u = .clean) →
      ∃ (t : State) (r : MclMsg) (l : List (BitVec 512)), exec (.mclMrd m) s = .next t.settle ∧ s.Sent t [r] ∧ s.LinkIdle t ∧
        IsAnswer r m 0x20 0 0 l ∧ bytesOfLines l = s.mem.bytes (aKey a) n) ∧
    (mOpc m.hdr = 0x31 → s.mclRefusal m n = 0 → aSpace a ≤ 1 → m.lines.length = mLen m.hdr →
      ∃ (t : State) (r : MclMsg), exec (.mclMwr m) s = .next t.settle ∧ t.out = s.out ++ [.mcl r] ∧ IsAnswer r m 0x21 0 0 [] ∧ s.LinkIdle t ∧
        t.mem.bytes (aKey a) n = bytesOfLines m.lines ∧ s.mem.SameOutside t.mem (aKey a) n ∧
        { t with mem := s.mem, dict := s.dict, stackSts := s.stackSts, mcl := s.mcl, out := s.out } = s)

/-- Responses of the companion. One that answers nothing changes nothing. The data of the last line of an expected slot accepts its block,
when both its halves carry the expected SEQ, and the slot four further is read (R344). Consumer indices are taken as they are read (R348,
R352). The last data of a WRITE is written to memory, the last acknowledgement of a READ ends it, and that of a NOTIFY's record completes
the command (R341, R346, R348). The model's choices in it: log entry 73. -/
def Obligations.CompanionResponses : Prop :=
  ∀ (s : State) (m : MclMsg) (k : Option MclSink), s.mclActive = true → s.mcl.queue = [] → k = SMap.get (fun _ => none) s.mcl.reqs (mTag m.hdr) →
    (k = none → ∀ e ∈ [(Instr.data m, 0x20), (.cmp m, 0x21)], mOpc m.hdr = e.2 → exec e.1 s = .next s.settle) ∧
    (mOpc m.hdr = 0x20 →
      (∀ p tlm w, k = some (.cons p tlm false) → s.winOf p (if tlm then 4 else 2) = some w →
        ∃ (t : State), exec (.data m) s = .next t.settle ∧ { t with mcl := s.mcl } = s ∧
          t.mcl.reqs = SMap.set (fun _ => none) s.mcl.reqs (mTag m.hdr) none ∧ { t.mcl with reqs := s.mcl.reqs, comp := s.mcl.comp } = s.mcl ∧
          ∀ q, t.mcl.compOf q = if q = p then (if tlm then { s.mcl.compOf q with tcons := fld (m.lines.headD 0) 0 32 }
            else { s.mcl.compOf q with cons := fld (m.lines.headD 0) 0 32 }) else s.mcl.compOf q) ∧
      (∀ w r slot hi (b : BWord), w ∈ s.windows → w.kind = 1 → r = s.mcl.ring w.idx → slot = w.slotOf r.expect →
        k = some (.line w.idx (2 * slot) false) → s.mcl.reqs = [(mTag m.hdr, k)] → mStatus m.hdr = 0 → mPsn m.hdr = 0 →
        r.line (2 * slot + 1) = some hi → r.line (2 * w.slotOf (r.expect + 1)) = none → b = hi ++ m.lines.headD 0 →
        (bSeq b = seqOf r.expect → bSeq2 b = seqOf r.expect → ∃ (t : State) (e0 e1 h0 h1 : MclMsg), exec (.data m) s = .next t.settle ∧
          s.Sent t [e0, e1, h0, h1] ∧ (t.mcl.ring w.idx).blocks = r.blocks ++ [Block.accepted (seqOf r.expect) b] ∧
          (t.mcl.ring w.idx).expect = r.expect + 1 ∧ (t.mcl.ring w.idx).doneSeq = r.doneSeq ∧
          [e0, e1, h0, h1].map (fun q => mOpc q.hdr) = [0x05, 0x05, 0x01, 0x01] ∧
          [e0, e1, h0, h1].map (fun q => (mAddr q.hdr).toNat) =
            [2 * slot, 2 * slot + 1, 2 * w.slotOf (r.expect + 4), 2 * w.slotOf (r.expect + 4) + 1].map (fun l => (w.base + 64 * l) % 2 ^ 64)) ∧
        (¬(bSeq b = seqOf r.expect ∧ bSeq2 b = seqOf r.expect) → ∃ (t : State), exec (.data m) s = .next t.settle ∧ s.Sent t [] ∧
          (t.mcl.ring w.idx).blocks = r.blocks ∧ (t.mcl.ring w.idx).expect = r.expect ∧
          (t.mcl.ring w.idx).line (2 * slot) = some (m.lines.headD 0))) ∧
      (∀ w b off n, w ∈ s.windows → w.kind = 1 → s.blk w.idx b.seq = some b → k = some (.block w.idx b.seq off n) → bKind b.w = 1 →
        b.outst = 1 → b.fail = none → b.status = none → b.next = bLen b.w → 0 < n → off + 64 * n ≤ bLen b.w → m.lines.length = n →
        mStatus m.hdr = 0 → mPsn m.hdr = 0 → s.check w.part (bMaddr b.w + BitVec.ofNat 64 off) (64 * n) = .ok →
        ∃ (t : State) (i : Block), exec (.data m) s = .next t.settle ∧
          { t with mcl := s.mcl, mem := s.mem, dict := s.dict, stackSts := s.stackSts } = s ∧
          (∀ j, j < 64 * n → t.mem.byte (aKey (bMaddr b.w + BitVec.ofNat 64 off) + j) = (bytesOfLines m.lines).getD j 0) ∧
          s.mem.SameOutside t.mem (aKey (bMaddr b.w + BitVec.ofNat 64 off)) (64 * n) ∧
          t.blk w.idx b.seq = some i ∧ i.status = some 0x00 ∧ i.value = BitVec.ofNat 64 (b.moved + 64 * n) ∧ i.outst = 0)) ∧
    (mOpc m.hdr = 0x21 → mStatus m.hdr = 0 →
      (∀ w b n, w ∈ s.windows → w.kind = 1 → s.blk w.idx b.seq = some b → k = some (.blockWrite w.idx b.seq n) → bKind b.w = 2 →
        b.outst = 1 → b.fail = none → b.status = none → b.next = bLen b.w →
        ∃ (t : State), exec (.cmp m) s = .next t.settle ∧ { t with mcl := s.mcl } = s ∧
          t.blk w.idx b.seq = some { b with outst := 0, moved := b.moved + n, status := some 0x00, value := BitVec.ofNat 64 (b.moved + n) }) ∧
      (∀ c x id j q, k = some (.post (some (c, x, id)) q) → s.job c x id = some j →
        ∃ (t : State), exec (.cmp m) s = .next t.settle ∧ { t with cores := s.cores, mcl := s.mcl } = s ∧ (∀ i ∈ (t.ctx c x).jobs, i.id ≠ j.id) ∧
          ∀ n, (t.ctx c x).tok n = (s.ctx c x).tok n + if j.se = true ∧ j.st.toNat = n then 1 else 0))

/-- Command blocks (Table 14-5). A block that breaks a rule of its kind, or that a check refuses, ends with that status (R346), and with
PARTITION_FAULT of cause 1 where the check of R19 refuses it. A NOP ends at once; WRITE and APPEND ask for companion memory and READ writes it, with one message where one suffices (R346, R347); SIGNAL adds to its
object (R346); a DICT block reads or writes its entry (R351). A block completes once: it is counted and DONE moves past it; with the link
down, its record and then the DONE words wait to be sent (R348, R354). A reserved kind completes with status 0x04 (R346). The model's
choices in it: log entries 71 to 74 and 92. -/
def Obligations.CommandBlocks : Prop :=
  ∀ (s : State) (w : Win) (b : Block),
    (∀ st c, s.windows.find? (fun v => v.idx == w.idx && v.kind == 1) = some w → s.blk w.idx b.seq = some b → b.started = false →
      s.mayStart w.idx b = true → s.blkBad w b.w = some (st, c) →
      ∀ e ∈ [(Instr.blockNop w.idx b.seq, 0), (.write w.idx b.seq, 1), (.read w.idx b.seq, 2), (.append w.idx b.seq, 3),
          (.blockSignal w.idx b.seq, 4), (.dict w.idx b.seq, 5)],
        bKind b.w = e.2 → ∃ (t u : State), exec e.1 s = .next t.settle ∧ u = s.mgmtRefuse w.part c ∧ { t with mcl := u.mcl } = u ∧
          t.blk w.idx b.seq = (u.blk w.idx b.seq).map (fun i => { i with started := true, status := some st, value := 0 }) ∧
          (c = .ok ∨ c = .addr → { u with dict := s.dict } = s) ∧
          (c = .part → u = (s.incD (dk 0x2300 4)).raiseMgmt w.part 0x0B 1)) ∧
    (s.Starts w b 0 → ∃ (t : State), exec (.blockNop w.idx b.seq) s = .next t.settle ∧ { t with mcl := s.mcl } = s ∧
      t.blk w.idx b.seq = some { b with started := true, status := some 0x00, value := 0 }) ∧
    (∀ e ∈ [(Instr.write w.idx b.seq, 1), (.append w.idx b.seq, 3)], s.Starts w b e.2 → (e.2 = 3 → s.appendRoom b.w = true ∧ 0 < bLen b.w) →
      ∃ (t : State), exec e.1 s = .next t.settle ∧ { t with mcl := s.mcl, out := s.out } = s ∧
        (∃ i, t.blk w.idx b.seq = some i ∧ i.started = true ∧ i.status = none) ∧
        (s.LinkClear → bBytes b.w ≤ 64 * mclMaxLines s.mclVer → ∃ r : MclMsg, s.Sent t [r] ∧ mOpc r.hdr = 0x02 ∧ mPart r.hdr = w.part ∧
          mAddr r.hdr = bCaddr b.w ∧ mLen r.hdr = (bBytes b.w + 63) / 64 ∧ r.lines = [])) ∧
    (s.Starts w b 2 → s.LinkClear → bLen b.w ≤ 64 * mclMaxLines s.mclVer → s.mem.wf = true →
      (∀ u ∈ unitsOf (aKey (bMaddr b.w)) (bLen b.w), s.mem.unit u = .clean) →
      ∃ (t : State) (r : MclMsg) (i : Block), exec (.read w.idx b.seq) s = .next t.settle ∧ s.Sent t [r] ∧ mOpc r.hdr = 0x03 ∧
        mPart r.hdr = w.part ∧ mAddr r.hdr = bCaddr b.w ∧ mPsn r.hdr = 0 ∧ bytesOfLines r.lines = s.mem.bytes (aKey (bMaddr b.w)) (bLen b.w) ∧
        t.blk w.idx b.seq = some i ∧ i.started = true ∧ i.outst = 1 ∧ i.status = none) ∧
    (s.Starts w b 2 → ∃ (t : State) (i : Block), exec (.read w.idx b.seq) s = .next t.settle ∧ t.blk w.idx b.seq = some i ∧ i.started = true) ∧
    (∀ (c : CoreId) (k : Nat), s.Starts w b 4 → aOff (bMaddr b.w) = c.val * 2 ^ 15 + 8 * k → k < 4096 → (s.obj c k).ownerOk = true →
      (s.obj c k).owner ≠ BitVec.ofNat 26 (2 ^ 25 + 0xFFFF * 2 ^ 9) → (∀ st, waitOn (s.stream c st) k = none) →
      ∃ (t : State), exec (.blockSignal w.idx b.seq) s = .next t.settle ∧ { t with mcl := s.mcl, objs := s.objs } = s ∧
        t.obj c k = { s.obj c k with count := (s.obj c k).count + fld (bVal b.w) 0 48 } ∧
        (∀ d n, n < 4096 → (d, n) ≠ (c, k) → t.obj d n = s.obj d n) ∧
        t.blk w.idx b.seq = some { b with started := true, status := some 0x00, value := 0 }) ∧
    (s.Starts w b 5 → s.GrantsPart (.mcl w.part) w.part →
      (bDwr b.w = false → bIndex b.w = 0x2900 + w.part.val → bSub b.w = 3 →
        ∃ (t : State), exec (.dict w.idx b.seq) s = .next t.settle ∧ { t with mcl := s.mcl } = s ∧
          t.blk w.idx b.seq = some { b with started := true, status := some 0x00, value := s.d (dkx 0x2900 w.part 3) }) ∧
      (bDwr b.w = true → bIndex b.w = 0x2900 + w.part.val → bSub b.w = 3 →
        ∃ (t u : State), exec (.dict w.idx b.seq) s = .next t.settle ∧ { u with mcl := s.mcl, dict := s.dict } = s ∧
          (∀ n, u.d n = if n = dkx 0x2900 w.part 3 then bVal b.w else s.d n) ∧ u.blk w.idx b.seq = some { b with started := true } ∧
          { t with mcl := u.settle.mcl } = u.settle ∧
          t.blk w.idx b.seq = (u.settle.blk w.idx b.seq).map (fun i => { i with status := some 0x00, value := 0 }))) ∧
    (∀ st, w ∈ s.windows → w.kind = 1 → s.blk w.idx b.seq = some b → b.done = false →
      (b.status = some st ∨ (b.status = none ∧ b.started = false ∧ 5 < bKind b.w ∧ s.mayStart w.idx b = true ∧ st = 0x04)) →
      (s.mcl.ring w.idx).blocks = [b] → (∀ v, ∀ k ∈ winKeys v, s.d k = s.df k) →
      ∃ (t : State), exec (.blockComplete w.idx b.seq) s = .next t.settle ∧ (t.mcl.ring w.idx).blocks = [] ∧ (t.mcl.ring w.idx).doneSeq = b.seq ∧
        s.Counted t (dkx 0x2A60 w.part 1) 1 ∧ (st ≠ 0x00 → s.Counted t (dkx 0x2A60 w.part 2) 1) ∧ t.mem = s.mem ∧ t.cores = s.cores ∧
        t.objs = s.objs ∧ (s.mclActive = false → b.seq ≠ (s.mcl.ring w.idx).doneSeq → t.out = s.out ∧ ∃ l words,
          t.mcl.queue = s.mcl.queue ++ l ++ [.done w.part words] ∧
          (if bNocmp b.w = true ∧ st = 0x00 then l = [] else ∃ rec, l = [.record w.part rec (bIrq b.w) none] ∧ fld rec 192 64 = bTag b.w ∧
            fld rec 96 32 = b.seq ∧ fldN rec 88 8 = 1 ∧ fld rec 80 8 = st ∧ fldN rec 64 4 = w.part.val ∧
            fld rec 128 64 = (if b.status = none then 0 else b.value))))

/-- Flits, training and retraining. A flit whose CRC fails is counted and asked for again, one out of order is dropped, and the one expected
next is taken: its credits are added, what it acknowledges is kept no longer, each message that it completes gives a credit back, and a NAK
in it is answered with the flits kept, or with retraining past the limit (R338). In
training, two ends without a common version leave the link at STATE 3, and an echo of the own choice makes it active (R339). Retraining
loses held lines and outstanding responses, and counts (R354); the first lane to fail under 2.0 halves the width, and any other failure
retrains (R339, R354). A hold-off that ends with an interrupt due sends one, or lets it wait for the link (R349, R354). Attestation: a request in a data window waits, one whose
range does not lie in a data window of its partition is answered with status 1, and a fifth with status 2. A report leaves the queue, its
nonce, its partition and the module's time are in the part that is signed, and its status, after its writes, is 0 (R393). The model's
choices in it: log entries 7, 70, 71, 76 and 92. -/
def Obligations.CompanionLink : Prop :=
  (∀ (s : State),
    (s.mclActive = true → ∀ (h : W64) (sl : List W128) (crc : W64),
      (crc64 (flitBytes h sl) ≠ crc → ∃ (t : State), exec (.mclFlit h sl crc) s = .next t ∧ { t with mcl := s.mcl, dict := s.dict } = s ∧
        t.mcl = { s.mcl with nak := true } ∧ s.Counted t (dk 0x2A00 5) 1 ∧ ∀ k, k ≠ dk 0x2A00 5 → t.d k = s.d k) ∧
      (crc64 (flitBytes h sl) = crc → fSeq h ≠ s.mcl.rxSeq → exec (.mclFlit h sl crc) s = .next s) ∧
      (crc64 (flitBytes h sl) = crc → fSeq h = s.mcl.rxSeq →
        (fNak h = false ∨ s.mcl.msReplays + 1 ≤ s.dN (dk 0x2A00 8) → ∃ (t : State), exec (.mclFlit h sl crc) s = .next t ∧
          { t with mcl := s.mcl, out := s.out, dict := s.dict } = s ∧ t.mcl.rxSeq = (s.mcl.rxSeq + 1) % 1024 ∧ t.mcl.nak = false ∧
          t.mcl.ackDue = true ∧ t.mcl.replay = s.mcl.unacked (fAck h) ∧
          (∀ c, c < 5 → SMap.get (fun _ => 0) t.mcl.credits c = SMap.get (fun _ => 0) s.mcl.credits c + fCredit h c) ∧
          (∀ us r, us = s.mcl.rx ++ flitSlots sl → r = takeMsgs us.length us [] → t.mcl.rx = r.1 ∧
            ∀ c, SMap.get (fun _ => 0) t.mcl.owed c = SMap.get (fun _ => 0) s.mcl.owed c + cnt (fun i => i == c) r.2) ∧
          { t.mcl with
            rxSeq := s.mcl.rxSeq
            nak := s.mcl.nak
            ackDue := s.mcl.ackDue
            credits := s.mcl.credits
            owed := s.mcl.owed
            replay := s.mcl.replay
            rx := s.mcl.rx
            msReplays := s.mcl.msReplays } = s.mcl ∧
          t.mcl.msReplays = s.mcl.msReplays + (if fNak h = true then 1 else 0) ∧ (fNak h = true → s.Counted t (dk 0x2A00 6) 1) ∧ (∀ k, k ≠ dk 0x2A00 6 → t.d k = s.d k) ∧
          t.out = s.out ++ if fNak h = true then t.mcl.replay.map t.mcl.again else []) ∧
        (fNak h = true → s.dN (dk 0x2A00 8) < s.mcl.msReplays + 1 → (∀ p, (s.part p).ckpt.restore = none ∧ (s.part p).ckpt.queue = []) →
          ∃ (t : State), exec (.mclFlit h sl crc) s = .next t.settle ∧ t.dN (dk 0x2A00 3) = 1 ∧ s.Counted t (dk 0x2A00 7) 1))) ∧
    (s.dN (dk 0x2A00 3) = 1 → ∀ m : MclMsg, mOpc m.hdr = 0x40 → ∀ v, v = mclCommon (Config.mclTraining m.lines).1 →
      (v = 0 → ∃ (t : State), exec (.mclMsg m) s = .next t ∧ s.OnlyDict t [dk 0x2A00 3] ∧ t.dN (dk 0x2A00 3) = 3) ∧
      (v ≠ 0 → (Config.mclTraining m.lines).2.toNat ≠ v → exec (.mclMsg m) s = .next (s.emit (.training 0b111 (BitVec.ofNat 2 v)))) ∧
      (v ≠ 0 → (Config.mclTraining m.lines).2.toNat = v → s.mcl.queue = [] → (∀ w, (s.winRaw w).kind = 0) →
        ∃ (t : State), exec (.mclMsg m) s = .next t.settle ∧ t.out = s.out ++ [.training 0b111 (BitVec.ofNat 2 v)] ∧
          { t with dict := s.dict, out := s.out } = s ∧ t.dN (dk 0x2A00 3) = 2 ∧ t.dN (dk 0x2A00 2) = v ∧
          t.dN (dk 0x2A00 4) = 16)) ∧
    (s.mclActive = true → (∀ p, (s.part p).ckpt.restore = none ∧ (s.part p).ckpt.queue = []) →
      ∃ (t : State), exec .mclRetrain s = .next t.settle ∧ t.dN (dk 0x2A00 3) = 1 ∧ t.dN (dk 0x2A00 2) = 0 ∧ t.dN (dk 0x2A00 4) = 0 ∧
        s.Counted t (dk 0x2A00 7) 1 ∧ t.mcl.reqs = [] ∧ (∀ w l, (t.mcl.ring w).line l = none) ∧ (∀ a, t.mem.byte a = s.mem.byte a) ∧
        t.cores = s.cores ∧ t.out = s.out ++ [.training 0b111 0] ∧ t.mcl.rx = [] ∧ t.mcl.replay = [] ∧ t.mcl.toSend = [] ∧ t.mcl.line = [] ∧
        t.mcl.credits = [] ∧ t.mcl.spent = [] ∧ t.mcl.rxSeq = 0 ∧ t.mcl.txSeq = 0) ∧
    (s.mclActive = false → exec .mclRetrain s = .next s) ∧
    (s.mclActive = true → s.mclVer = 3 → s.dN (dk 0x2A00 4) = 16 →
      ∃ (t : State), exec .mclLaneFailure s = .next t ∧ s.OnlyDict t [dk 0x2A00 4] ∧ t.dN (dk 0x2A00 4) = 8) ∧
    (¬(s.mclActive = true ∧ s.mclVer = 3 ∧ s.dN (dk 0x2A00 4) = 16) → exec .mclLaneFailure s = exec .mclRetrain s) ∧
    (∀ win : Fin 64,
      (SMap.get (fun _ => 0) s.mcl.holdoff win.val ≠ 2 → ∃ (t : State), exec (.irqHoldoffEnd win) s = .next t ∧ { t with mcl := s.mcl } = s ∧
        { t.mcl with holdoff := s.mcl.holdoff } = s.mcl ∧
        ∀ v, SMap.get (fun _ => 0) t.mcl.holdoff v = if v = win.val then 0 else SMap.get (fun _ => 0) s.mcl.holdoff v) ∧
      (∀ w, SMap.get (fun _ => 0) s.mcl.holdoff win.val = 2 → w ∈ s.windows → w.idx = win → w.kind = 2 → s.LinkClear →
        ∃ (t : State) (r : MclMsg), exec (.irqHoldoffEnd win) s = .next t ∧ s.Sent t [r] ∧ mOpc r.hdr = 0x04 ∧ mPart r.hdr = w.part ∧
          mAddr r.hdr = s.df (winKey win 4) ∧ r.lines = [BitVec.ofNat 512 (s.dfN (winKey win 5))]) ∧
      (∀ w, SMap.get (fun _ => 0) s.mcl.holdoff win.val = 2 → w ∈ s.windows → w.idx = win → w.kind = 2 → s.mclActive = false →
        ∃ (t : State) (q : MclReq) (k : MclSink), exec (.irqHoldoffEnd win) s = .next t ∧ { t with mcl := s.mcl } = s ∧
          t.mcl.queue = s.mcl.queue ++ [.req q k] ∧ q.opc = 0x04 ∧ q.part = w.part ∧ q.addr = s.df (winKey win 4) ∧
          q.lines = [BitVec.ofNat 512 (s.dfN (winKey win 5))]))) ∧
  (∀ (s : State), s.mclActive = true →
    (∀ (m : MclMsg) (a : W64), mOpc m.hdr = 0x40 → fldN (m.lines.headD 0) 0 8 = 0x20 → a = fld (m.lines.headD 0) 320 64 → s.board.tkUp = true →
      (s.sec.attest.length < 4 → s.inDataWin (mPart m.hdr) a.toNat 35264 = true →
        ∃ (t : State), exec (.attestationRequest m) s = .next t.settle ∧ { t with sec := s.sec } = s ∧
          t.sec = { s.sec with attest := s.sec.attest ++ [(mPart m.hdr, fld (m.lines.headD 0) 64 256, a)] }) ∧
      (s.sec.attest.length < 4 → s.inDataWin (mPart m.hdr) a.toNat 35264 = false →
        ∃ (t : State) (r : MclMsg), exec (.attestationRequest m) s = .next t.settle ∧ s.Sent t [r] ∧ mOpc r.hdr = 0x40 ∧ mPart r.hdr = mPart m.hdr ∧
          r.lines = [BitVec.ofNat 512 0x0121]) ∧
      (4 ≤ s.sec.attest.length →
        ∃ (t : State) (r : MclMsg), exec (.attestationRequest m) s = .next t.settle ∧ s.Sent t [r] ∧ mOpc r.hdr = 0x40 ∧ mPart r.hdr = mPart m.hdr ∧
          r.lines = [BitVec.ofNat 512 0x0221])) ∧
    (s.sec.attest = [] → exec .attestationReport s = .next s) ∧
    (∀ p nonce a l, s.sec.attest = (p, nonce, a) :: l →
      ∃ (t : State) (o : List Out) (r : MclMsg), exec .attestationReport s = .next t ∧ t.sec = { s.sec with attest := l } ∧
        { t with mcl := s.mcl, out := s.out, sec := s.sec } = s ∧ t.out = s.out ++ o ++ [.mcl r] ∧ mOpc r.hdr = 0x40 ∧ mPart r.hdr = p ∧
        r.lines = [BitVec.ofNat 512 (if s.inDataWin p a.toNat 35264 = true then 0x0021 else 0x0121)] ∧
        (s.inDataWin p a.toNat 35264 = false → o = [])) ∧
    (∀ p nonce, ((s.attestPart p nonce).drop 32).take 32 = leBytes 32 nonce.toNat ∧
      ((s.attestPart p nonce).drop 256).take 8 = leBytes 8 s.now.toNat ∧ (s.attestPart p nonce).getD 6 0 = BitVec.ofNat 8 p.val))

/-! ## Field network and board -/

/-- The field network. In pre-operational and operational every USDO access is answered: with the abort code of what is wrong with it, with
the value of an entry, or after an rw entry has taken what was written; a stopped node answers none (R356, R361, R364, R366, R369). A fuse
download over P-CAN only adds bits to the staging store, and is refused and counted once FUSE_LOCK is set (R357, R376). NMT commands set the
state of the node, and the heartbeat carries it (R364). The model's choices in it: log entries 68 and 69. -/
def Obligations.FieldNetwork : Prop :=
  ∀ (s : State),
    (s.usdoServed = false → ∀ idx sub len v, ∀ c ∈ [Instr.usdoDownload idx sub len v, .usdoUpload idx sub, .fuseStage sub len v], exec c s = .next s) ∧
    (s.usdoServed = true →
      (s.serverBusy = true → ∀ idx sub len v, ∀ e ∈ [(Instr.usdoDownload idx sub len v, idx), (.usdoUpload idx sub, idx), (.fuseStage sub len v, 0x2800)],
        ∃ (t : State), exec e.1 s = .next t ∧ { t with dict := s.dict, out := s.out } = s ∧ s.Counted t (dk 0x2600 5) 1 ∧
          t.out = s.out ++ [.usdo e.2 sub 0x08000022 []]) ∧
      (s.serverBusy = false →
        (∀ (idx : W16) (sub : Byte) (len : Nat) (v : W64),
          (∀ e ∈ [(DLoc.noIndex, (0x06020000 : W32)), (.noSub, 0x06090011)], dLoc idx.toNat sub.toNat = e.1 →
            ∀ c ∈ [Instr.usdoDownload idx sub len v, .usdoUpload idx sub], exec c s = .next (s.emit (.usdo idx sub e.2 []))) ∧
          (∀ e, dLoc idx.toNat sub.toNat = .entry e → e.scope = .m →
            (e.acc = .const ∨ e.acc = .ro ∨ e.acc = .crit →
              exec (.usdoDownload idx sub len v) s = .next (s.emit (.usdo idx sub 0x06010002 []))) ∧
            (e.acc = .wo → exec (.usdoUpload idx sub) s = .next (s.emit (.usdo idx sub 0x06010001 []))) ∧
            (e.acc = .rw → len ≠ e.ty.bytes → exec (.usdoDownload idx sub len v) s = .next (s.emit (.usdo idx sub 0x06070010 []))) ∧
            (e.acc = .const ∨ e.acc = .ro ∨ e.acc = .rw → s.strEntry idx.toNat sub.toNat = none → s.liveM idx.toNat sub.toNat = none →
              exec (.usdoUpload idx sub) s =
                .next (s.emit (.usdo idx sub 0 (leBytes e.ty.bytes (e.ty.widen (s.d (dk idx.toNat sub.toNat))).toNat)))) ∧
            (∀ (w : W16), idx = 0x1017 → sub = 0 → v = w.zeroExtend 64 → len = 2 →
              ∃ (u : State), exec (.usdoDownload idx sub len v) s = .next (u.settle.emit (.usdo idx sub 0 [])) ∧ { u with dict := s.dict } = s ∧
                ∀ k, u.d k = if k = dk 0x1017 0 then w.zeroExtend 64 else s.d k))) ∧
        (s.sec.shadow.lock = true → ∀ sub len v, 2 ≤ sub.toNat → sub.toNat ≤ 16 → ∃ (t : State), exec (.fuseStage sub len v) s = .next t ∧
          { t with dict := s.dict, out := s.out } = s ∧ s.Counted t (dk 0x2600 4) 1 ∧ t.out = s.out ++ [.usdo 0x2800 sub 0x08000020 []]) ∧
        (s.sec.shadow.lock = false → ∀ (sub : Byte) (v : W64), 2 ≤ sub.toNat → sub.toNat ≤ 16 →
          ∀ len, len = (if sub.toNat = 2 ∨ sub.toNat = 16 then 1 else if sub.toNat = 3 then 4 else 8) →
          ∃ (t : State), exec (.fuseStage sub len v) s = .next t ∧ t.out = s.out ++ [.usdo 0x2800 sub 0 []] ∧
            { t with sec := s.sec, out := s.out } = s ∧ { t.sec with staged := s.sec.staged } = s.sec ∧ s.sec.staged.Le t.sec.staged ∧
            t.sec.staged.lock = s.sec.staged.lock ∧
            t.sec.staged.debugLock = (s.sec.staged.debugLock || (sub == 2 && bitAt v 0)) ∧
            t.sec.staged.arb = (if sub = 3 then s.sec.staged.arb ||| fld v 0 32 else s.sec.staged.arb) ∧
            (∀ i, i < 6 → fld t.sec.staged.hashRsa (64 * i) 64 =
              if sub.toNat = 4 + i then fld s.sec.staged.hashRsa (64 * i) 64 ||| v else fld s.sec.staged.hashRsa (64 * i) 64) ∧
            (∀ i, i < 6 → fld t.sec.staged.hashSlh (64 * i) 64 =
              if sub.toNat = 10 + i then fld s.sec.staged.hashSlh (64 * i) 64 ||| v else fld s.sec.staged.hashSlh (64 * i) 64)))) ∧
    (∀ c ∈ [Instr.nmtResetNode, .nmtResetCommunication],
      (s.canUp = true → ∃ (t : State), exec c s = .next t ∧ { t with nmt := s.nmt, dict := s.dict, out := s.out } = s ∧ t.nmt = .preop ∧
        t.out = s.out ++ [.bootup s.nodeId] ∧ ∀ k, t.dN k = if k = dk 0x1017 0 then 1000 else if k = dk 0x1015 0 then 0 else s.dN k) ∧
      (s.canUp = false → exec c s = .next s)) ∧
    (∀ e ∈ [(NmtCmd.start, Nmt.operational), (.stop, .stopped), (.preop, .preop)],
      (s.canUp = true → exec (.nmtStateCommand e.1) s = .next { s with nmt := e.2 }) ∧ (s.canUp = false → exec (.nmtStateCommand e.1) s = .next s)) ∧
    (s.canUp = true → s.dN (dk 0x1017 0) ≠ 0 → ∀ e ∈ [(Nmt.stopped, (0x04 : Byte)), (.operational, 0x05), (.preop, 0x7F)], s.nmt = e.1 →
      exec .heartbeat s = .next (s.emit (.heartbeat s.nodeId e.2))) ∧
    (s.dN (dk 0x1017 0) = 0 → exec .heartbeat s = .next s)

/-- The management bus and P-JTAG. A command whose PEC fails, or that arrives without power, is ignored, and the trusted kernel's do nothing
before it runs (R389). The buffer takes bytes up to 64 KiB and says when it overflows; a document that fails a check leaves only its result,
one that passes is installed (R390). Readiness, boot status and the cause of the last reset are answered whenever there is power (R389,
R408, R410). EXTEST acts while RESET is asserted only, and the debug instructions are BYPASS under DEBUG_LOCK; what they do without it the
manual does not say (R391). -/
def Obligations.ManagementBus : Prop :=
  ∀ (s : State),
    (∀ ok l, ∀ c ∈ [Instr.configBufferWrite ok l, .configInstall ok, .configResultRead ok, .configBufferEmpty ok, .bootStatusRead ok, .readinessRead ok,
        .resetCauseRead ok], ok = false ∨ s.board.pg = false → exec c s = .next s) ∧
    (s.board.tkUp = false → ∀ ok l, ∀ c ∈ [Instr.configBufferWrite ok l, .configInstall ok, .configResultRead ok, .configBufferEmpty ok],
      exec c s = .next s) ∧
    (s.board.pg = true →
      (∃ (t : State), exec (.bootStatusRead true) s = .next t ∧ { t with out := s.out } = s ∧
        t.out = s.out ++ [.smbus (leBytes 4 (s.dN (dk 0x2800 0x11)))]) ∧
      (∃ (t : State), exec (.resetCauseRead true) s = .next t ∧ { t with out := s.out } = s ∧
        t.out = s.out ++ [.smbus (leBytes 2 s.board.cause.toNat)]) ∧
      (∃ (t : State) (r : Byte), exec (.readinessRead true) s = .next t ∧ { t with out := s.out } = s ∧ t.out = s.out ++ [.smbus [r]] ∧
        bitAt r 0 = s.board.sfUp ∧ bitAt r 1 = s.board.dramTrained ∧ bitAt r 2 = s.board.coresDone ∧
        bitAt r 3 = (s.dN (dk 0x2201 3) == 0xFFFF || s.dN (dk 0x2202 2) == 1) ∧ bitAt r 4 = s.mclActive ∧ bitAt r 5 = (s.ownDev != 0xFFFF) ∧
        bitAt r 6 = allPorts.all (fun n => (s.portSt n).leftTraining) ∧ bitAt r 7 = s.board.halt)) ∧
    (s.board.pg = true → s.board.tkUp = true →
      (∀ l, s.sec.cfgBuf.length + l.length ≤ 65536 → exec (.configBufferWrite true l) s = .next { s with sec := { s.sec with cfgBuf := s.sec.cfgBuf ++ l } }) ∧
      (∀ l, 65536 < s.sec.cfgBuf.length + l.length → s.sec.cfgBuf.length ≤ 65536 → ∃ (t : State), exec (.configBufferWrite true l) s = .next t ∧
        { t with sec := s.sec } = s ∧ t.sec.cfgBuf.length = 65536 ∧ t.sec.cfgOvf = true ∧ t.sec.cfgResult = 3) ∧
      exec (.configBufferEmpty true) s = .next { s with sec := { s.sec with cfgBuf := [], cfgOvf := false } } ∧
      (∃ (t : State), exec (.configResultRead true) s = .next t ∧ { t with out := s.out } = s ∧
        t.out = s.out ++ [.smbus (leBytes 2 s.sec.cfgResult.toNat)]) ∧
      (s.sec.shadowN = s.sec.shadow.compl →
        (∀ code item, s.docCode s.sec.cfgBuf s.sec.cfgOvf = (code, item) → code ≠ 0 → exec (.configInstall true) s =
          .next { s with sec := { s.sec with cfgBuf := [], cfgOvf := false, cfgResult := BitVec.ofNat 16 (item * 256 + code) } }) ∧
        ((s.docCode s.sec.cfgBuf s.sec.cfgOvf).1 = 0 → ∃ (t : State), exec (.configInstall true) s = .next t.settle ∧ t.sec.cfgBuf = [] ∧
          t.sec.cfgResult = BitVec.ofNat 16 ((s.docCode s.sec.cfgBuf s.sec.cfgOvf).2 * 256) ∧ t.sec.lastDoc = some s.sec.cfgBuf ∧
          s.Counted t (dk 0x2600 3) 1 ∧ t.sec.fuses = s.sec.fuses))) ∧
    (∀ e ∈ [(JtagIr.bypass, JtagIr.bypass, false), (.idcode, .idcode, false), (.samplePreload, .samplePreload, false),
        (.extest, if s.board.resetPin = true then .extest else .bypass, s.board.resetPin)],
      exec (.jtagInstruction e.1) s = .next ({ s with sec := { s.sec with jtag := e.2.1, extest := e.2.2 } }.emit (.jtag e.2.1))) ∧
    (s.sec.shadow.debugLock = true →
      exec (.jtagInstruction .debug) s = .next ({ s with sec := { s.sec with jtag := .bypass, extest := false } }.emit (.jtag .bypass))) ∧
    (s.sec.shadow.debugLock = false → exec (.jtagInstruction .debug) s = .refused .debugInstruction)
end

