-- ==== Sys2Proof/Laws/SMap.lean ====
section
/-!
SUPPORT. Laws of the sparse maps: reading after a write, and that every operation keeps the canonical form.
-/
namespace Sys2Proof.Machine

variable {α : Type}

/-- Keys rise strictly. -/
abbrev SMap.Sorted (m : SMap α) : Prop := m.Pairwise (fun x y => x.1 < y.1)

theorem SMap.wf_iff [DecidableEq α] (d : Nat → α) (m : SMap α) :
    SMap.wf d m = true ↔ SMap.Sorted m ∧ ∀ e ∈ m, e.2 ≠ d e.1 := by
  simp [SMap.wf]

theorem SMap.wf_nil [DecidableEq α] (d : Nat → α) : SMap.wf d [] = true := rfl

/-- An entry that no key matches leaves the default. -/
theorem SMap.get_of_forall_ne (d : Nat → α) (m : SMap α) (q : Nat) (h : ∀ e ∈ m, e.1 ≠ q) : SMap.get d m q = d q := by
  induction m with
  | nil => rfl
  | cons e t ih =>
    obtain ⟨k, v⟩ := e
    have h1 : k ≠ q := h (k, v) (List.mem_cons_self ..)
    simp only [SMap.get, h1, if_false]
    exact ih fun e he => h e (List.mem_cons_of_mem _ he)

theorem SMap.get_append (d : Nat → α) (a b : SMap α) (q : Nat) (h : ∀ e ∈ a, e.1 ≠ q) :
    SMap.get d (a ++ b) q = SMap.get d b q := by
  induction a with
  | nil => rfl
  | cons e t ih =>
    obtain ⟨k, v⟩ := e
    have h1 : k ≠ q := h (k, v) (List.mem_cons_self ..)
    simp only [List.cons_append, SMap.get, h1, if_false]
    exact ih fun e he => h e (List.mem_cons_of_mem _ he)

/-- The second of two joined maps has no say where the first does. -/
theorem SMap.get_append_left (d : Nat → α) (a b : SMap α) (q : Nat) (h : ∀ e ∈ b, e.1 ≠ q) :
    SMap.get d (a ++ b) q = SMap.get d a q := by
  induction a with
  | nil => exact SMap.get_of_forall_ne d b q h
  | cons e t ih =>
    obtain ⟨k, v⟩ := e
    simp only [List.cons_append, SMap.get]
    split
    · rfl
    · exact ih

theorem SMap.get_filter (d : Nat → α) (m : SMap α) (f : Nat → Bool) (q : Nat) (h : f q = true) :
    SMap.get d (m.filter (fun e => f e.1)) q = SMap.get d m q := by
  induction m with
  | nil => rfl
  | cons e t ih =>
    obtain ⟨k, v⟩ := e
    by_cases hk : k = q
    · subst hk; simp [h, SMap.get]
    · by_cases hf : f k = true
      · simp [hf, SMap.get, hk, ih]
      · simp [hf, SMap.get, hk, ih]

theorem SMap.get_splice_of_lt (d : Nat → α) (m : SMap α) (a b q : Nat) (new : SMap α) (hq : q < a) (hab : a ≤ b)
    (hn : ∀ e ∈ new, a ≤ e.1) : SMap.get d (SMap.splice m a b new) q = SMap.get d m q := by
  unfold SMap.splice
  rw [List.append_assoc, SMap.get_append_left]
  · exact SMap.get_filter d m (fun k => decide (k < a)) q (by simpa using hq)
  · intro e he
    rcases List.mem_append.1 he with h | h
    · have := hn e h; omega
    · have := (List.mem_filter.1 h).2; simp at this; omega

theorem SMap.get_splice_of_le (d : Nat → α) (m : SMap α) (a b q : Nat) (new : SMap α) (hq : b ≤ q) (hab : a ≤ b)
    (hn : ∀ e ∈ new, e.1 < b) : SMap.get d (SMap.splice m a b new) q = SMap.get d m q := by
  unfold SMap.splice
  rw [SMap.get_append]
  · exact SMap.get_filter d m (fun k => decide (b ≤ k)) q (by simpa using hq)
  · intro e he
    rcases List.mem_append.1 he with h | h
    · have := (List.mem_filter.1 h).2; simp at this; omega
    · have := hn e h; omega

theorem SMap.get_splice_of_mem (d : Nat → α) (m : SMap α) (a b q : Nat) (new : SMap α) (h1 : a ≤ q) (h2 : q < b) :
    SMap.get d (SMap.splice m a b new) q = SMap.get d new q := by
  unfold SMap.splice
  rw [SMap.get_append_left, SMap.get_append]
  · intro e he
    have := (List.mem_filter.1 he).2; simp at this; omega
  · intro e he
    have := (List.mem_filter.1 he).2; simp at this; omega

theorem SMap.sorted_splice (m : SMap α) (a b : Nat) (new : SMap α) (hm : SMap.Sorted m) (hab : a ≤ b)
    (hs : SMap.Sorted new) (hn : ∀ e ∈ new, a ≤ e.1 ∧ e.1 < b) : SMap.Sorted (SMap.splice m a b new) := by
  unfold SMap.splice SMap.Sorted
  rw [List.append_assoc, List.pairwise_append, List.pairwise_append]
  refine ⟨hm.filter _, ⟨hs, hm.filter _, ?_⟩, ?_⟩
  · intro x hx y hy
    have := (List.mem_filter.1 hy).2; have := (hn x hx).2; simp at *; omega
  · intro x hx y hy
    have h1 := (List.mem_filter.1 hx).2
    rcases List.mem_append.1 hy with h | h
    · have := (hn y h).1; simp at *; omega
    · have := (List.mem_filter.1 h).2; simp at *; omega

theorem SMap.wf_splice [DecidableEq α] (d : Nat → α) (m : SMap α) (a b : Nat) (new : SMap α) (hm : SMap.wf d m = true)
    (hab : a ≤ b) (hs : SMap.wf d new = true) (hn : ∀ e ∈ new, a ≤ e.1 ∧ e.1 < b) : SMap.wf d (SMap.splice m a b new) = true := by
  rw [SMap.wf_iff] at *
  refine ⟨SMap.sorted_splice m a b new hm.1 hab hs.1 hn, ?_⟩
  intro e he
  unfold SMap.splice at he
  simp only [List.mem_append, List.mem_filter] at he
  rcases he with (h | h) | h
  · exact hm.2 e h.1
  · exact hs.2 e h
  · exact hm.2 e h.1

/-! ## Setting one key -/

theorem SMap.get_set_self [DecidableEq α] (d : Nat → α) (m : SMap α) (q : Nat) (v : α) : SMap.get d (SMap.set d m q v) q = v := by
  unfold SMap.set
  rw [SMap.get_splice_of_mem d m q (q + 1) q _ (Nat.le_refl q) (Nat.lt_succ_self q)]
  split
  · next h => simp [SMap.get, h]
  · simp [SMap.get]

theorem SMap.get_set_ne [DecidableEq α] (d : Nat → α) (m : SMap α) (q k : Nat) (v : α) (h : k ≠ q) :
    SMap.get d (SMap.set d m q v) k = SMap.get d m k := by
  unfold SMap.set
  rcases Nat.lt_or_gt_of_ne h with h | h
  · refine SMap.get_splice_of_lt d m q (q + 1) k _ h (Nat.le_succ q) fun e he => ?_
    split at he
    · simp at he
    · simp at he; subst he; exact Nat.le_refl q
  · refine SMap.get_splice_of_le d m q (q + 1) k _ h (Nat.le_succ q) fun e he => ?_
    split at he
    · simp at he
    · simp at he; subst he; exact Nat.lt_succ_self q

theorem SMap.get_set [DecidableEq α] (d : Nat → α) (m : SMap α) (q k : Nat) (v : α) :
    SMap.get d (SMap.set d m q v) k = if k = q then v else SMap.get d m k := by
  split
  · next h => subst h; exact SMap.get_set_self d m k v
  · next h => exact SMap.get_set_ne d m q k v h

theorem SMap.wf_set [DecidableEq α] (d : Nat → α) (m : SMap α) (q : Nat) (v : α) (hm : SMap.wf d m = true) :
    SMap.wf d (SMap.set d m q v) = true := by
  unfold SMap.set
  refine SMap.wf_splice d m q (q + 1) _ hm (Nat.le_succ q) ?_ fun e he => ?_
  · split
    · rfl
    · next h => simp [SMap.wf, h]
  · split at he
    · simp at he
    · simp at he; subst he; exact ⟨Nat.le_refl q, Nat.lt_succ_self q⟩

/-! ## Setting consecutive keys -/

theorem SMap.entries_bounds [DecidableEq α] (d : Nat → α) (vs : List α) : ∀ (a : Nat), ∀ e ∈ SMap.entries d a vs, a ≤ e.1 ∧ e.1 < a + vs.length := by
  induction vs with
  | nil => intro a e he; simp [SMap.entries] at he
  | cons v t ih =>
    intro a e he
    simp only [SMap.entries] at he
    simp only [List.length_cons]
    split at he
    · have := ih (a + 1) e he; omega
    · rcases List.mem_cons.1 he with h | h
      · subst h; simp
      · have := ih (a + 1) e h; omega

theorem SMap.wf_entries [DecidableEq α] (d : Nat → α) (vs : List α) : ∀ (a : Nat), SMap.wf d (SMap.entries d a vs) = true := by
  induction vs with
  | nil => intro a; rfl
  | cons v t ih =>
    intro a
    simp only [SMap.entries]
    split
    · exact ih (a + 1)
    · next h =>
      have h1 := (SMap.wf_iff d _).1 (ih (a + 1))
      rw [SMap.wf_iff]
      refine ⟨List.pairwise_cons.2 ⟨fun e he => ?_, h1.1⟩, fun e he => ?_⟩
      · have := (SMap.entries_bounds d t (a + 1) e he).1; exact this
      · rcases List.mem_cons.1 he with h2 | h2
        · subst h2; exact h
        · exact h1.2 e h2

theorem SMap.wf_setRange [DecidableEq α] (d : Nat → α) (m : SMap α) (a : Nat) (vs : List α) (hm : SMap.wf d m = true) :
    SMap.wf d (SMap.setRange d m a vs) = true :=
  SMap.wf_splice d m a (a + vs.length) _ hm (Nat.le_add_right a _) (SMap.wf_entries d vs a) (SMap.entries_bounds d vs a)

theorem SMap.get_entries [DecidableEq α] (d : Nat → α) (vs : List α) : ∀ (a i : Nat) (h : i < vs.length),
    SMap.get d (SMap.entries d a vs) (a + i) = vs[i] := by
  induction vs with
  | nil => intro a i h; exact absurd h (Nat.not_lt_zero i)
  | cons v t ih =>
    intro a i h
    simp only [SMap.entries]
    cases i with
    | zero =>
      simp only [Nat.add_zero, List.getElem_cons_zero]
      split
      · next hv =>
        rw [SMap.get_of_forall_ne]
        · exact hv.symm
        · intro e he; have := (SMap.entries_bounds d t (a + 1) e he).1; omega
      · simp [SMap.get]
    | succ i =>
      have hi : i < t.length := by simpa using h
      have e1 : a + (i + 1) = a + 1 + i := by omega
      simp only [List.getElem_cons_succ]
      split
      · rw [e1]; exact ih (a + 1) i hi
      · have : ¬ a = a + (i + 1) := by omega
        simp only [SMap.get, this, if_false]
        rw [e1]; exact ih (a + 1) i hi

/-- A written key reads as what was written. -/
theorem SMap.get_setRange_mem [DecidableEq α] (d : Nat → α) (m : SMap α) (a i : Nat) (vs : List α) (h : i < vs.length) :
    SMap.get d (SMap.setRange d m a vs) (a + i) = vs[i] := by
  unfold SMap.setRange
  rw [SMap.get_splice_of_mem d m a (a + vs.length) (a + i) _ (by omega) (by omega)]
  exact SMap.get_entries d vs a i h

/-- A key outside the range reads as before. -/
theorem SMap.get_setRange_out [DecidableEq α] (d : Nat → α) (m : SMap α) (a k : Nat) (vs : List α)
    (h : k < a ∨ a + vs.length ≤ k) : SMap.get d (SMap.setRange d m a vs) k = SMap.get d m k := by
  unfold SMap.setRange
  rcases h with h | h
  · exact SMap.get_splice_of_lt d m a _ k _ h (Nat.le_add_right a _) fun e he => (SMap.entries_bounds d vs a e he).1
  · exact SMap.get_splice_of_le d m a _ k _ h (Nat.le_add_right a _) fun e he => (SMap.entries_bounds d vs a e he).2

theorem SMap.wf_filter [DecidableEq α] (d : Nat → α) (m : SMap α) (f : Nat × α → Bool) (hm : SMap.wf d m = true) :
    SMap.wf d (m.filter f) = true := by
  rw [SMap.wf_iff] at *
  exact ⟨hm.1.filter _, fun e he => hm.2 e (List.mem_filter.1 he).1⟩

/-- The canonical form depends on the default only at the keys that stand in the map. -/
theorem SMap.wf_congr [DecidableEq α] (d d' : Nat → α) (m : SMap α) (h : ∀ e ∈ m, d e.1 = d' e.1) (hm : SMap.wf d m = true) :
    SMap.wf d' m = true := by
  rw [SMap.wf_iff] at *
  exact ⟨hm.1, fun e he => h e he ▸ hm.2 e he⟩

theorem SMap.wf_map [DecidableEq α] (d : Nat → α) (m : SMap α) (f : α → α) (h : ∀ e ∈ m, f e.2 ≠ d e.1) (hm : SMap.Sorted m) :
    SMap.wf d (m.map (fun e => (e.1, f e.2))) = true := by
  rw [SMap.wf_iff]
  refine ⟨?_, fun e he => ?_⟩
  · unfold SMap.Sorted; rw [List.pairwise_map]; exact hm
  · simp only [List.mem_map] at he
    obtain ⟨x, hx, rfl⟩ := he
    exact h x hx

end Sys2Proof.Machine
end

