-- ==== Sys2Proof/Laws/State.lean ====
section
/-!
SUPPORT. Laws of the state's named updates: each field after each update, and reading back what was set.
-/
namespace Sys2Proof.Machine

/-! ## setCore -/

@[simp] theorem State.setCore_pending (s : State) (c : CoreId) (k : Core) : (s.setCore c k).pending = s.pending := rfl
@[simp] theorem State.setCore_mem (s : State) (c : CoreId) (k : Core) : (s.setCore c k).mem = s.mem := rfl
@[simp] theorem State.setCore_objs (s : State) (c : CoreId) (k : Core) : (s.setCore c k).objs = s.objs := rfl
@[simp] theorem State.setCore_parts (s : State) (c : CoreId) (k : Core) : (s.setCore c k).parts = s.parts := rfl
@[simp] theorem State.setCore_dict (s : State) (c : CoreId) (k : Core) : (s.setCore c k).dict = s.dict := rfl
@[simp] theorem State.setCore_dictForce (s : State) (c : CoreId) (k : Core) : (s.setCore c k).dictForce = s.dictForce := rfl
@[simp] theorem State.setCore_dictN (s : State) (c : CoreId) (k : Core) : (s.setCore c k).dictN = s.dictN := rfl
@[simp] theorem State.setCore_ports (s : State) (c : CoreId) (k : Core) : (s.setCore c k).ports = s.ports := rfl
@[simp] theorem State.setCore_reqs (s : State) (c : CoreId) (k : Core) : (s.setCore c k).reqs = s.reqs := rfl
@[simp] theorem State.setCore_nextTag (s : State) (c : CoreId) (k : Core) : (s.setCore c k).nextTag = s.nextTag := rfl
@[simp] theorem State.setCore_spray (s : State) (c : CoreId) (k : Core) : (s.setCore c k).spray = s.spray := rfl
@[simp] theorem State.setCore_stackSts (s : State) (c : CoreId) (k : Core) : (s.setCore c k).stackSts = s.stackSts := rfl
@[simp] theorem State.setCore_mcl (s : State) (c : CoreId) (k : Core) : (s.setCore c k).mcl = s.mcl := rfl
@[simp] theorem State.setCore_caps (s : State) (c : CoreId) (k : Core) : (s.setCore c k).caps = s.caps := rfl
@[simp] theorem State.setCore_nextCap (s : State) (c : CoreId) (k : Core) : (s.setCore c k).nextCap = s.nextCap := rfl
@[simp] theorem State.setCore_faults (s : State) (c : CoreId) (k : Core) : (s.setCore c k).faults = s.faults := rfl
@[simp] theorem State.setCore_lead (s : State) (c : CoreId) (k : Core) : (s.setCore c k).lead = s.lead := rfl
@[simp] theorem State.setCore_sec (s : State) (c : CoreId) (k : Core) : (s.setCore c k).sec = s.sec := rfl
@[simp] theorem State.setCore_board (s : State) (c : CoreId) (k : Core) : (s.setCore c k).board = s.board := rfl
@[simp] theorem State.setCore_dists (s : State) (c : CoreId) (k : Core) : (s.setCore c k).dists = s.dists := rfl
@[simp] theorem State.setCore_withdrawn (s : State) (c : CoreId) (k : Core) : (s.setCore c k).withdrawn = s.withdrawn := rfl
@[simp] theorem State.setCore_spares (s : State) (c : CoreId) (k : Core) : (s.setCore c k).spares = s.spares := rfl
@[simp] theorem State.setCore_quar (s : State) (c : CoreId) (k : Core) : (s.setCore c k).quar = s.quar := rfl
@[simp] theorem State.setCore_selfFail (s : State) (c : CoreId) (k : Core) : (s.setCore c k).selfFail = s.selfFail := rfl
@[simp] theorem State.setCore_nmt (s : State) (c : CoreId) (k : Core) : (s.setCore c k).nmt = s.nmt := rfl
@[simp] theorem State.setCore_out (s : State) (c : CoreId) (k : Core) : (s.setCore c k).out = s.out := rfl
@[simp] theorem State.setCore_free (s : State) (c : CoreId) (k : Core) : (s.setCore c k).free = s.free := rfl

/-! ## setObj -/

@[simp] theorem State.setObj_pending (s : State) (c : CoreId) (n : Nat) (o : Obj) : (s.setObj c n o).pending = s.pending := rfl
@[simp] theorem State.setObj_mem (s : State) (c : CoreId) (n : Nat) (o : Obj) : (s.setObj c n o).mem = s.mem := rfl
@[simp] theorem State.setObj_cores (s : State) (c : CoreId) (n : Nat) (o : Obj) : (s.setObj c n o).cores = s.cores := rfl
@[simp] theorem State.setObj_parts (s : State) (c : CoreId) (n : Nat) (o : Obj) : (s.setObj c n o).parts = s.parts := rfl
@[simp] theorem State.setObj_dict (s : State) (c : CoreId) (n : Nat) (o : Obj) : (s.setObj c n o).dict = s.dict := rfl
@[simp] theorem State.setObj_dictForce (s : State) (c : CoreId) (n : Nat) (o : Obj) : (s.setObj c n o).dictForce = s.dictForce := rfl
@[simp] theorem State.setObj_dictN (s : State) (c : CoreId) (n : Nat) (o : Obj) : (s.setObj c n o).dictN = s.dictN := rfl
@[simp] theorem State.setObj_ports (s : State) (c : CoreId) (n : Nat) (o : Obj) : (s.setObj c n o).ports = s.ports := rfl
@[simp] theorem State.setObj_reqs (s : State) (c : CoreId) (n : Nat) (o : Obj) : (s.setObj c n o).reqs = s.reqs := rfl
@[simp] theorem State.setObj_nextTag (s : State) (c : CoreId) (n : Nat) (o : Obj) : (s.setObj c n o).nextTag = s.nextTag := rfl
@[simp] theorem State.setObj_spray (s : State) (c : CoreId) (n : Nat) (o : Obj) : (s.setObj c n o).spray = s.spray := rfl
@[simp] theorem State.setObj_stackSts (s : State) (c : CoreId) (n : Nat) (o : Obj) : (s.setObj c n o).stackSts = s.stackSts := rfl
@[simp] theorem State.setObj_mcl (s : State) (c : CoreId) (n : Nat) (o : Obj) : (s.setObj c n o).mcl = s.mcl := rfl
@[simp] theorem State.setObj_caps (s : State) (c : CoreId) (n : Nat) (o : Obj) : (s.setObj c n o).caps = s.caps := rfl
@[simp] theorem State.setObj_nextCap (s : State) (c : CoreId) (n : Nat) (o : Obj) : (s.setObj c n o).nextCap = s.nextCap := rfl
@[simp] theorem State.setObj_faults (s : State) (c : CoreId) (n : Nat) (o : Obj) : (s.setObj c n o).faults = s.faults := rfl
@[simp] theorem State.setObj_lead (s : State) (c : CoreId) (n : Nat) (o : Obj) : (s.setObj c n o).lead = s.lead := rfl
@[simp] theorem State.setObj_sec (s : State) (c : CoreId) (n : Nat) (o : Obj) : (s.setObj c n o).sec = s.sec := rfl
@[simp] theorem State.setObj_board (s : State) (c : CoreId) (n : Nat) (o : Obj) : (s.setObj c n o).board = s.board := rfl
@[simp] theorem State.setObj_dists (s : State) (c : CoreId) (n : Nat) (o : Obj) : (s.setObj c n o).dists = s.dists := rfl
@[simp] theorem State.setObj_withdrawn (s : State) (c : CoreId) (n : Nat) (o : Obj) : (s.setObj c n o).withdrawn = s.withdrawn := rfl
@[simp] theorem State.setObj_spares (s : State) (c : CoreId) (n : Nat) (o : Obj) : (s.setObj c n o).spares = s.spares := rfl
@[simp] theorem State.setObj_quar (s : State) (c : CoreId) (n : Nat) (o : Obj) : (s.setObj c n o).quar = s.quar := rfl
@[simp] theorem State.setObj_selfFail (s : State) (c : CoreId) (n : Nat) (o : Obj) : (s.setObj c n o).selfFail = s.selfFail := rfl
@[simp] theorem State.setObj_nmt (s : State) (c : CoreId) (n : Nat) (o : Obj) : (s.setObj c n o).nmt = s.nmt := rfl
@[simp] theorem State.setObj_out (s : State) (c : CoreId) (n : Nat) (o : Obj) : (s.setObj c n o).out = s.out := rfl
@[simp] theorem State.setObj_free (s : State) (c : CoreId) (n : Nat) (o : Obj) : (s.setObj c n o).free = s.free := rfl

/-! ## setPart -/

@[simp] theorem State.setPart_pending (s : State) (p : PartId) (v : Part) : (s.setPart p v).pending = s.pending := rfl
@[simp] theorem State.setPart_mem (s : State) (p : PartId) (v : Part) : (s.setPart p v).mem = s.mem := rfl
@[simp] theorem State.setPart_cores (s : State) (p : PartId) (v : Part) : (s.setPart p v).cores = s.cores := rfl
@[simp] theorem State.setPart_objs (s : State) (p : PartId) (v : Part) : (s.setPart p v).objs = s.objs := rfl
@[simp] theorem State.setPart_dict (s : State) (p : PartId) (v : Part) : (s.setPart p v).dict = s.dict := rfl
@[simp] theorem State.setPart_dictForce (s : State) (p : PartId) (v : Part) : (s.setPart p v).dictForce = s.dictForce := rfl
@[simp] theorem State.setPart_dictN (s : State) (p : PartId) (v : Part) : (s.setPart p v).dictN = s.dictN := rfl
@[simp] theorem State.setPart_ports (s : State) (p : PartId) (v : Part) : (s.setPart p v).ports = s.ports := rfl
@[simp] theorem State.setPart_reqs (s : State) (p : PartId) (v : Part) : (s.setPart p v).reqs = s.reqs := rfl
@[simp] theorem State.setPart_nextTag (s : State) (p : PartId) (v : Part) : (s.setPart p v).nextTag = s.nextTag := rfl
@[simp] theorem State.setPart_spray (s : State) (p : PartId) (v : Part) : (s.setPart p v).spray = s.spray := rfl
@[simp] theorem State.setPart_stackSts (s : State) (p : PartId) (v : Part) : (s.setPart p v).stackSts = s.stackSts := rfl
@[simp] theorem State.setPart_mcl (s : State) (p : PartId) (v : Part) : (s.setPart p v).mcl = s.mcl := rfl
@[simp] theorem State.setPart_caps (s : State) (p : PartId) (v : Part) : (s.setPart p v).caps = s.caps := rfl
@[simp] theorem State.setPart_nextCap (s : State) (p : PartId) (v : Part) : (s.setPart p v).nextCap = s.nextCap := rfl
@[simp] theorem State.setPart_faults (s : State) (p : PartId) (v : Part) : (s.setPart p v).faults = s.faults := rfl
@[simp] theorem State.setPart_lead (s : State) (p : PartId) (v : Part) : (s.setPart p v).lead = s.lead := rfl
@[simp] theorem State.setPart_sec (s : State) (p : PartId) (v : Part) : (s.setPart p v).sec = s.sec := rfl
@[simp] theorem State.setPart_board (s : State) (p : PartId) (v : Part) : (s.setPart p v).board = s.board := rfl
@[simp] theorem State.setPart_dists (s : State) (p : PartId) (v : Part) : (s.setPart p v).dists = s.dists := rfl
@[simp] theorem State.setPart_withdrawn (s : State) (p : PartId) (v : Part) : (s.setPart p v).withdrawn = s.withdrawn := rfl
@[simp] theorem State.setPart_spares (s : State) (p : PartId) (v : Part) : (s.setPart p v).spares = s.spares := rfl
@[simp] theorem State.setPart_quar (s : State) (p : PartId) (v : Part) : (s.setPart p v).quar = s.quar := rfl
@[simp] theorem State.setPart_selfFail (s : State) (p : PartId) (v : Part) : (s.setPart p v).selfFail = s.selfFail := rfl
@[simp] theorem State.setPart_nmt (s : State) (p : PartId) (v : Part) : (s.setPart p v).nmt = s.nmt := rfl
@[simp] theorem State.setPart_out (s : State) (p : PartId) (v : Part) : (s.setPart p v).out = s.out := rfl
@[simp] theorem State.setPart_free (s : State) (p : PartId) (v : Part) : (s.setPart p v).free = s.free := rfl

/-! ## setPort -/

@[simp] theorem State.setPort_pending (s : State) (n : PortId) (v : Port) : (s.setPort n v).pending = s.pending := rfl
@[simp] theorem State.setPort_mem (s : State) (n : PortId) (v : Port) : (s.setPort n v).mem = s.mem := rfl
@[simp] theorem State.setPort_cores (s : State) (n : PortId) (v : Port) : (s.setPort n v).cores = s.cores := rfl
@[simp] theorem State.setPort_objs (s : State) (n : PortId) (v : Port) : (s.setPort n v).objs = s.objs := rfl
@[simp] theorem State.setPort_parts (s : State) (n : PortId) (v : Port) : (s.setPort n v).parts = s.parts := rfl
@[simp] theorem State.setPort_dict (s : State) (n : PortId) (v : Port) : (s.setPort n v).dict = s.dict := rfl
@[simp] theorem State.setPort_dictForce (s : State) (n : PortId) (v : Port) : (s.setPort n v).dictForce = s.dictForce := rfl
@[simp] theorem State.setPort_dictN (s : State) (n : PortId) (v : Port) : (s.setPort n v).dictN = s.dictN := rfl
@[simp] theorem State.setPort_reqs (s : State) (n : PortId) (v : Port) : (s.setPort n v).reqs = s.reqs := rfl
@[simp] theorem State.setPort_nextTag (s : State) (n : PortId) (v : Port) : (s.setPort n v).nextTag = s.nextTag := rfl
@[simp] theorem State.setPort_spray (s : State) (n : PortId) (v : Port) : (s.setPort n v).spray = s.spray := rfl
@[simp] theorem State.setPort_stackSts (s : State) (n : PortId) (v : Port) : (s.setPort n v).stackSts = s.stackSts := rfl
@[simp] theorem State.setPort_mcl (s : State) (n : PortId) (v : Port) : (s.setPort n v).mcl = s.mcl := rfl
@[simp] theorem State.setPort_caps (s : State) (n : PortId) (v : Port) : (s.setPort n v).caps = s.caps := rfl
@[simp] theorem State.setPort_nextCap (s : State) (n : PortId) (v : Port) : (s.setPort n v).nextCap = s.nextCap := rfl
@[simp] theorem State.setPort_faults (s : State) (n : PortId) (v : Port) : (s.setPort n v).faults = s.faults := rfl
@[simp] theorem State.setPort_lead (s : State) (n : PortId) (v : Port) : (s.setPort n v).lead = s.lead := rfl
@[simp] theorem State.setPort_sec (s : State) (n : PortId) (v : Port) : (s.setPort n v).sec = s.sec := rfl
@[simp] theorem State.setPort_board (s : State) (n : PortId) (v : Port) : (s.setPort n v).board = s.board := rfl
@[simp] theorem State.setPort_dists (s : State) (n : PortId) (v : Port) : (s.setPort n v).dists = s.dists := rfl
@[simp] theorem State.setPort_withdrawn (s : State) (n : PortId) (v : Port) : (s.setPort n v).withdrawn = s.withdrawn := rfl
@[simp] theorem State.setPort_spares (s : State) (n : PortId) (v : Port) : (s.setPort n v).spares = s.spares := rfl
@[simp] theorem State.setPort_quar (s : State) (n : PortId) (v : Port) : (s.setPort n v).quar = s.quar := rfl
@[simp] theorem State.setPort_selfFail (s : State) (n : PortId) (v : Port) : (s.setPort n v).selfFail = s.selfFail := rfl
@[simp] theorem State.setPort_nmt (s : State) (n : PortId) (v : Port) : (s.setPort n v).nmt = s.nmt := rfl
@[simp] theorem State.setPort_out (s : State) (n : PortId) (v : Port) : (s.setPort n v).out = s.out := rfl
@[simp] theorem State.setPort_free (s : State) (n : PortId) (v : Port) : (s.setPort n v).free = s.free := rfl

/-! ## setStack -/

@[simp] theorem State.setStack_pending (s : State) (n : District) (v : Stack) : (s.setStack n v).pending = s.pending := rfl
@[simp] theorem State.setStack_mem (s : State) (n : District) (v : Stack) : (s.setStack n v).mem = s.mem := rfl
@[simp] theorem State.setStack_cores (s : State) (n : District) (v : Stack) : (s.setStack n v).cores = s.cores := rfl
@[simp] theorem State.setStack_objs (s : State) (n : District) (v : Stack) : (s.setStack n v).objs = s.objs := rfl
@[simp] theorem State.setStack_parts (s : State) (n : District) (v : Stack) : (s.setStack n v).parts = s.parts := rfl
@[simp] theorem State.setStack_dict (s : State) (n : District) (v : Stack) : (s.setStack n v).dict = s.dict := rfl
@[simp] theorem State.setStack_dictForce (s : State) (n : District) (v : Stack) : (s.setStack n v).dictForce = s.dictForce := rfl
@[simp] theorem State.setStack_dictN (s : State) (n : District) (v : Stack) : (s.setStack n v).dictN = s.dictN := rfl
@[simp] theorem State.setStack_ports (s : State) (n : District) (v : Stack) : (s.setStack n v).ports = s.ports := rfl
@[simp] theorem State.setStack_reqs (s : State) (n : District) (v : Stack) : (s.setStack n v).reqs = s.reqs := rfl
@[simp] theorem State.setStack_nextTag (s : State) (n : District) (v : Stack) : (s.setStack n v).nextTag = s.nextTag := rfl
@[simp] theorem State.setStack_spray (s : State) (n : District) (v : Stack) : (s.setStack n v).spray = s.spray := rfl
@[simp] theorem State.setStack_mcl (s : State) (n : District) (v : Stack) : (s.setStack n v).mcl = s.mcl := rfl
@[simp] theorem State.setStack_caps (s : State) (n : District) (v : Stack) : (s.setStack n v).caps = s.caps := rfl
@[simp] theorem State.setStack_nextCap (s : State) (n : District) (v : Stack) : (s.setStack n v).nextCap = s.nextCap := rfl
@[simp] theorem State.setStack_faults (s : State) (n : District) (v : Stack) : (s.setStack n v).faults = s.faults := rfl
@[simp] theorem State.setStack_lead (s : State) (n : District) (v : Stack) : (s.setStack n v).lead = s.lead := rfl
@[simp] theorem State.setStack_sec (s : State) (n : District) (v : Stack) : (s.setStack n v).sec = s.sec := rfl
@[simp] theorem State.setStack_board (s : State) (n : District) (v : Stack) : (s.setStack n v).board = s.board := rfl
@[simp] theorem State.setStack_dists (s : State) (n : District) (v : Stack) : (s.setStack n v).dists = s.dists := rfl
@[simp] theorem State.setStack_withdrawn (s : State) (n : District) (v : Stack) : (s.setStack n v).withdrawn = s.withdrawn := rfl
@[simp] theorem State.setStack_spares (s : State) (n : District) (v : Stack) : (s.setStack n v).spares = s.spares := rfl
@[simp] theorem State.setStack_quar (s : State) (n : District) (v : Stack) : (s.setStack n v).quar = s.quar := rfl
@[simp] theorem State.setStack_selfFail (s : State) (n : District) (v : Stack) : (s.setStack n v).selfFail = s.selfFail := rfl
@[simp] theorem State.setStack_nmt (s : State) (n : District) (v : Stack) : (s.setStack n v).nmt = s.nmt := rfl
@[simp] theorem State.setStack_out (s : State) (n : District) (v : Stack) : (s.setStack n v).out = s.out := rfl
@[simp] theorem State.setStack_free (s : State) (n : District) (v : Stack) : (s.setStack n v).free = s.free := rfl

/-! ## setDist -/

@[simp] theorem State.setDist_pending (s : State) (n : District) (v : Dist) : (s.setDist n v).pending = s.pending := rfl
@[simp] theorem State.setDist_mem (s : State) (n : District) (v : Dist) : (s.setDist n v).mem = s.mem := rfl
@[simp] theorem State.setDist_cores (s : State) (n : District) (v : Dist) : (s.setDist n v).cores = s.cores := rfl
@[simp] theorem State.setDist_objs (s : State) (n : District) (v : Dist) : (s.setDist n v).objs = s.objs := rfl
@[simp] theorem State.setDist_parts (s : State) (n : District) (v : Dist) : (s.setDist n v).parts = s.parts := rfl
@[simp] theorem State.setDist_dict (s : State) (n : District) (v : Dist) : (s.setDist n v).dict = s.dict := rfl
@[simp] theorem State.setDist_dictForce (s : State) (n : District) (v : Dist) : (s.setDist n v).dictForce = s.dictForce := rfl
@[simp] theorem State.setDist_dictN (s : State) (n : District) (v : Dist) : (s.setDist n v).dictN = s.dictN := rfl
@[simp] theorem State.setDist_ports (s : State) (n : District) (v : Dist) : (s.setDist n v).ports = s.ports := rfl
@[simp] theorem State.setDist_reqs (s : State) (n : District) (v : Dist) : (s.setDist n v).reqs = s.reqs := rfl
@[simp] theorem State.setDist_nextTag (s : State) (n : District) (v : Dist) : (s.setDist n v).nextTag = s.nextTag := rfl
@[simp] theorem State.setDist_spray (s : State) (n : District) (v : Dist) : (s.setDist n v).spray = s.spray := rfl
@[simp] theorem State.setDist_stackSts (s : State) (n : District) (v : Dist) : (s.setDist n v).stackSts = s.stackSts := rfl
@[simp] theorem State.setDist_mcl (s : State) (n : District) (v : Dist) : (s.setDist n v).mcl = s.mcl := rfl
@[simp] theorem State.setDist_caps (s : State) (n : District) (v : Dist) : (s.setDist n v).caps = s.caps := rfl
@[simp] theorem State.setDist_nextCap (s : State) (n : District) (v : Dist) : (s.setDist n v).nextCap = s.nextCap := rfl
@[simp] theorem State.setDist_faults (s : State) (n : District) (v : Dist) : (s.setDist n v).faults = s.faults := rfl
@[simp] theorem State.setDist_lead (s : State) (n : District) (v : Dist) : (s.setDist n v).lead = s.lead := rfl
@[simp] theorem State.setDist_sec (s : State) (n : District) (v : Dist) : (s.setDist n v).sec = s.sec := rfl
@[simp] theorem State.setDist_board (s : State) (n : District) (v : Dist) : (s.setDist n v).board = s.board := rfl
@[simp] theorem State.setDist_withdrawn (s : State) (n : District) (v : Dist) : (s.setDist n v).withdrawn = s.withdrawn := rfl
@[simp] theorem State.setDist_spares (s : State) (n : District) (v : Dist) : (s.setDist n v).spares = s.spares := rfl
@[simp] theorem State.setDist_quar (s : State) (n : District) (v : Dist) : (s.setDist n v).quar = s.quar := rfl
@[simp] theorem State.setDist_selfFail (s : State) (n : District) (v : Dist) : (s.setDist n v).selfFail = s.selfFail := rfl
@[simp] theorem State.setDist_nmt (s : State) (n : District) (v : Dist) : (s.setDist n v).nmt = s.nmt := rfl
@[simp] theorem State.setDist_out (s : State) (n : District) (v : Dist) : (s.setDist n v).out = s.out := rfl
@[simp] theorem State.setDist_free (s : State) (n : District) (v : Dist) : (s.setDist n v).free = s.free := rfl

/-! ## emit -/

@[simp] theorem State.emit_pending (s : State) (o : Out) : (s.emit o).pending = s.pending := rfl
@[simp] theorem State.emit_mem (s : State) (o : Out) : (s.emit o).mem = s.mem := rfl
@[simp] theorem State.emit_cores (s : State) (o : Out) : (s.emit o).cores = s.cores := rfl
@[simp] theorem State.emit_objs (s : State) (o : Out) : (s.emit o).objs = s.objs := rfl
@[simp] theorem State.emit_parts (s : State) (o : Out) : (s.emit o).parts = s.parts := rfl
@[simp] theorem State.emit_dict (s : State) (o : Out) : (s.emit o).dict = s.dict := rfl
@[simp] theorem State.emit_dictForce (s : State) (o : Out) : (s.emit o).dictForce = s.dictForce := rfl
@[simp] theorem State.emit_dictN (s : State) (o : Out) : (s.emit o).dictN = s.dictN := rfl
@[simp] theorem State.emit_ports (s : State) (o : Out) : (s.emit o).ports = s.ports := rfl
@[simp] theorem State.emit_reqs (s : State) (o : Out) : (s.emit o).reqs = s.reqs := rfl
@[simp] theorem State.emit_nextTag (s : State) (o : Out) : (s.emit o).nextTag = s.nextTag := rfl
@[simp] theorem State.emit_spray (s : State) (o : Out) : (s.emit o).spray = s.spray := rfl
@[simp] theorem State.emit_stackSts (s : State) (o : Out) : (s.emit o).stackSts = s.stackSts := rfl
@[simp] theorem State.emit_mcl (s : State) (o : Out) : (s.emit o).mcl = s.mcl := rfl
@[simp] theorem State.emit_caps (s : State) (o : Out) : (s.emit o).caps = s.caps := rfl
@[simp] theorem State.emit_nextCap (s : State) (o : Out) : (s.emit o).nextCap = s.nextCap := rfl
@[simp] theorem State.emit_faults (s : State) (o : Out) : (s.emit o).faults = s.faults := rfl
@[simp] theorem State.emit_lead (s : State) (o : Out) : (s.emit o).lead = s.lead := rfl
@[simp] theorem State.emit_sec (s : State) (o : Out) : (s.emit o).sec = s.sec := rfl
@[simp] theorem State.emit_board (s : State) (o : Out) : (s.emit o).board = s.board := rfl
@[simp] theorem State.emit_dists (s : State) (o : Out) : (s.emit o).dists = s.dists := rfl
@[simp] theorem State.emit_withdrawn (s : State) (o : Out) : (s.emit o).withdrawn = s.withdrawn := rfl
@[simp] theorem State.emit_spares (s : State) (o : Out) : (s.emit o).spares = s.spares := rfl
@[simp] theorem State.emit_quar (s : State) (o : Out) : (s.emit o).quar = s.quar := rfl
@[simp] theorem State.emit_selfFail (s : State) (o : Out) : (s.emit o).selfFail = s.selfFail := rfl
@[simp] theorem State.emit_nmt (s : State) (o : Out) : (s.emit o).nmt = s.nmt := rfl
@[simp] theorem State.emit_free (s : State) (o : Out) : (s.emit o).free = s.free := rfl

/-! ## setD -/

@[simp] theorem State.setD_pending (s : State) (k : Nat) (v : W64) : (s.setD k v).pending = s.pending := rfl
@[simp] theorem State.setD_mem (s : State) (k : Nat) (v : W64) : (s.setD k v).mem = s.mem := rfl
@[simp] theorem State.setD_cores (s : State) (k : Nat) (v : W64) : (s.setD k v).cores = s.cores := rfl
@[simp] theorem State.setD_objs (s : State) (k : Nat) (v : W64) : (s.setD k v).objs = s.objs := rfl
@[simp] theorem State.setD_parts (s : State) (k : Nat) (v : W64) : (s.setD k v).parts = s.parts := rfl
@[simp] theorem State.setD_dictForce (s : State) (k : Nat) (v : W64) : (s.setD k v).dictForce = s.dictForce := rfl
@[simp] theorem State.setD_dictN (s : State) (k : Nat) (v : W64) : (s.setD k v).dictN = s.dictN := rfl
@[simp] theorem State.setD_ports (s : State) (k : Nat) (v : W64) : (s.setD k v).ports = s.ports := rfl
@[simp] theorem State.setD_reqs (s : State) (k : Nat) (v : W64) : (s.setD k v).reqs = s.reqs := rfl
@[simp] theorem State.setD_nextTag (s : State) (k : Nat) (v : W64) : (s.setD k v).nextTag = s.nextTag := rfl
@[simp] theorem State.setD_spray (s : State) (k : Nat) (v : W64) : (s.setD k v).spray = s.spray := rfl
@[simp] theorem State.setD_stackSts (s : State) (k : Nat) (v : W64) : (s.setD k v).stackSts = s.stackSts := rfl
@[simp] theorem State.setD_mcl (s : State) (k : Nat) (v : W64) : (s.setD k v).mcl = s.mcl := rfl
@[simp] theorem State.setD_caps (s : State) (k : Nat) (v : W64) : (s.setD k v).caps = s.caps := rfl
@[simp] theorem State.setD_nextCap (s : State) (k : Nat) (v : W64) : (s.setD k v).nextCap = s.nextCap := rfl
@[simp] theorem State.setD_faults (s : State) (k : Nat) (v : W64) : (s.setD k v).faults = s.faults := rfl
@[simp] theorem State.setD_lead (s : State) (k : Nat) (v : W64) : (s.setD k v).lead = s.lead := rfl
@[simp] theorem State.setD_sec (s : State) (k : Nat) (v : W64) : (s.setD k v).sec = s.sec := rfl
@[simp] theorem State.setD_board (s : State) (k : Nat) (v : W64) : (s.setD k v).board = s.board := rfl
@[simp] theorem State.setD_dists (s : State) (k : Nat) (v : W64) : (s.setD k v).dists = s.dists := rfl
@[simp] theorem State.setD_withdrawn (s : State) (k : Nat) (v : W64) : (s.setD k v).withdrawn = s.withdrawn := rfl
@[simp] theorem State.setD_spares (s : State) (k : Nat) (v : W64) : (s.setD k v).spares = s.spares := rfl
@[simp] theorem State.setD_quar (s : State) (k : Nat) (v : W64) : (s.setD k v).quar = s.quar := rfl
@[simp] theorem State.setD_selfFail (s : State) (k : Nat) (v : W64) : (s.setD k v).selfFail = s.selfFail := rfl
@[simp] theorem State.setD_nmt (s : State) (k : Nat) (v : W64) : (s.setD k v).nmt = s.nmt := rfl
@[simp] theorem State.setD_out (s : State) (k : Nat) (v : W64) : (s.setD k v).out = s.out := rfl
@[simp] theorem State.setD_free (s : State) (k : Nat) (v : W64) : (s.setD k v).free = s.free := rfl

/-! ## setDf -/

@[simp] theorem State.setDf_pending (s : State) (k : Nat) (v : W64) : (s.setDf k v).pending = s.pending := rfl
@[simp] theorem State.setDf_mem (s : State) (k : Nat) (v : W64) : (s.setDf k v).mem = s.mem := rfl
@[simp] theorem State.setDf_cores (s : State) (k : Nat) (v : W64) : (s.setDf k v).cores = s.cores := rfl
@[simp] theorem State.setDf_objs (s : State) (k : Nat) (v : W64) : (s.setDf k v).objs = s.objs := rfl
@[simp] theorem State.setDf_parts (s : State) (k : Nat) (v : W64) : (s.setDf k v).parts = s.parts := rfl
@[simp] theorem State.setDf_dict (s : State) (k : Nat) (v : W64) : (s.setDf k v).dict = s.dict := rfl
@[simp] theorem State.setDf_dictN (s : State) (k : Nat) (v : W64) : (s.setDf k v).dictN = s.dictN := rfl
@[simp] theorem State.setDf_ports (s : State) (k : Nat) (v : W64) : (s.setDf k v).ports = s.ports := rfl
@[simp] theorem State.setDf_reqs (s : State) (k : Nat) (v : W64) : (s.setDf k v).reqs = s.reqs := rfl
@[simp] theorem State.setDf_nextTag (s : State) (k : Nat) (v : W64) : (s.setDf k v).nextTag = s.nextTag := rfl
@[simp] theorem State.setDf_spray (s : State) (k : Nat) (v : W64) : (s.setDf k v).spray = s.spray := rfl
@[simp] theorem State.setDf_stackSts (s : State) (k : Nat) (v : W64) : (s.setDf k v).stackSts = s.stackSts := rfl
@[simp] theorem State.setDf_mcl (s : State) (k : Nat) (v : W64) : (s.setDf k v).mcl = s.mcl := rfl
@[simp] theorem State.setDf_caps (s : State) (k : Nat) (v : W64) : (s.setDf k v).caps = s.caps := rfl
@[simp] theorem State.setDf_nextCap (s : State) (k : Nat) (v : W64) : (s.setDf k v).nextCap = s.nextCap := rfl
@[simp] theorem State.setDf_faults (s : State) (k : Nat) (v : W64) : (s.setDf k v).faults = s.faults := rfl
@[simp] theorem State.setDf_lead (s : State) (k : Nat) (v : W64) : (s.setDf k v).lead = s.lead := rfl
@[simp] theorem State.setDf_sec (s : State) (k : Nat) (v : W64) : (s.setDf k v).sec = s.sec := rfl
@[simp] theorem State.setDf_board (s : State) (k : Nat) (v : W64) : (s.setDf k v).board = s.board := rfl
@[simp] theorem State.setDf_dists (s : State) (k : Nat) (v : W64) : (s.setDf k v).dists = s.dists := rfl
@[simp] theorem State.setDf_withdrawn (s : State) (k : Nat) (v : W64) : (s.setDf k v).withdrawn = s.withdrawn := rfl
@[simp] theorem State.setDf_spares (s : State) (k : Nat) (v : W64) : (s.setDf k v).spares = s.spares := rfl
@[simp] theorem State.setDf_quar (s : State) (k : Nat) (v : W64) : (s.setDf k v).quar = s.quar := rfl
@[simp] theorem State.setDf_selfFail (s : State) (k : Nat) (v : W64) : (s.setDf k v).selfFail = s.selfFail := rfl
@[simp] theorem State.setDf_nmt (s : State) (k : Nat) (v : W64) : (s.setDf k v).nmt = s.nmt := rfl
@[simp] theorem State.setDf_out (s : State) (k : Nat) (v : W64) : (s.setDf k v).out = s.out := rfl
@[simp] theorem State.setDf_free (s : State) (k : Nat) (v : W64) : (s.setDf k v).free = s.free := rfl

/-! ## setCrit -/

@[simp] theorem State.setCrit_pending (s : State) (k : Nat) (v : W64) : (s.setCrit k v).pending = s.pending := rfl
@[simp] theorem State.setCrit_mem (s : State) (k : Nat) (v : W64) : (s.setCrit k v).mem = s.mem := rfl
@[simp] theorem State.setCrit_cores (s : State) (k : Nat) (v : W64) : (s.setCrit k v).cores = s.cores := rfl
@[simp] theorem State.setCrit_objs (s : State) (k : Nat) (v : W64) : (s.setCrit k v).objs = s.objs := rfl
@[simp] theorem State.setCrit_parts (s : State) (k : Nat) (v : W64) : (s.setCrit k v).parts = s.parts := rfl
@[simp] theorem State.setCrit_dictForce (s : State) (k : Nat) (v : W64) : (s.setCrit k v).dictForce = s.dictForce := rfl
@[simp] theorem State.setCrit_ports (s : State) (k : Nat) (v : W64) : (s.setCrit k v).ports = s.ports := rfl
@[simp] theorem State.setCrit_reqs (s : State) (k : Nat) (v : W64) : (s.setCrit k v).reqs = s.reqs := rfl
@[simp] theorem State.setCrit_nextTag (s : State) (k : Nat) (v : W64) : (s.setCrit k v).nextTag = s.nextTag := rfl
@[simp] theorem State.setCrit_spray (s : State) (k : Nat) (v : W64) : (s.setCrit k v).spray = s.spray := rfl
@[simp] theorem State.setCrit_stackSts (s : State) (k : Nat) (v : W64) : (s.setCrit k v).stackSts = s.stackSts := rfl
@[simp] theorem State.setCrit_mcl (s : State) (k : Nat) (v : W64) : (s.setCrit k v).mcl = s.mcl := rfl
@[simp] theorem State.setCrit_caps (s : State) (k : Nat) (v : W64) : (s.setCrit k v).caps = s.caps := rfl
@[simp] theorem State.setCrit_nextCap (s : State) (k : Nat) (v : W64) : (s.setCrit k v).nextCap = s.nextCap := rfl
@[simp] theorem State.setCrit_faults (s : State) (k : Nat) (v : W64) : (s.setCrit k v).faults = s.faults := rfl
@[simp] theorem State.setCrit_lead (s : State) (k : Nat) (v : W64) : (s.setCrit k v).lead = s.lead := rfl
@[simp] theorem State.setCrit_sec (s : State) (k : Nat) (v : W64) : (s.setCrit k v).sec = s.sec := rfl
@[simp] theorem State.setCrit_board (s : State) (k : Nat) (v : W64) : (s.setCrit k v).board = s.board := rfl
@[simp] theorem State.setCrit_dists (s : State) (k : Nat) (v : W64) : (s.setCrit k v).dists = s.dists := rfl
@[simp] theorem State.setCrit_withdrawn (s : State) (k : Nat) (v : W64) : (s.setCrit k v).withdrawn = s.withdrawn := rfl
@[simp] theorem State.setCrit_spares (s : State) (k : Nat) (v : W64) : (s.setCrit k v).spares = s.spares := rfl
@[simp] theorem State.setCrit_quar (s : State) (k : Nat) (v : W64) : (s.setCrit k v).quar = s.quar := rfl
@[simp] theorem State.setCrit_selfFail (s : State) (k : Nat) (v : W64) : (s.setCrit k v).selfFail = s.selfFail := rfl
@[simp] theorem State.setCrit_nmt (s : State) (k : Nat) (v : W64) : (s.setCrit k v).nmt = s.nmt := rfl
@[simp] theorem State.setCrit_out (s : State) (k : Nat) (v : W64) : (s.setCrit k v).out = s.out := rfl
@[simp] theorem State.setCrit_free (s : State) (k : Nat) (v : W64) : (s.setCrit k v).free = s.free := rfl

/-! ## setReq -/

@[simp] theorem State.setReq_pending (s : State) (k : Nat) (r : Option Req) : (s.setReq k r).pending = s.pending := rfl
@[simp] theorem State.setReq_mem (s : State) (k : Nat) (r : Option Req) : (s.setReq k r).mem = s.mem := rfl
@[simp] theorem State.setReq_cores (s : State) (k : Nat) (r : Option Req) : (s.setReq k r).cores = s.cores := rfl
@[simp] theorem State.setReq_objs (s : State) (k : Nat) (r : Option Req) : (s.setReq k r).objs = s.objs := rfl
@[simp] theorem State.setReq_parts (s : State) (k : Nat) (r : Option Req) : (s.setReq k r).parts = s.parts := rfl
@[simp] theorem State.setReq_dict (s : State) (k : Nat) (r : Option Req) : (s.setReq k r).dict = s.dict := rfl
@[simp] theorem State.setReq_dictForce (s : State) (k : Nat) (r : Option Req) : (s.setReq k r).dictForce = s.dictForce := rfl
@[simp] theorem State.setReq_dictN (s : State) (k : Nat) (r : Option Req) : (s.setReq k r).dictN = s.dictN := rfl
@[simp] theorem State.setReq_ports (s : State) (k : Nat) (r : Option Req) : (s.setReq k r).ports = s.ports := rfl
@[simp] theorem State.setReq_nextTag (s : State) (k : Nat) (r : Option Req) : (s.setReq k r).nextTag = s.nextTag := rfl
@[simp] theorem State.setReq_spray (s : State) (k : Nat) (r : Option Req) : (s.setReq k r).spray = s.spray := rfl
@[simp] theorem State.setReq_stackSts (s : State) (k : Nat) (r : Option Req) : (s.setReq k r).stackSts = s.stackSts := rfl
@[simp] theorem State.setReq_mcl (s : State) (k : Nat) (r : Option Req) : (s.setReq k r).mcl = s.mcl := rfl
@[simp] theorem State.setReq_caps (s : State) (k : Nat) (r : Option Req) : (s.setReq k r).caps = s.caps := rfl
@[simp] theorem State.setReq_nextCap (s : State) (k : Nat) (r : Option Req) : (s.setReq k r).nextCap = s.nextCap := rfl
@[simp] theorem State.setReq_faults (s : State) (k : Nat) (r : Option Req) : (s.setReq k r).faults = s.faults := rfl
@[simp] theorem State.setReq_lead (s : State) (k : Nat) (r : Option Req) : (s.setReq k r).lead = s.lead := rfl
@[simp] theorem State.setReq_sec (s : State) (k : Nat) (r : Option Req) : (s.setReq k r).sec = s.sec := rfl
@[simp] theorem State.setReq_board (s : State) (k : Nat) (r : Option Req) : (s.setReq k r).board = s.board := rfl
@[simp] theorem State.setReq_dists (s : State) (k : Nat) (r : Option Req) : (s.setReq k r).dists = s.dists := rfl
@[simp] theorem State.setReq_withdrawn (s : State) (k : Nat) (r : Option Req) : (s.setReq k r).withdrawn = s.withdrawn := rfl
@[simp] theorem State.setReq_spares (s : State) (k : Nat) (r : Option Req) : (s.setReq k r).spares = s.spares := rfl
@[simp] theorem State.setReq_quar (s : State) (k : Nat) (r : Option Req) : (s.setReq k r).quar = s.quar := rfl
@[simp] theorem State.setReq_selfFail (s : State) (k : Nat) (r : Option Req) : (s.setReq k r).selfFail = s.selfFail := rfl
@[simp] theorem State.setReq_nmt (s : State) (k : Nat) (r : Option Req) : (s.setReq k r).nmt = s.nmt := rfl
@[simp] theorem State.setReq_out (s : State) (k : Nat) (r : Option Req) : (s.setReq k r).out = s.out := rfl
@[simp] theorem State.setReq_free (s : State) (k : Nat) (r : Option Req) : (s.setReq k r).free = s.free := rfl

/-! ## modBoard -/

@[simp] theorem State.modBoard_pending (s : State) (f : Board → Board) : (s.modBoard f).pending = s.pending := rfl
@[simp] theorem State.modBoard_mem (s : State) (f : Board → Board) : (s.modBoard f).mem = s.mem := rfl
@[simp] theorem State.modBoard_cores (s : State) (f : Board → Board) : (s.modBoard f).cores = s.cores := rfl
@[simp] theorem State.modBoard_objs (s : State) (f : Board → Board) : (s.modBoard f).objs = s.objs := rfl
@[simp] theorem State.modBoard_parts (s : State) (f : Board → Board) : (s.modBoard f).parts = s.parts := rfl
@[simp] theorem State.modBoard_dict (s : State) (f : Board → Board) : (s.modBoard f).dict = s.dict := rfl
@[simp] theorem State.modBoard_dictForce (s : State) (f : Board → Board) : (s.modBoard f).dictForce = s.dictForce := rfl
@[simp] theorem State.modBoard_dictN (s : State) (f : Board → Board) : (s.modBoard f).dictN = s.dictN := rfl
@[simp] theorem State.modBoard_ports (s : State) (f : Board → Board) : (s.modBoard f).ports = s.ports := rfl
@[simp] theorem State.modBoard_reqs (s : State) (f : Board → Board) : (s.modBoard f).reqs = s.reqs := rfl
@[simp] theorem State.modBoard_nextTag (s : State) (f : Board → Board) : (s.modBoard f).nextTag = s.nextTag := rfl
@[simp] theorem State.modBoard_spray (s : State) (f : Board → Board) : (s.modBoard f).spray = s.spray := rfl
@[simp] theorem State.modBoard_stackSts (s : State) (f : Board → Board) : (s.modBoard f).stackSts = s.stackSts := rfl
@[simp] theorem State.modBoard_mcl (s : State) (f : Board → Board) : (s.modBoard f).mcl = s.mcl := rfl
@[simp] theorem State.modBoard_caps (s : State) (f : Board → Board) : (s.modBoard f).caps = s.caps := rfl
@[simp] theorem State.modBoard_nextCap (s : State) (f : Board → Board) : (s.modBoard f).nextCap = s.nextCap := rfl
@[simp] theorem State.modBoard_faults (s : State) (f : Board → Board) : (s.modBoard f).faults = s.faults := rfl
@[simp] theorem State.modBoard_lead (s : State) (f : Board → Board) : (s.modBoard f).lead = s.lead := rfl
@[simp] theorem State.modBoard_sec (s : State) (f : Board → Board) : (s.modBoard f).sec = s.sec := rfl
@[simp] theorem State.modBoard_dists (s : State) (f : Board → Board) : (s.modBoard f).dists = s.dists := rfl
@[simp] theorem State.modBoard_withdrawn (s : State) (f : Board → Board) : (s.modBoard f).withdrawn = s.withdrawn := rfl
@[simp] theorem State.modBoard_spares (s : State) (f : Board → Board) : (s.modBoard f).spares = s.spares := rfl
@[simp] theorem State.modBoard_quar (s : State) (f : Board → Board) : (s.modBoard f).quar = s.quar := rfl
@[simp] theorem State.modBoard_selfFail (s : State) (f : Board → Board) : (s.modBoard f).selfFail = s.selfFail := rfl
@[simp] theorem State.modBoard_nmt (s : State) (f : Board → Board) : (s.modBoard f).nmt = s.nmt := rfl
@[simp] theorem State.modBoard_out (s : State) (f : Board → Board) : (s.modBoard f).out = s.out := rfl
@[simp] theorem State.modBoard_free (s : State) (f : Board → Board) : (s.modBoard f).free = s.free := rfl

/-! ## What is read back -/

@[simp] theorem State.core_setCore (s : State) (c : CoreId) (k : Core) : (s.setCore c k).core c = k := SMap.get_set_self _ _ _ _
theorem State.core_setCore_ne (s : State) (c e : CoreId) (k : Core) (h : e ≠ c) : (s.setCore c k).core e = s.core e :=
  SMap.get_set_ne _ _ _ _ _ (fun q => h (Fin.ext q))
@[simp] theorem State.part_setPart (s : State) (p : PartId) (v : Part) : (s.setPart p v).part p = v := SMap.get_set_self _ _ _ _
theorem State.part_setPart_ne (s : State) (p q : PartId) (v : Part) (h : q ≠ p) : (s.setPart p v).part q = s.part q :=
  SMap.get_set_ne _ _ _ _ _ (fun e => h (Fin.ext e))
@[simp] theorem State.portSt_setPort (s : State) (n : PortId) (v : Port) : (s.setPort n v).portSt n = v := SMap.get_set_self _ _ _ _
theorem State.portSt_setPort_ne (s : State) (n m : PortId) (v : Port) (h : m ≠ n) : (s.setPort n v).portSt m = s.portSt m :=
  SMap.get_set_ne _ _ _ _ _ (fun e => h (Fin.ext e))
@[simp] theorem State.stack_setStack (s : State) (n : District) (v : Stack) : (s.setStack n v).stack n = v := SMap.get_set_self _ _ _ _
@[simp] theorem State.dist_setDist (s : State) (n : District) (v : Dist) : (s.setDist n v).dist n = v := SMap.get_set_self _ _ _ _
@[simp] theorem State.obj_setObj (s : State) (c : CoreId) (k : Nat) (o : Obj) : (s.setObj c k o).obj c k = o := SMap.get_set_self _ _ _ _
theorem State.obj_setObj_ne (s : State) (c e : CoreId) (k n : Nat) (o : Obj) (h : e.val * 4096 + n ≠ c.val * 4096 + k) :
    (s.setObj c k o).obj e n = s.obj e n := SMap.get_set_ne _ _ _ _ _ h

theorem State.d_setD (s : State) (k : Nat) (v : W64) : (s.setD k v).d k = BitVec.ofNat 64 (v.toNat % 2 ^ keyWidth k) :=
  SMap.get_set_self _ _ _ _
theorem State.d_setD_ne (s : State) (k e : Nat) (v : W64) (h : e ≠ k) : (s.setD k v).d e = s.d e := SMap.get_set_ne _ _ _ _ _ h
@[simp] theorem State.df_setDf (s : State) (k : Nat) (v : W64) : (s.setDf k v).df k = v := SMap.get_set_self _ _ _ _

/-- A crit entry written through its one operation agrees with its complement (R325). -/
theorem State.critOk_setCrit (s : State) (k : Nat) (v : W64) : (s.setCrit k v).critOk k = true := by
  simp [State.critOk, State.dNot, State.d, State.setCrit, SMap.get_set_self]

@[simp] theorem Core.ctx_setCtx (k : Core) (x : CtxId) (v : Ctx) : (k.setCtx x v).ctx x = v := by cases x <;> rfl
theorem Core.ctx_setCtx_ne (k : Core) (x y : CtxId) (v : Ctx) (h : y ≠ x) : (k.setCtx x v).ctx y = k.ctx y := by
  cases x <;> cases y <;> first | rfl | exact absurd rfl h
@[simp] theorem Core.stream_setStream (k : Core) (x : StreamId) (v : Stream) : (k.setStream x v).stream x = v := by cases x <;> rfl
theorem Core.stream_setStream_ne (k : Core) (x y : StreamId) (v : Stream) (h : y ≠ x) : (k.setStream x v).stream y = k.stream y := by
  cases x <;> cases y <;> first | rfl | exact absurd rfl h
@[simp] theorem Core.stream_setCtx (k : Core) (x : CtxId) (v : Ctx) (t : StreamId) : (k.setCtx x v).stream t = k.stream t := by
  cases x <;> cases t <;> rfl
@[simp] theorem Core.ctx_setStream (k : Core) (x : StreamId) (v : Stream) (t : CtxId) : (k.setStream x v).ctx t = k.ctx t := by
  cases x <;> cases t <;> rfl

@[simp] theorem State.ctx_modCtx (s : State) (c : CoreId) (x : CtxId) (f : Ctx → Ctx) : (s.modCtx c x f).ctx c x = f (s.ctx c x) := by
  simp [State.modCtx, State.setCtx, State.modCore, State.ctx]
@[simp] theorem State.stream_modStream (s : State) (c : CoreId) (x : StreamId) (f : Stream → Stream) :
    (s.modStream c x f).stream c x = f (s.stream c x) := by
  simp [State.modStream, State.modCore, State.stream]
@[simp] theorem State.stream_modCtx (s : State) (c : CoreId) (x : CtxId) (f : Ctx → Ctx) (t : StreamId) :
    (s.modCtx c x f).stream c t = s.stream c t := by
  simp [State.modCtx, State.setCtx, State.modCore, State.stream]
@[simp] theorem State.ctx_modStream (s : State) (c : CoreId) (x : StreamId) (f : Stream → Stream) (t : CtxId) :
    (s.modStream c x f).ctx c t = s.ctx c t := by
  simp [State.modStream, State.modCore, State.ctx]

end Sys2Proof.Machine
end

