-- ==== Sys2Proof/Laws/Issue.lean ====
section
/-!
SUPPORT. What issuing a command does, said once: the dispatch of a ready command, its job, what `issue` and completing a command leave
as it was.
-/
namespace Sys2Proof.Machine

/-! ## Reading back updates of a core -/

@[simp] theorem State.core_modCore (s : State) (c : CoreId) (f : Core → Core) : (s.modCore c f).core c = f (s.core c) := State.core_setCore ..
@[simp] theorem State.ctx_modCore (s : State) (c : CoreId) (f : Core → Core) (x : CtxId) : (s.modCore c f).ctx c x = (f (s.core c)).ctx x := by
  simp [State.ctx]
@[simp] theorem State.stream_modCore (s : State) (c : CoreId) (f : Core → Core) (x : StreamId) :
    (s.modCore c f).stream c x = (f (s.core c)).stream x := by simp [State.stream]
@[simp] theorem State.core_modCtx (s : State) (c : CoreId) (x : CtxId) (f : Ctx → Ctx) :
    (s.modCtx c x f).core c = (s.core c).setCtx x (f (s.ctx c x)) := by simp [State.modCtx, State.setCtx]
@[simp] theorem State.core_modStream (s : State) (c : CoreId) (x : StreamId) (f : Stream → Stream) :
    (s.modStream c x f).core c = (s.core c).setStream x (f (s.stream c x)) := by simp [State.modStream, State.stream]

/-! ## Only one core -/

theorem State.OnlyCore.refl (s : State) (c : CoreId) : s.OnlyCore s c := ⟨rfl, fun _ _ => rfl⟩

theorem State.OnlyCore.trans {s t u : State} {c : CoreId} (a : s.OnlyCore t c) (b : t.OnlyCore u c) : s.OnlyCore u c := by
  refine ⟨?_, fun d h => (b.cores d h).trans (a.cores d h)⟩
  have h1 := a.rest
  have h2 := b.rest
  cases s; cases t; cases u
  simp_all [State.mk.injEq]

theorem State.onlyCore_modCore (s : State) (c : CoreId) (f : Core → Core) : s.OnlyCore (s.modCore c f) c :=
  ⟨rfl, fun d h => State.core_setCore_ne s c d _ h⟩

theorem State.onlyCore_modCtx (s : State) (c : CoreId) (x : CtxId) (f : Ctx → Ctx) : s.OnlyCore (s.modCtx c x f) c := by
  unfold State.modCtx State.setCtx
  exact State.onlyCore_modCore s c _

theorem State.onlyCore_modStream (s : State) (c : CoreId) (x : StreamId) (f : Stream → Stream) : s.OnlyCore (s.modStream c x f) c := by
  unfold State.modStream
  exact State.onlyCore_modCore s c _

/-! ## Issue -/

/-- A ready command whose opcode is that of its row issues, has its effect, and what waited for it completes. -/
theorem State.dispatch_go {s : State} {sl : Slot} {w : W256} {op : Nat} (h : s.Issues sl w op) (f : Issued → State → State) :
    s.dispatch sl w op f = .next ((f (s.issue sl w).2 (s.issue sl w).1).fetchHead sl).settle := by
  have h3 : ¬((s.issue sl w).2.ctx = .filler ∧ primaryOnly w = true) := h.own
  unfold State.dispatch
  rw [if_neg (fun a => a.1 h.op), h.go]
  simp only [h.op, ne_eq, not_true_eq_false, ite_false, if_neg h3]

/-- A command that is not ready, or that its source does not offer, leaves everything as it is. -/
theorem State.dispatch_wait {s : State} {sl : Slot} {w : W256} {op : Nat} (hr : s.ready sl w ≠ .go) (f : Issued → State → State) :
    s.dispatch sl w op f = .next s := by
  unfold State.dispatch
  split
  · rfl
  split
  · rfl
  · rfl
  · contradiction

theorem State.find_new (l : List Job) (j : Job) :
    (l.filter (fun i => decide (i.id ≠ j.id)) ++ [j]).find? (fun i => i.id == j.id) = some j := by
  rw [List.find?_append, List.find?_eq_none.2]
  · simp
  · intro a h
    simp at h ⊢
    exact h.2

@[simp] theorem State.newJob_id (s : State) (sl : Slot) (w : W256) : (s.newJob sl w).id = (s.taken sl w).id := rfl
@[simp] theorem State.issue_core (s : State) (sl : Slot) (w : W256) : (s.issue sl w).2.core = sl.core := rfl
@[simp] theorem State.issue_ctx (s : State) (sl : Slot) (w : W256) : (s.issue sl w).2.ctx = srcCtx sl.src := rfl
@[simp] theorem State.issue_src (s : State) (sl : Slot) (w : W256) : (s.issue sl w).2.src = sl.src := rfl
@[simp] theorem State.issue_id (s : State) (sl : Slot) (w : W256) : (s.issue sl w).2.id = (s.taken sl w).id := rfl
@[simp] theorem State.issue_step (s : State) (sl : Slot) (w : W256) : (s.issue sl w).2.step = (s.ctx sl.core (srcCtx sl.src)).step := rfl
@[simp] theorem State.issue_doff (s : State) (sl : Slot) (w : W256) : (s.issue sl w).2.doff = (s.taken sl w).doff := rfl
@[simp] theorem State.issue_slot (s : State) (sl : Slot) (w : W256) : (s.issue sl w).2.slot = (s.taken sl w).slot := rfl

theorem State.issue_fst (s : State) (sl : Slot) (w : W256) :
    (s.issue sl w).1 = (s.pass sl).modCtx sl.core (srcCtx sl.src) (fun k => { k with
      issued := k.issued + 1
      rsvcnt := if rsvSet w then k.rsvcnt + 1 else k.rsvcnt
      jobs := k.jobs.filter (fun i => i.id ≠ (s.taken sl w).id) ++ [s.newJob sl w] }) := rfl

/-- The command that has issued is in progress. -/
theorem State.issue_job (s : State) (sl : Slot) (w : W256) :
    (s.issue sl w).1.job sl.core (srcCtx sl.src) (s.taken sl w).id = some (s.newJob sl w) := by
  unfold State.issue State.job
  rw [State.ctx_modCtx]
  exact State.find_new _ (s.newJob sl w)

theorem State.endQuiet_only (s : State) (sl : Slot) : s.OnlyCore (s.endQuiet sl) sl.core := by
  unfold State.endQuiet
  split
  · exact State.onlyCore_modCore ..
  · exact State.OnlyCore.refl ..

@[simp] theorem State.endQuiet_ctx (s : State) (sl : Slot) (x : CtxId) : (s.endQuiet sl).ctx sl.core x = s.ctx sl.core x := by
  unfold State.endQuiet
  split
  · rw [State.ctx_modCore]
    cases x <;> rfl
  · rfl

@[simp] theorem State.endQuiet_stream (s : State) (sl : Slot) (x : StreamId) : (s.endQuiet sl).stream sl.core x = s.stream sl.core x := by
  unfold State.endQuiet
  split
  · rw [State.stream_modCore]
    cases x <;> rfl
  · rfl

theorem State.endQuiet_without (s : State) (sl : Slot) : ((s.endQuiet sl).core sl.core).without sl.src = (s.core sl.core).without sl.src := by
  obtain ⟨c, src⟩ := sl
  unfold State.endQuiet
  cases src <;> simp [srcStream, srcCtx, Core.without, Core.setCtx, Core.setStream]

theorem State.pass_only (s : State) (sl : Slot) : s.OnlyCore (s.pass sl) sl.core := by
  unfold State.pass
  refine (s.endQuiet_only sl).trans ?_
  dsimp only
  split
  · exact (State.onlyCore_modStream ..).trans (State.onlyCore_modCtx ..)
  · exact State.onlyCore_modCore ..

theorem State.pass_ctx (s : State) (sl : Slot) : (s.pass sl).ctx sl.core (srcCtx sl.src) =
    { s.ctx sl.core (srcCtx sl.src) with nextId := (s.ctx sl.core (srcCtx sl.src)).nextId + (if sl.src = .dq then 0 else 1) } := by
  rw [← s.endQuiet_ctx sl]
  unfold State.pass
  generalize s.endQuiet sl = u
  obtain ⟨c, src⟩ := sl
  cases src
  · exact (State.ctx_modCtx ..).trans (by rw [State.ctx_modStream]; rfl)
  · exact (State.ctx_modCtx ..).trans (by rw [State.ctx_modStream]; rfl)
  · exact (State.ctx_modCtx ..).trans (by rw [State.ctx_modStream]; rfl)
  · exact (State.ctx_modCore ..).trans rfl

/-- The context of the command after its issue. -/
theorem State.issue_ctxOf (s : State) (sl : Slot) (w : W256) :
    ((s.issue sl w).1.ctx sl.core (srcCtx sl.src)) =
      { s.ctx sl.core (srcCtx sl.src) with
        nextId := (s.ctx sl.core (srcCtx sl.src)).nextId + (if sl.src = .dq then 0 else 1)
        issued := (s.ctx sl.core (srcCtx sl.src)).issued + 1
        rsvcnt := if rsvSet w then (s.ctx sl.core (srcCtx sl.src)).rsvcnt + 1 else (s.ctx sl.core (srcCtx sl.src)).rsvcnt
        jobs := (s.ctx sl.core (srcCtx sl.src)).jobs.filter (fun i => i.id ≠ (s.taken sl w).id) ++ [s.newJob sl w] } := by
  unfold State.issue
  rw [State.ctx_modCtx, State.pass_ctx]

/-- Issue changes its core alone; in it its context, its stream or the deferred queue. -/
theorem State.issue_took (s : State) (sl : Slot) (w : W256) :
    s.Took (s.issue sl w).1 sl ∧ s.HeadPassed (s.issue sl w).1 sl := by
  refine ⟨⟨?_, ?_, ?_⟩, ?_⟩
  · rw [State.issue_fst]
    exact (s.pass_only sl).trans (State.onlyCore_modCtx ..)
  · rw [← s.endQuiet_without sl]
    unfold State.issue State.pass
    generalize s.endQuiet sl = u
    obtain ⟨c, src⟩ := sl
    cases src <;> simp [srcStream, srcCtx, Core.without, Core.setCtx, Core.setStream]
  · unfold State.cx
    rw [State.issue_ctxOf]
  · intro st h
    rw [← s.endQuiet_stream sl]
    unfold State.issue State.pass
    generalize s.endQuiet sl = u
    obtain ⟨c, src⟩ := sl
    cases src <;> simp [srcStream] at h <;> subst h <;> simp [srcStream, srcCtx, Stream.advance]

/-! ## The descriptor a stream has read ahead -/

/-- Reading an XD's descriptor ahead changes the stream's copy of it alone (R163). -/
theorem State.fetchXd_eq (s : State) (c : CoreId) (st : StreamId) :
    s.fetchXd c st = s ∨ ∃ x, s.fetchXd c st = s.modStream c st (fun t => { t with xd := x }) := by
  unfold State.fetchXd
  dsimp only
  generalize BitVec.ofNat 256 _ = x
  split
  · exact .inr ⟨some x, rfl⟩
  · exact .inl rfl

theorem State.fetchHead_eq (s : State) (sl : Slot) :
    s.fetchHead sl = s ∨ ∃ st x, srcStream sl.src = some st ∧ s.fetchHead sl = s.modStream sl.core st (fun t => { t with xd := x }) := by
  unfold State.fetchHead
  split
  next st e =>
    exact (s.fetchXd_eq sl.core st).imp id (fun ⟨x, q⟩ => ⟨st, x, e, q⟩)
  next => exact .inl rfl

theorem State.fetchHead_only (s : State) (sl : Slot) : s.OnlyCore (s.fetchHead sl) sl.core := by
  obtain e | ⟨st, x, -, e⟩ := s.fetchHead_eq sl <;> rw [e]
  · exact State.OnlyCore.refl ..
  · exact State.onlyCore_modStream ..

@[simp] theorem State.fetchHead_ctx (s : State) (sl : Slot) (d : CoreId) (x : CtxId) : (s.fetchHead sl).ctx d x = s.ctx d x := by
  obtain e | ⟨st, y, -, e⟩ := s.fetchHead_eq sl <;> rw [e]
  by_cases h : d = sl.core
  · subst h
    rw [State.ctx_modStream]
  · unfold State.ctx
    rw [(State.onlyCore_modStream s sl.core st _).cores d h]

@[simp] theorem State.fetchHead_job (s : State) (sl : Slot) (d : CoreId) (x : CtxId) (n : Nat) :
    (s.fetchHead sl).job d x n = s.job d x n := by
  unfold State.job
  rw [State.fetchHead_ctx]

@[simp] theorem State.fetchHead_cx (s : State) (sl t : Slot) : (s.fetchHead sl).cx t = s.cx t := State.fetchHead_ctx ..

theorem State.fetchHead_took {s u : State} {sl : Slot} (h : s.Took u sl) : s.Took (u.fetchHead sl) sl := by
  refine ⟨h.only.trans (State.fetchHead_only ..), ?_, by rw [State.fetchHead_cx]; exact h.issued⟩
  rw [← h.core]
  obtain e | ⟨st, x, q, e⟩ := u.fetchHead_eq sl <;> rw [e]
  rw [State.core_modStream]
  obtain ⟨c, src⟩ := sl
  cases src <;> simp [srcStream] at q <;> subst q <;> rfl

theorem State.fetchHead_passed {s u : State} {sl : Slot} (h : s.HeadPassed u sl) : s.HeadPassed (u.fetchHead sl) sl := by
  intro st q
  obtain e | ⟨st', x, q', e⟩ := u.fetchHead_eq sl <;> rw [e]
  · exact h st q
  · obtain rfl : st = st' := by simpa [q] using q'
    rw [State.stream_modStream, ← h st q]

/-! ## The engines' queue -/

/-- A command that need not wait in its engine's queue starts at its issue (R173). -/
theorem State.enter_go {s : State} {sl : Slot} {w : W256} (h : (s.cx sl).moving (s.taken sl w).id < 16 ∧ (s.cx sl).jobs.any Job.isQueued = false)
    (v : W256) (f : Issued → State → State) : (s.issue sl w).1.enter (s.issue sl w).2 v f = f (s.issue sl w).2 (s.issue sl w).1 := by
  unfold State.enter
  rw [if_neg]
  rw [State.issue_core, State.issue_ctx, State.issue_ctxOf, State.issue_id]
  unfold State.cx Ctx.moving cnt at h
  unfold Ctx.moving cnt
  have hq : (s.newJob sl w).isQueued = false := rfl
  have hf : ((s.ctx sl.core (srcCtx sl.src)).jobs.filter (fun i => decide (i.id ≠ (s.taken sl w).id))).any Job.isQueued = false := by
    rw [List.any_eq_false] at h ⊢
    exact fun j hj => h.2 j (List.mem_filter.1 hj).1
  have hn : ∀ (l : List Job) (p q : Job → Bool), ((l.filter q).filter p).length ≤ (l.filter p).length := fun l p q => by
    rw [List.filter_filter, ← List.countP_eq_length_filter, ← List.countP_eq_length_filter]
    exact List.countP_mono_left (fun a _ e => (Bool.and_eq_true _ _ ▸ e).1)
  have hz : ∀ p : Job → Bool, p (s.newJob sl w) = false → ∀ l : List Job, ((l ++ [s.newJob sl w]).filter p).length = (l.filter p).length :=
    fun p e l => by rw [List.filter_append, List.filter_cons_of_neg (by simp [e])]; simp
  rw [List.any_append, hf, hz _ (by simp)]
  have h1 := Nat.lt_of_le_of_lt (hn (s.ctx sl.core (srcCtx sl.src)).jobs _ (fun i => decide (i.id ≠ (s.taken sl w).id))) h.1
  simp only [List.any_cons, hq, List.any_nil, Bool.or_self, Bool.false_eq_true, or_false, Nat.not_le]
  exact h1

/-! ## Completion -/

theorem State.modCtx_only {s t : State} {c : CoreId} (h : s.OnlyCore t c) (x : CtxId) (f : Ctx → Ctx) : s.OnlyCore (t.modCtx c x f) c :=
  h.trans (State.onlyCore_modCtx ..)

theorem State.closeJob_only (s : State) (c : CoreId) (x : CtxId) (j : Job) : s.OnlyCore (s.closeJob c x j) c := by
  unfold State.closeJob
  cases x
  · exact (State.onlyCore_modCtx ..).trans (State.onlyCore_modCore ..)
  · exact State.onlyCore_modCtx ..

/-- The context after a command of it has completed: the job is gone and its token has risen. -/
theorem State.closeJob_ctx (s : State) (c : CoreId) (x : CtxId) (j : Job) :
    (s.closeJob c x j).ctx c x = ({ s.ctx c x with jobs := (s.ctx c x).jobs.filter (fun i => i.id ≠ j.id) } : Ctx).signal j := by
  unfold State.closeJob
  cases x <;> simp <;> rfl

theorem State.closeJob_stream (s : State) (c : CoreId) (x : CtxId) (j : Job) (st : StreamId) :
    (s.closeJob c x j).stream c st = s.stream c st := by
  unfold State.closeJob
  cases x <;> simp <;> cases st <;> rfl

/-- A completion changes nothing more than the issue did. -/
theorem State.closeJob_took {s u : State} {sl : Slot} (h : s.Took u sl) (j : Job) (hj : sl.src ≠ .dq → j.refs = []) :
    s.Took (u.closeJob sl.core (srcCtx sl.src) j) sl := by
  refine ⟨h.only.trans (State.closeJob_only ..), ?_, ?_⟩
  · rw [← h.core]
    obtain ⟨c, src⟩ := sl
    unfold State.closeJob
    cases src <;> simp [srcStream, srcCtx, Core.without, Core.setCtx, Core.setStream] <;> rw [hj (by simp)] <;> rfl
  · have e := h.issued
    unfold State.cx at e ⊢
    rw [State.closeJob_ctx, ← e]
    unfold Ctx.signal
    split <;> rfl

theorem State.newJob_refs (s : State) (sl : Slot) (w : W256) (h : sl.src ≠ .dq) : (s.newJob sl w).refs = [] := by
  obtain ⟨c, src⟩ := sl
  cases src <;> first | rfl | exact absurd rfl h

theorem State.modCtx_took {s u : State} {sl : Slot} (h : s.Took u sl) (f : Ctx → Ctx) (hf : ∀ k, (f k).issued = k.issued) :
    s.Took (u.modCtx sl.core (srcCtx sl.src) f) sl := by
  refine ⟨h.only.trans (State.onlyCore_modCtx ..), ?_, ?_⟩
  · rw [← h.core]
    obtain ⟨c, src⟩ := sl
    cases src <;> simp [srcStream, srcCtx, Core.without, Core.setCtx, Core.setStream]
  · have e := h.issued
    unfold State.cx at e ⊢
    rw [State.ctx_modCtx, hf, e]

/-- A status that does not halt only completes the command. -/
theorem State.done_ok {s : State} {i : Issued} {j : Job} (h : s.job i.core i.ctx i.id = some j) {st : Byte} (hs : halting st = false) :
    s.done i st = s.closeJob i.core i.ctx j := by
  unfold State.done State.finish
  rw [h]
  simp [State.applyHalt, hs]

/-- Tokens after a completion (R165). -/
theorem Ctx.tok_signal (k : Ctx) (j : Job) (w : W256) (h1 : j.se = cSe w) (h2 : j.st = cSt w) (n : Nat) :
    (k.signal j).tok n = k.tok n + sigOf w n := by
  unfold Ctx.signal sigOf
  rw [h1, h2]
  by_cases h : cSe w = true
  · simp only [h, if_true, true_and, Ctx.tok, Ctx.setTok, SMap.get_set]
    by_cases e : (cSt w).toNat = n
    · simp [e]
    · have : ¬n = (cSt w).toNat := fun q => e q.symm
      simp [e, this]
  · simp [h]

theorem Ctx.signal_base (k : Ctx) (j : Job) : (k.signal j).base = k.base := by unfold Ctx.signal; split <;> rfl

/-- A command that completes at its issue with status OK, in a state `u` where it is in progress. -/
theorem State.done_took {s u : State} {sl : Slot} {w : W256} (h : s.Took u sl) (hh : s.HeadPassed u sl)
    (hj : u.job sl.core (srcCtx sl.src) (s.taken sl w).id = some (s.newJob sl w)) :
    s.Took (u.done (s.issue sl w).2 stOk) sl ∧ s.HeadPassed (u.done (s.issue sl w).2 stOk) sl ∧
      ((u.done (s.issue sl w).2 stOk).cx sl).base = (u.cx sl).base ∧
      ∀ n, ((u.done (s.issue sl w).2 stOk).cx sl).tok n = (u.cx sl).tok n + sigOf w n := by
  have e : u.done (s.issue sl w).2 stOk = u.closeJob sl.core (srcCtx sl.src) (s.newJob sl w) := State.done_ok hj rfl
  rw [e]
  refine ⟨State.closeJob_took h _ (State.newJob_refs s sl w), ?_, ?_, ?_⟩
  · intro st q
    rw [State.closeJob_stream]
    exact hh st q
  · unfold State.cx
    rw [State.closeJob_ctx, Ctx.signal_base]
    rfl
  · intro n
    unfold State.cx
    rw [State.closeJob_ctx, Ctx.tok_signal _ _ w rfl rfl]
    rfl

end Sys2Proof.Machine
end

