-- ==== Sys2Proof/Laws/Memory.lean ====
section
/-!
SUPPORT. Laws of memory: reading after a write, what a write leaves alone, and that every operation keeps the canonical form.
-/
namespace Sys2Proof.Machine

theorem Mem.wf_iff (m : Mem) : m.wf = true ↔ SMap.wf m.dflt m.cells = true ∧ SMap.wf m.unitDflt m.units = true ∧
    SMap.wf (fun _ => (0 : W64)) m.headers = true ∧ SMap.wf (fun _ => (none : Option W64)) m.fill = true := by
  simp [Mem.wf, and_assoc]

theorem Mem.wf_reset : Mem.reset.wf = true := rfl

/-! ## Operations keep the canonical form -/

theorem Mem.wf_put (m : Mem) (k : Nat) (l : List Byte) (h : m.wf = true) : (m.put k l).wf = true := by
  rw [Mem.wf_iff] at *
  exact ⟨SMap.wf_setRange _ _ _ _ h.1, h.2⟩

theorem Mem.wf_setUnits (m : Mem) (u : Nat) (l : List UnitSt) (h : m.wf = true) : (m.setUnits u l).wf = true := by
  rw [Mem.wf_iff] at *
  exact ⟨h.1, SMap.wf_setRange _ _ _ _ h.2.1, h.2.2⟩

theorem Mem.wf_setHeader (m : Mem) (b : Nat) (v : W64) (h : m.wf = true) : (m.setHeader b v).wf = true := by
  rw [Mem.wf_iff] at *
  exact ⟨h.1, h.2.1, SMap.wf_set _ _ _ _ h.2.2.1, h.2.2.2⟩

theorem Mem.wf_fillStack (m : Mem) (n : Nat) (p : W64) (h : m.wf = true) : (m.fillStack n p).wf = true := by
  rw [Mem.wf_iff] at *
  have hf (j : Nat) (hj : j ≠ n) : (m.fillStack n p).fillOf j = m.fillOf j := SMap.get_set_ne _ _ _ _ _ hj
  refine ⟨?_, ?_, SMap.wf_filter _ _ _ h.2.2.1, SMap.wf_set _ _ _ _ h.2.2.2⟩
  · refine SMap.wf_congr m.dflt _ _ (fun e he => ?_) (SMap.wf_filter _ _ _ h.1)
    have := (List.mem_filter.1 he).2
    simp only [decide_eq_true_eq] at this
    simp only [Mem.dflt, hf _ this]
  · refine SMap.wf_congr m.unitDflt _ _ (fun e he => ?_) (SMap.wf_filter _ _ _ h.2.1)
    have := (List.mem_filter.1 he).2
    simp only [decide_eq_true_eq] at this
    simp only [Mem.unitDflt, hf _ this]

theorem Mem.wf_zeroCore (m : Mem) (c : CoreId) (h : m.wf = true) : (m.zeroCore c).wf = true := by
  rw [Mem.wf_iff] at *
  exact ⟨SMap.wf_filter m.dflt _ _ h.1, SMap.wf_filter m.unitDflt _ _ h.2.1, SMap.wf_filter _ _ _ h.2.2.1, h.2.2.2⟩

theorem Mem.wf_warm (m : Mem) (h : m.wf = true) : m.warm.wf = true := by
  rw [Mem.wf_iff] at *
  exact ⟨SMap.wf_filter m.dflt _ _ h.1, SMap.wf_filter m.unitDflt _ _ h.2.1, SMap.wf_filter _ _ _ h.2.2.1, h.2.2.2⟩

theorem Mem.wf_powerLoss (m : Mem) : m.powerLoss.wf = true := rfl

/-! ## Reading after a write -/

/-- A byte written reads back. -/
theorem Mem.byte_put (m : Mem) (k i : Nat) (l : List Byte) (h : i < l.length) : (m.put k l).byte (k + i) = l[i] :=
  SMap.get_setRange_mem m.dflt m.cells k i l h

/-- A byte outside what is written reads as before. -/
theorem Mem.byte_put_out (m : Mem) (k a : Nat) (l : List Byte) (h : a < k ∨ k + l.length ≤ a) : (m.put k l).byte a = m.byte a :=
  SMap.get_setRange_out m.dflt m.cells k a l h

theorem Mem.header_setHeader (m : Mem) (b : Nat) (v : W64) : (m.setHeader b v).header b = v := SMap.get_set_self _ _ _ _
theorem Mem.header_setHeader_ne (m : Mem) (b c : Nat) (v : W64) (h : c ≠ b) : (m.setHeader b v).header c = m.header c :=
  SMap.get_set_ne _ _ _ _ _ h

@[simp] theorem Mem.byte_setUnits (m : Mem) (u : Nat) (l : List UnitSt) (a : Nat) : (m.setUnits u l).byte a = m.byte a := rfl
@[simp] theorem Mem.byte_setHeader (m : Mem) (b : Nat) (v : W64) (a : Nat) : (m.setHeader b v).byte a = m.byte a := rfl
@[simp] theorem Mem.unit_put (m : Mem) (k : Nat) (l : List Byte) (u : Nat) : (m.put k l).unit u = m.unit u := rfl
@[simp] theorem Mem.unit_setHeader (m : Mem) (b : Nat) (v : W64) (u : Nat) : (m.setHeader b v).unit u = m.unit u := rfl
@[simp] theorem Mem.header_put (m : Mem) (k : Nat) (l : List Byte) (b : Nat) : (m.put k l).header b = m.header b := rfl
@[simp] theorem Mem.header_setUnits (m : Mem) (u : Nat) (l : List UnitSt) (b : Nat) : (m.setUnits u l).header b = m.header b := rfl

/-! ## Ranges -/

/-- Walking a map whose keys rise from `a` gives the values at consecutive keys. -/
theorem SMap.walk_eq {α : Type} (d : Nat → α) (n : Nat) : ∀ (a : Nat) (m : SMap α), SMap.Sorted m → (∀ e ∈ m, a ≤ e.1) →
    SMap.walk d a n m = (List.range n).map (fun i => SMap.get d m (a + i)) := by
  induction n with
  | zero => intro a m _ _; simp [SMap.walk]
  | succ n ih =>
    intro a m hs hb
    rw [List.range_succ_eq_map, List.map_cons, List.map_map]
    cases m with
    | nil =>
      simp only [SMap.walk, ih (a + 1) [] List.Pairwise.nil (by simp), SMap.get, Nat.add_zero]
      congr 1
      apply List.map_congr_left
      intro i _
      simp only [Function.comp, Nat.succ_eq_add_one]
      congr 1
      omega
    | cons e t =>
      obtain ⟨k, v⟩ := e
      have hk : a ≤ k := hb (k, v) (List.mem_cons_self ..)
      have hst := List.pairwise_cons.1 hs
      simp only [SMap.walk]
      split
      · next h =>
        subst h
        rw [ih (k + 1) t hst.2 (fun e he => hst.1 e he)]
        simp only [SMap.get, Nat.add_zero, if_true]
        congr 1
        apply List.map_congr_left
        intro i _
        simp only [Function.comp, Nat.succ_eq_add_one]
        have : ¬ k = k + (i + 1) := by omega
        rw [if_neg this]
        congr 1
        omega
      · next h =>
        have hlt : ∀ e ∈ (k, v) :: t, a + 1 ≤ e.1 := by
          intro e he
          rcases List.mem_cons.1 he with h1 | h1
          · subst h1; simp only; omega
          · have := hst.1 e h1; simp only at this; omega
        rw [ih (a + 1) ((k, v) :: t) hs hlt]
        congr 1
        · rw [SMap.get_of_forall_ne]
          · rfl
          · intro e he; have := hlt e he; omega
        · apply List.map_congr_left
          intro i _
          simp only [Function.comp, Nat.succ_eq_add_one]
          congr 1
          omega

/-- A range reads the value at each of its keys. -/
theorem SMap.range_eq {α : Type} (d : Nat → α) (m : SMap α) (a n : Nat) (hs : SMap.Sorted m) :
    SMap.range d m a n = (List.range n).map (fun i => SMap.get d m (a + i)) := by
  unfold SMap.range
  rw [SMap.walk_eq d n a _ (hs.filter _)]
  · apply List.map_congr_left
    intro i hi
    exact SMap.get_filter d m (fun k => decide (a ≤ k ∧ k < a + n)) (a + i) (by have := List.mem_range.1 hi; simp; omega)
  · intro e he
    have := (List.mem_filter.1 he).2
    simp only [decide_eq_true_eq] at this
    exact this.1

/-- Bytes read are the bytes at their addresses. -/
theorem Mem.bytes_eq (m : Mem) (k n : Nat) (h : m.wf = true) : m.bytes k n = (List.range n).map (fun i => m.byte (k + i)) :=
  SMap.range_eq m.dflt m.cells k n ((SMap.wf_iff _ _).1 ((Mem.wf_iff m).1 h).1).1

/-- What was written is what is read (R208). -/
theorem Mem.bytes_put (m : Mem) (k : Nat) (l : List Byte) (h : m.wf = true) : (m.put k l).bytes k l.length = l := by
  rw [Mem.bytes_eq _ _ _ (Mem.wf_put m k l h)]
  apply List.ext_getElem
  · simp
  · intro i h1 h2
    simp only [List.getElem_map, List.getElem_range]
    exact Mem.byte_put m k i l h2

end Sys2Proof.Machine
end

