-- ==== Sys2Proof/Laws/Keeps.lean ====
section
/-!
SUPPORT. What every command keeps, said once as a relation between the state before and after: the queue is as it was, memory stays in its
canonical form, owner records agree with their complements, outputs are only added, and fuse bits are only set. The relation is reflexive
and transitive; the lemmas of the files KeepsA, KeepsB and so on show it for each operation.
-/
namespace Sys2Proof.Machine

theorem Fuses.Le.refl (f : Fuses) : f.Le f := ⟨id, id, BitVec.or_self, BitVec.or_self, BitVec.or_self, BitVec.or_self⟩

theorem or_le_trans {n : Nat} {a b c : BitVec n} (h : a ||| b = b) (g : b ||| c = c) : a ||| c = c := by
  rw [← g, ← BitVec.or_assoc, h]

theorem Fuses.Le.trans {f g h : Fuses} (a : f.Le g) (b : g.Le h) : f.Le h :=
  ⟨b.1 ∘ a.1, b.2 ∘ a.2, or_le_trans a.3 b.3, or_le_trans a.4 b.4, or_le_trans a.5 b.5, or_le_trans a.6 b.6⟩

/-- What every command keeps. -/
structure Keeps (r s : State) : Prop where
  pending : s.pending = r.pending
  mem : r.mem.wf = true → s.mem.wf = true
  owners : r.OwnersOk → s.OwnersOk
  out : r.out <+: s.out
  fuses : r.sec.fuses.Le s.sec.fuses

theorem Keeps.refl (s : State) : Keeps s s := ⟨rfl, id, id, List.prefix_refl _, Fuses.Le.refl _⟩

theorem Keeps.trans {r s t : State} (a : Keeps r s) (b : Keeps s t) : Keeps r t :=
  ⟨b.1.trans a.1, b.2 ∘ a.2, b.3 ∘ a.3, a.4.trans b.4, a.5.trans b.5⟩

theorem keeps_ite {r s t : State} {c : Prop} [Decidable c] (h : Keeps r s) (g : Keeps r t) : Keeps r (if c then s else t) := by
  split <;> assumption

/-- A walk over a list keeps what each of its steps keeps. -/
theorem keeps_foldl {r : State} {α : Type} {f : State → α → State} (hf : ∀ s x, Keeps r s → Keeps r (f s x)) (l : List α) (s : State)
    (h : Keeps r s) : Keeps r (l.foldl f s) := List.foldlRecOn (motive := Keeps r) l f h fun s hs x _ => hf s x hs

theorem keeps_foldl_fst {r : State} {α β : Type} {f : State × β → α → State × β} (hf : ∀ s x, Keeps r s.1 → Keeps r (f s x).1)
    (l : List α) (s : State × β) (h : Keeps r s.1) : Keeps r (l.foldl f s).1 :=
  List.foldlRecOn (motive := fun a => Keeps r a.1) l f h fun s hs x _ => hf s x hs

/-- An update of fields that the relation does not speak of. -/
theorem keeps_mk {r s : State} (h : Keeps r s) (cores parts dict dictForce dictN ports reqs nextTag spray stackSts mcl caps nextCap faults lead
    board dists withdrawn spares quar selfFail nmt free) :
    Keeps r ⟨s.pending, s.mem, cores, s.objs, parts, dict, dictForce, dictN, ports, reqs, nextTag, spray, stackSts, mcl, caps, nextCap, faults,
      lead, s.sec, board, dists, withdrawn, spares, quar, selfFail, nmt, s.out, free⟩ := ⟨h.1, h.2, h.3, h.4, h.5⟩

/-- An update of memory. -/
theorem keeps_mem {r s : State} (h : Keeps r s) {m : Mem} (hm : s.mem.wf = true → m.wf = true) : Keeps r { s with mem := m } :=
  ⟨h.1, fun x => hm (h.2 x), h.3, h.4, h.5⟩

/-- An update of security state that leaves the fuses. -/
theorem keeps_sec {r s : State} (h : Keeps r s) {c : Sec} (hc : s.sec.fuses.Le c.fuses) : Keeps r { s with sec := c } :=
  ⟨h.1, h.2, h.3, h.4, h.5.trans hc⟩

theorem keeps_emit {r s : State} (h : Keeps r s) (o : Out) : Keeps r (s.emit o) := ⟨h.1, h.2, h.3, h.4.trans (List.prefix_append _ _), h.5⟩
theorem keeps_emits {r s : State} (h : Keeps r s) (o : List Out) : Keeps r (s.emits o) :=
  ⟨h.1, h.2, h.3, h.4.trans (List.prefix_append _ _), h.5⟩

theorem Obj.ownerOk_reset : Obj.reset.ownerOk = true := by decide

theorem State.OwnersOk.obj {s : State} (h : s.OwnersOk) (c : CoreId) (k : Nat) : (s.obj c k).ownerOk = true := by
  unfold State.obj
  have key (m : SMap Obj) (hm : ∀ e ∈ m, e.2.ownerOk = true) (q : Nat) : (SMap.get (fun _ => Obj.reset) m q).ownerOk = true := by
    induction m with
    | nil => exact Obj.ownerOk_reset
    | cons e t ih =>
      obtain ⟨i, v⟩ := e
      simp only [SMap.get]
      split
      · exact hm (i, v) (List.mem_cons_self ..)
      · exact ih fun e he => hm e (List.mem_cons_of_mem _ he)
  exact key _ h _

/-- An object is written with an owner record that agrees with its complement. -/
theorem keeps_setObj {r s : State} (h : Keeps r s) (c : CoreId) (k : Nat) {o : Obj} (ho : s.OwnersOk → o.ownerOk = true) :
    Keeps r (s.setObj c k o) := by
  refine ⟨h.1, h.2, fun x => ?_, h.4, h.5⟩
  intro e he
  have hs := h.3 x
  unfold State.setObj SMap.set SMap.splice at he
  simp only [List.mem_append, List.mem_filter] at he
  rcases he with (h1 | h1) | h1
  · exact hs e h1.1
  · split at h1
    · simp at h1
    · simp at h1; subst h1; exact ho hs
  · exact hs e h1.1

/-- Objects are taken out: they read as reset. -/
theorem keeps_objs_filter {r s : State} (h : Keeps r s) (f : Nat × Obj → Bool) : Keeps r { s with objs := s.objs.filter f } :=
  ⟨h.1, h.2, fun x e he => h.3 x e (List.mem_filter.1 he).1, h.4, h.5⟩

end Sys2Proof.Machine
end

