-- ==== Sys2Proof/Laws/KeepsA.lean ====
section
/-!
SUPPORT. What each operation keeps (A): one lemma per operation, in the order of use.
-/
namespace Sys2Proof.Machine

theorem keeps_swap {r s t : State} {m : Mem} (h : Keeps r s) (ht : ∀ q, Keeps q { s with mem := m } → Keeps q t) : Keeps r { t with mem := s.mem } :=
  let k := ht _ (Keeps.refl _)
  ⟨k.1.trans h.1, h.2, fun o => k.3 (h.3 o), h.4.trans k.4, h.5.trans k.5⟩
theorem findSome_keeps {r t : State} {α : Type} {l : List α} {f : α → Option State} (e : l.findSome? f = some t) (hf : ∀ a t, f a = some t → Keeps r t) : Keeps r t := by
  obtain ⟨a, _, h⟩ := List.exists_of_findSome?_eq_some e
  exact hf a t h
theorem none_some {α : Type} {t : α} (e : (none : Option α) = some t) : False := by cases e
theorem next_inj {t u : State} (e : (Host.Outcome.next t : Host.Outcome State Fault Refusal) = .next u) : t = u := by injection e
theorem keeps_fst {r t : State} {β : Type} {p : State × β} {x : β} (e : p = (t, x)) (h : Keeps r p.1) : Keeps r t := by rw [e] at h; exact h

theorem State.emit_keeps {r s : State} (o : Out) (h : Keeps r s) : Keeps r (s.emit o) := keeps_emit h o

theorem State.setPort_keeps {r s : State} (n : PortId) (v : Port) (h : Keeps r s) : Keeps r (State.setPort s n v) := by
  unfold State.setPort
  try dsimp only
  repeat' first
    | with_reducible assumption
    | (fail_if_no_progress (with_reducible apply keeps_mk))

theorem State.launch_keeps {r s : State} (n : PortId) (p : Packet) (h : Keeps r s) : Keeps r (State.launch s n p) := by
  unfold State.launch
  try dsimp only
  repeat' first
    | with_reducible assumption
    | with_reducible apply State.emit_keeps
    | with_reducible apply State.setPort_keeps

theorem State.toPort_keeps {r s : State} (n : PortId) (p : Packet) (h : Keeps r s) : Keeps r (State.toPort s n p) := by
  unfold State.toPort
  try dsimp only
  repeat' first
    | with_reducible assumption
    | with_reducible apply State.launch_keeps
    | with_reducible apply State.setPort_keeps
    | with_reducible apply keeps_ite

theorem State.respond_keeps {r s : State} (p : Packet) (opc : Nat) (status : Nat) (psn : Byte) (data : List W128) (h : Keeps r s) : Keeps r (State.respond s p opc status psn data) := by
  unfold State.respond
  try dsimp only
  repeat' first
    | with_reducible assumption
    | with_reducible apply State.toPort_keeps
    | (fail_if_no_progress (with_reducible apply keeps_mk))
    | with_reducible apply keeps_ite
    | split

theorem State.sendAck_keeps {r s : State} (p : Packet) (h : Keeps r s) : Keeps r (State.sendAck s p) := by
  unfold State.sendAck
  try dsimp only
  repeat' first
    | with_reducible assumption
    | with_reducible apply State.respond_keeps

theorem State.setD_keeps {r s : State} (key : Nat) (v : W64) (h : Keeps r s) : Keeps r (State.setD s key v) := by
  unfold State.setD
  try dsimp only
  repeat' first
    | with_reducible assumption
    | (fail_if_no_progress (with_reducible apply keeps_mk))

theorem State.setDN_keeps {r s : State} (key : Nat) (v : Nat) (h : Keeps r s) : Keeps r (State.setDN s key v) := by
  unfold State.setDN
  try dsimp only
  repeat' first
    | with_reducible assumption
    | with_reducible apply State.setD_keeps

theorem State.addD_keeps {r s : State} (key : Nat) (n : Nat) (h : Keeps r s) : Keeps r (State.addD s key n) := by
  unfold State.addD
  try dsimp only
  repeat' first
    | with_reducible assumption
    | with_reducible apply State.setDN_keeps

theorem State.incD_keeps {r s : State} (key : Nat) (h : Keeps r s) : Keeps r (State.incD s key) := by
  unfold State.incD
  try dsimp only
  repeat' first
    | with_reducible assumption
    | with_reducible apply State.addD_keeps

theorem State.setComp_keeps {r s : State} (p : PartId) (c : CompRing) (h : Keeps r s) : Keeps r (State.setComp s p c) := by
  unfold State.setComp
  try dsimp only
  repeat' first
    | with_reducible assumption
    | (fail_if_no_progress (with_reducible apply keeps_mk))

theorem State.mclSend_keeps {r s : State} (m : MclMsg) (h : Keeps r s) : Keeps r (State.mclSend s m) := by
  unfold State.mclSend
  try dsimp only
  repeat' first
    | with_reducible assumption
    | with_reducible apply State.emit_keeps
    | (fail_if_no_progress (with_reducible apply keeps_mk))
    | with_reducible apply keeps_ite

theorem State.mclSendReq_keeps {r s : State} (t : Nat) (q : MclReq) (sink : MclSink) (h : Keeps r s) : Keeps r (State.mclSendReq s t q sink) := by
  unfold State.mclSendReq
  try dsimp only
  repeat' first
    | with_reducible assumption
    | with_reducible apply State.mclSend_keeps
    | (fail_if_no_progress (with_reducible apply keeps_mk))

theorem State.mclGo_keeps {r s : State} (q : MclReq) (sink : MclSink) (h : Keeps r s) : Keeps r (State.mclGo s q sink) := by
  unfold State.mclGo
  try dsimp only
  repeat' first
    | with_reducible assumption
    | with_reducible apply State.mclSendReq_keeps
    | (fail_if_no_progress (with_reducible apply keeps_mk))
    | with_reducible apply keeps_ite
    | split

theorem State.mclPost_keeps {r s : State} (opc : Nat) (part : PartId) (addr : W64) (lines : List (BitVec 512)) (lenM1 : Nat) (psn : Byte) (note : Option (CoreId × CtxId × Nat)) (h : Keeps r s) : Keeps r (State.mclPost s opc part addr lines lenM1 psn note) := by
  unfold State.mclPost
  try dsimp only
  repeat' first
    | with_reducible assumption
    | with_reducible apply State.mclGo_keeps

theorem State.msi_keeps {r s : State} (w : Win) (h : Keeps r s) : Keeps r (State.msi s w) := by
  unfold State.msi
  try dsimp only
  repeat' first
    | with_reducible assumption
    | with_reducible apply State.mclPost_keeps
    | (fail_if_no_progress (with_reducible apply keeps_mk))
    | with_reducible apply keeps_ite

theorem State.writeRecord_keeps {r s : State} (p : PartId) (w : Win) (rec : BitVec 512) (irq : Bool) (note : Option (CoreId × CtxId × Nat)) (h : Keeps r s) : Keeps r (State.writeRecord s p w rec irq note) := by
  unfold State.writeRecord
  try dsimp only
  repeat' first
    | with_reducible assumption
    | with_reducible apply State.setComp_keeps
    | with_reducible apply State.mclPost_keeps
    | with_reducible apply State.msi_keeps
    | with_reducible apply keeps_ite

theorem State.writeTelem_keeps {r s : State} (p : PartId) (units : List (BitVec 512)) (h : Keeps r s) : Keeps r (State.writeTelem s p units) := by
  unfold State.writeTelem
  try dsimp only
  repeat' first
    | with_reducible assumption
    | with_reducible apply State.incD_keeps
    | with_reducible apply State.mclPost_keeps
    | with_reducible apply State.setComp_keeps
    | with_reducible apply keeps_ite
    | (with_reducible apply keeps_foldl; intro _ _ _; try dsimp only)
    | split

theorem State.sendWait_keeps {r s : State} (x : MclWait) (h : Keeps r s) {t : State} (e : s.sendWait x = some t) : Keeps r t := by
  cases x with
  | record p rec irq note =>
    simp only [State.sendWait] at e
    split at e
    · split at e
      · cases e
        exact State.writeRecord_keeps _ _ _ _ _ h
      · cases e
    · cases e
  | telem p us =>
    simp only [State.sendWait] at e
    cases e
    exact State.writeTelem_keeps _ _ h
  | done p l =>
    simp only [State.sendWait, Option.map_eq_some_iff] at e
    obtain ⟨w, _, rfl⟩ := e
    exact State.mclPost_keeps _ _ _ _ _ _ _ h
  | req q k =>
    simp only [State.sendWait] at e
    split at e
    · obtain ⟨w, _, rfl⟩ := Option.map_eq_some_iff.1 e
      exact State.mclSendReq_keeps _ _ _ h
    · cases e
      exact h

theorem flushGo_keeps {r : State} (x0 : List MclWait) (x1 : List MclWait) {x2 : State} (h : Keeps r x2) : Keeps r (flushGo x0 x1 x2) := by
  induction x0 generalizing x2 x1 with
  | nil => simp only [flushGo]; repeat' first
    | with_reducible assumption
    | (fail_if_no_progress (with_reducible apply keeps_mk))
  | cons x t ih => simp only [flushGo]; repeat' first
    | with_reducible assumption
    | with_reducible apply ih
    | with_reducible refine State.sendWait_keeps (h := ?_) (e := by assumption)
    | with_reducible apply keeps_ite
    | split

theorem State.flushMcl_keeps {r s : State} (h : Keeps r s) : Keeps r (State.flushMcl s) := by
  unfold State.flushMcl
  try dsimp only
  repeat' first
    | with_reducible assumption
    | with_reducible apply flushGo_keeps
    | (fail_if_no_progress (with_reducible apply keeps_mk))
    | with_reducible apply keeps_ite

theorem State.telemetry_keeps {r s : State} (p : PartId) (type : Nat) (step : W64) (payload : List Byte) (h : Keeps r s) : Keeps r (State.telemetry s p type step payload) := by
  unfold State.telemetry
  try dsimp only
  repeat' first
    | with_reducible assumption
    | with_reducible apply State.incD_keeps
    | with_reducible apply State.flushMcl_keeps
    | (fail_if_no_progress (with_reducible apply keeps_mk))
    | with_reducible apply keeps_ite

theorem State.logFault_keeps {r s : State} (f : FaultInfo) (h : Keeps r s) : Keeps r (State.logFault s f) := by
  unfold State.logFault
  try dsimp only
  repeat' first
    | with_reducible assumption
    | with_reducible apply State.incD_keeps
    | with_reducible apply State.emit_keeps
    | with_reducible apply State.telemetry_keeps
    | (fail_if_no_progress (with_reducible apply keeps_mk))
    | with_reducible apply keeps_ite
    | split

theorem State.setPart_keeps {r s : State} (p : PartId) (v : Part) (h : Keeps r s) : Keeps r (State.setPart s p v) := by
  unfold State.setPart
  try dsimp only
  repeat' first
    | with_reducible assumption
    | (fail_if_no_progress (with_reducible apply keeps_mk))

theorem State.modPart_keeps {r s : State} (p : PartId) (f : Part → Part) (h : Keeps r s) : Keeps r (State.modPart s p f) := by
  unfold State.modPart
  try dsimp only
  repeat' first
    | with_reducible assumption
    | with_reducible apply State.setPart_keeps

theorem State.modGate_keeps {r s : State} (p : PartId) (f : Gate → Gate) (h : Keeps r s) : Keeps r (State.modGate s p f) := by
  unfold State.modGate
  try dsimp only
  repeat' first
    | with_reducible assumption
    | with_reducible apply State.modPart_keeps

theorem State.sendPlan_keeps {r s : State} (pl : Option PathPlan) (u : Nat) (p : Packet) (h : Keeps r s) {t : State} (e : State.sendPlan s pl u p = some t) : Keeps r t := by
  unfold State.sendPlan at e
  try dsimp only at e
  repeat' (split at e)
  all_goals first
    | (exfalso; exact none_some e)
    | (obtain rfl := Option.some.inj e)
    | skip
  all_goals try dsimp only
  all_goals repeat' first
    | with_reducible assumption
    | with_reducible apply State.toPort_keeps
    | (fail_if_no_progress (with_reducible apply keeps_mk))

theorem State.sendMsg_keeps {r s : State} (part : PartId) (dst : W16) (units : List W128) (h : Keeps r s) : Keeps r (State.sendMsg s part dst units) := by
  unfold State.sendMsg
  try dsimp only
  repeat' first
    | with_reducible assumption
    | with_reducible refine State.sendPlan_keeps (h := ?_) (e := by assumption)
    | (fail_if_no_progress (with_reducible apply keeps_mk))
    | with_reducible apply keeps_ite
    | split

theorem State.tellLeader_keeps {r s : State} (p : PartId) (h : Keeps r s) : Keeps r (State.tellLeader s p) := by
  unfold State.tellLeader
  try dsimp only
  repeat' first
    | with_reducible assumption
    | with_reducible apply State.sendMsg_keeps
    | with_reducible apply keeps_ite

theorem State.tellVote_keeps {r s : State} (p : PartId) (units : List W128) (h : Keeps r s) : Keeps r (State.tellVote s p units) := by
  unfold State.tellVote
  try dsimp only
  repeat' first
    | with_reducible assumption
    | with_reducible apply State.sendMsg_keeps
    | (with_reducible apply keeps_foldl; intro _ _ _; try dsimp only)

theorem State.voidPart_keeps {r s : State} (p : PartId) (n : W64) (code : Nat) (send : Bool) (h : Keeps r s) : Keeps r (State.voidPart s p n code send) := by
  unfold State.voidPart
  try dsimp only
  repeat' first
    | with_reducible assumption
    | with_reducible apply State.modGate_keeps
    | with_reducible apply State.setDN_keeps
    | with_reducible apply State.setD_keeps
    | with_reducible apply State.tellLeader_keeps
    | with_reducible apply State.tellVote_keeps
    | with_reducible apply keeps_ite

theorem State.setCore_keeps {r s : State} (c : CoreId) (k : Core) (h : Keeps r s) : Keeps r (State.setCore s c k) := by
  unfold State.setCore
  try dsimp only
  repeat' first
    | with_reducible assumption
    | (fail_if_no_progress (with_reducible apply keeps_mk))

theorem State.modCore_keeps {r s : State} (c : CoreId) (f : Core → Core) (h : Keeps r s) : Keeps r (State.modCore s c f) := by
  unfold State.modCore
  try dsimp only
  repeat' first
    | with_reducible assumption
    | with_reducible apply State.setCore_keeps

theorem State.setCtx_keeps {r s : State} (c : CoreId) (x : CtxId) (v : Ctx) (h : Keeps r s) : Keeps r (State.setCtx s c x v) := by
  unfold State.setCtx
  try dsimp only
  repeat' first
    | with_reducible assumption
    | with_reducible apply State.modCore_keeps

theorem State.modCtx_keeps {r s : State} (c : CoreId) (x : CtxId) (f : Ctx → Ctx) (h : Keeps r s) : Keeps r (State.modCtx s c x f) := by
  unfold State.modCtx
  try dsimp only
  repeat' first
    | with_reducible assumption
    | with_reducible apply State.setCtx_keeps

theorem State.haltPart_keeps {r s : State} (p : PartId) (h : Keeps r s) : Keeps r (State.haltPart s p) := by
  unfold State.haltPart
  try dsimp only
  repeat' first
    | with_reducible assumption
    | with_reducible apply State.modCtx_keeps
    | (with_reducible apply keeps_foldl; intro _ _ _; try dsimp only)

theorem State.raiseF_keeps {r s : State} (f : FaultInfo) (h : Keeps r s) : Keeps r (State.raiseF s f) := by
  unfold State.raiseF
  try dsimp only
  repeat' first
    | with_reducible assumption
    | with_reducible apply State.logFault_keeps
    | with_reducible apply State.modGate_keeps
    | with_reducible apply State.voidPart_keeps
    | with_reducible apply State.haltPart_keeps
    | with_reducible apply keeps_ite

theorem State.raise_keeps {r s : State} (p : PartId) (code : Nat) (step : W64) (unit : Nat) (ctx : Bool) (detail : Nat) (h : Keeps r s) : Keeps r (State.raise s p code step unit ctx detail) := by
  unfold State.raise
  try dsimp only
  repeat' first
    | with_reducible assumption
    | with_reducible apply State.raiseF_keeps

theorem State.raiseMgmt_keeps {r s : State} (p : PartId) (code : Nat) (detail : Nat) (h : Keeps r s) : Keeps r (State.raiseMgmt s p code detail) := by
  unfold State.raiseMgmt
  try dsimp only
  repeat' first
    | with_reducible assumption
    | with_reducible apply State.raise_keeps

theorem State.modBoard_keeps {r s : State} (f : Board → Board) (h : Keeps r s) : Keeps r (State.modBoard s f) := by
  unfold State.modBoard
  try dsimp only
  repeat' first
    | with_reducible assumption
    | (fail_if_no_progress (with_reducible apply keeps_mk))

theorem State.moduleFault_keeps {r s : State} (kind : Nat) (h : Keeps r s) : Keeps r (State.moduleFault s kind) := by
  unfold State.moduleFault
  try dsimp only
  repeat' first
    | with_reducible assumption
    | with_reducible apply State.logFault_keeps
    | with_reducible apply State.raiseMgmt_keeps
    | with_reducible apply State.modBoard_keeps
    | (with_reducible apply keeps_foldl; intro _ _ _; try dsimp only)

theorem State.refuse_keeps {r s : State} (k : Chk) (h : Keeps r s) : Keeps r (State.refuse s k) := by
  unfold State.refuse
  try dsimp only
  repeat' first
    | with_reducible assumption
    | with_reducible apply State.incD_keeps
    | with_reducible apply State.moduleFault_keeps
    | split

theorem State.sendErr_keeps {r s : State} (p : Packet) (k : Chk) (h : Keeps r s) : Keeps r (State.sendErr s p k) := by
  unfold State.sendErr
  try dsimp only
  repeat' first
    | with_reducible assumption
    | with_reducible apply State.respond_keeps
    | with_reducible apply State.refuse_keeps

theorem State.unsupported_keeps {r s : State} (p : Packet) (h : Keeps r s) : Keeps r (State.unsupported s p) := by
  unfold State.unsupported
  try dsimp only
  repeat' first
    | with_reducible assumption
    | with_reducible apply State.respond_keeps
    | with_reducible apply State.refuse_keeps

theorem State.modPort_keeps {r s : State} (n : PortId) (f : Port → Port) (h : Keeps r s) : Keeps r (State.modPort s n f) := by
  unfold State.modPort
  try dsimp only
  repeat' first
    | with_reducible assumption
    | with_reducible apply State.setPort_keeps

theorem State.freeBuffer_keeps {r s : State} (p : Packet) (h : Keeps r s) : Keeps r (State.freeBuffer s p) := by
  unfold State.freeBuffer
  try dsimp only
  repeat' first
    | with_reducible assumption
    | with_reducible apply State.modPort_keeps
    | split

theorem State.setStack_keeps {r s : State} (n : District) (v : Stack) (h : Keeps r s) : Keeps r (State.setStack s n v) := by
  unfold State.setStack
  try dsimp only
  repeat' first
    | with_reducible assumption
    | (fail_if_no_progress (with_reducible apply keeps_mk))

theorem State.degrade_keeps {r s : State} (d : District) (h : Keeps r s) : Keeps r (State.degrade s d) := by
  unfold State.degrade
  try dsimp only
  repeat' first
    | with_reducible assumption
    | with_reducible apply State.setDN_keeps
    | with_reducible apply keeps_ite

theorem State.countUe_keeps {r s : State} (d : District) (h : Keeps r s) : Keeps r (State.countUe s d) := by
  unfold State.countUe
  try dsimp only
  repeat' first
    | with_reducible assumption
    | with_reducible apply State.setStack_keeps
    | with_reducible apply State.degrade_keeps
    | with_reducible apply keeps_ite

theorem State.nominateRow_keeps {r s : State} (d : District) (x2 : RowAddr) (h : Keeps r s) : Keeps r (State.nominateRow s d x2) := by
  unfold State.nominateRow
  try dsimp only
  repeat' first
    | with_reducible assumption
    | with_reducible apply State.degrade_keeps
    | with_reducible apply State.incD_keeps
    | with_reducible apply State.setStack_keeps
    | with_reducible apply keeps_ite

theorem State.countCe_keeps {r s : State} (u : Nat) (h : Keeps r s) : Keeps r (State.countCe s u) := by
  unfold State.countCe
  try dsimp only
  repeat' first
    | with_reducible assumption
    | with_reducible apply State.setStack_keeps
    | with_reducible apply State.nominateRow_keeps
    | with_reducible apply keeps_ite

theorem State.logDram_keeps {r s : State} (u : Nat) (ue : Bool) (src : BitVec 2) (pos : Byte) (mask : Byte) (h : Keeps r s) : Keeps r (State.logDram s u ue src pos mask) := by
  unfold State.logDram
  try dsimp only
  repeat' first
    | with_reducible assumption
    | with_reducible apply State.setStack_keeps
    | with_reducible apply State.incD_keeps
    | with_reducible apply State.countUe_keeps
    | with_reducible apply State.countCe_keeps
    | with_reducible apply keeps_ite

theorem State.setUnit_keeps {r s : State} (u : Nat) (x : UnitSt) (h : Keeps r s) : Keeps r (s.setUnit u x) :=
  keeps_mem h (Mem.wf_setUnits _ _ _)

theorem State.decodeUnit_keeps {r s : State} (u : Nat) (o : RsOut) (src : BitVec 2) (h : Keeps r s) : Keeps r (State.decodeUnit s u o src).1 := by
  unfold State.decodeUnit
  try dsimp only
  repeat' first
    | with_reducible assumption
    | with_reducible apply State.logDram_keeps
    | with_reducible apply State.setUnit_keeps
    | split

theorem State.touch_keeps {r s : State} (u : Nat) (src : BitVec 2) (h : Keeps r s) : Keeps r (State.touch s u src).1 := by
  unfold State.touch
  try dsimp only
  repeat' first
    | with_reducible assumption
    | with_reducible apply State.decodeUnit_keeps
    | split

theorem State.touchAll_keeps {r s : State} (us : List Nat) (src : BitVec 2) (h : Keeps r s) : Keeps r (State.touchAll s us src).1 := by
  unfold State.touchAll
  try dsimp only
  repeat' first
    | with_reducible assumption
    | with_reducible apply State.touch_keeps
    | (with_reducible apply keeps_foldl_fst; intro _ _ _; try dsimp only)

theorem State.touchRange_keeps {r s : State} (k : Nat) (n : Nat) (src : BitVec 2) (h : Keeps r s) : Keeps r (State.touchRange s k n src).1 := by
  unfold State.touchRange
  try dsimp only
  repeat' first
    | with_reducible assumption
    | with_reducible apply State.touchAll_keeps
    | split

theorem State.mergeBlock_keeps {r s : State} (f : Former) (b : Nat) (h : Keeps r s) : Keeps r (s.mergeBlock f b) := by
  unfold State.mergeBlock
  dsimp only
  exact State.incD_keeps _ (keeps_mem (State.touchRange_keeps _ _ _ h) (Mem.wf_setHeader _ _ _))

theorem State.merges_keeps {r s : State} (f : Former) (k : Nat) (n : Nat) (h : Keeps r s) : Keeps r (State.merges s f k n) := by
  unfold State.merges
  try dsimp only
  repeat' first
    | with_reducible assumption
    | with_reducible apply State.mergeBlock_keeps
    | (with_reducible apply keeps_foldl; intro _ _ _; try dsimp only)

theorem State.writeMem_keeps {r s : State} (k : Nat) (l : List Byte) (ps : List Bool) (h : Keeps r s) :
    Keeps r (s.writeMem k l ps) := by
  unfold State.writeMem
  split
  · exact h
  · have aux (c : Prop) [Decidable c] (u : Nat) (t : State) (ht : Keeps r t) :
        Keeps r (if c then t.touch u 2 else (t, false)).1 := by
      split
      · exact State.touch_keeps _ _ ht
      · exact ht
    dsimp only
    exact keeps_mem (aux _ _ _ (aux _ _ _ h)) (fun x => Mem.wf_setUnits _ _ _ (Mem.wf_put _ _ _ x))

theorem State.writeMerge_keeps {r s : State} (f : Former) (k : Nat) (l : List Byte) (ps : List Bool) (h : Keeps r s) : Keeps r (State.writeMerge s f k l ps) := by
  unfold State.writeMerge
  try dsimp only
  repeat' first
    | with_reducible assumption
    | with_reducible apply State.merges_keeps
    | with_reducible apply State.writeMem_keeps

theorem State.takeWrite_keeps {r s : State} (p : Packet) (h : Keeps r s) : Keeps r (State.takeWrite s p) := by
  unfold State.takeWrite
  try dsimp only
  repeat' first
    | with_reducible assumption
    | with_reducible apply State.sendAck_keeps
    | with_reducible apply State.writeMerge_keeps
    | with_reducible apply State.sendErr_keeps
    | split

theorem State.readUpset_keeps {r s : State} (u : Nat) (e : List (Fin 72 × Byte)) (src : BitVec 2) (h : Keeps r s) :
    Keeps r (s.readUpset u e src).1 := by
  unfold State.readUpset
  dsimp only
  split
  · exact State.touch_keeps _ _ h
  · split
    · exact State.decodeUnit_keeps _ _ _ (keeps_mem h (Mem.wf_put _ _ _))
    · exact State.decodeUnit_keeps _ _ _ h
    · exact State.decodeUnit_keeps _ _ _ h

theorem State.readMem_keeps {r s : State} (k : Nat) (n : Nat) (h : Keeps r s) : Keeps r (State.readMem s k n).1 := by
  unfold State.readMem
  try dsimp only
  repeat' first
    | with_reducible assumption
    | with_reducible apply State.touchRange_keeps
    | split

theorem State.nominate_keeps {r s : State} (n : Fin 272) (h : Keeps r s) : Keeps r (State.nominate s n) := by
  unfold State.nominate
  try dsimp only
  repeat' first
    | with_reducible assumption
    | with_reducible apply State.setDN_keeps
    | (fail_if_no_progress (with_reducible apply keeps_mk))
    | with_reducible apply keeps_ite

theorem keeps_flips {r s : State} (bad : List (Fin 8 × Byte × Byte)) (f : Mem → Fin 8 × Byte × Byte → Nat × List Byte)
    (u : Nat) (x : UnitSt) (h : Keeps r s) :
    Keeps r { s with mem := (bad.foldl (fun m b => m.put (f m b).1 (f m b).2) s.mem).setUnits u [x] } := by
  refine keeps_mem h fun hm => Mem.wf_setUnits _ _ _ ?_
  have key (l : List (Fin 8 × Byte × Byte)) : ∀ m : Mem, m.wf = true → (l.foldl (fun m b => m.put (f m b).1 (f m b).2) m).wf = true := by
    induction l with
    | nil => exact fun _ hm => hm
    | cons b t ih => exact fun m hm => ih _ (Mem.wf_put _ _ _ hm)
  exact key bad s.mem hm

theorem State.sramFlips_keeps {r s : State} (core : CoreId) (u : Nat) (flips : List (Fin 8 × Byte × Byte)) (h : Keeps r s) :
    Keeps r (s.sramFlips core u flips) := by
  unfold State.sramFlips
  dsimp only
  split
  · exact State.addD_keeps _ _ h
  · exact State.nominate_keeps _ (keeps_flips _ (fun m f => (64 * u + 8 * f.1.val,
      flipBit f.2.2.toNat (flipBit f.2.1.toNat (m.bytes (64 * u + 8 * f.1.val) 8)))) u .poisoned (State.addD_keeps _ _ (State.addD_keeps _ _ h)))

theorem State.readWith_keeps {r s : State} (k : Nat) (n : Nat) (e : List (Fin 72 × Byte)) (f : List (Fin 8 × Byte × Byte)) (h : Keeps r s) : Keeps r (State.readWith s k n e f).1 := by
  unfold State.readWith
  try dsimp only
  repeat' first
    | with_reducible assumption
    | with_reducible apply State.readMem_keeps
    | with_reducible apply State.sramFlips_keeps
    | with_reducible apply State.readUpset_keeps
    | split



theorem State.raiseCtx_keeps {r s : State} (c : CoreId) (x : CtxId) (step : W64) (code : Nat) (detail : Nat) (h : Keeps r s) : Keeps r (State.raiseCtx s c x step code detail) := by
  unfold State.raiseCtx
  try dsimp only
  repeat' first
    | with_reducible assumption
    | with_reducible apply State.raise_keeps

theorem State.applyHalt_keeps {r s : State} (c : CoreId) (x : CtxId) (status : Byte) (op : Byte) (src : Src) (slot : Nat) (step : W64) (resumeAt : Option (StreamId × Nat)) (h : Keeps r s) : Keeps r (State.applyHalt s c x status op src slot step resumeAt) := by
  unfold State.applyHalt
  try dsimp only
  repeat' first
    | with_reducible assumption
    | with_reducible apply State.modCtx_keeps
    | with_reducible apply State.raiseCtx_keeps
    | with_reducible apply keeps_ite

theorem State.closeJob_keeps {r s : State} (c : CoreId) (x : CtxId) (j : Job) (h : Keeps r s) : Keeps r (State.closeJob s c x j) := by
  unfold State.closeJob
  try dsimp only
  repeat' first
    | with_reducible assumption
    | with_reducible apply State.modCtx_keeps
    | with_reducible apply State.modCore_keeps
    | split

theorem State.finish_keeps {r s : State} (c : CoreId) (x : CtxId) (id : Nat) (status : Byte) (h : Keeps r s) : Keeps r (State.finish s c x id status) := by
  unfold State.finish
  try dsimp only
  repeat' first
    | with_reducible assumption
    | with_reducible apply State.applyHalt_keeps
    | with_reducible apply State.closeJob_keeps
    | split

theorem State.modStream_keeps {r s : State} (c : CoreId) (x : StreamId) (f : Stream → Stream) (h : Keeps r s) : Keeps r (State.modStream s c x f) := by
  unfold State.modStream
  try dsimp only
  repeat' first
    | with_reducible assumption
    | with_reducible apply State.modCore_keeps

theorem State.clearWait_keeps {r s : State} (c : CoreId) (st : StreamId) (h : Keeps r s) : Keeps r (State.clearWait s c st) := by
  unfold State.clearWait
  try dsimp only
  repeat' first
    | with_reducible assumption
    | with_reducible apply State.modStream_keeps

theorem State.loseWaits_keeps {r s : State} (c : CoreId) (k : Nat) (all : Bool) (h : Keeps r s) : Keeps r (State.loseWaits s c k all).1 := by
  unfold State.loseWaits
  try dsimp only
  repeat' first
    | with_reducible assumption
    | with_reducible apply State.finish_keeps
    | with_reducible apply State.clearWait_keeps
    | (with_reducible apply keeps_foldl_fst; intro _ _ _; try dsimp only)
    | split

theorem State.ownerBad_keeps {r s : State} (c : CoreId) (k : Nat) (h : Keeps r s) : Keeps r (s.ownerBad c k) := by
  unfold State.ownerBad
  exact State.loseWaits_keeps _ _ _ (State.raise_keeps _ _ _ _ _ _ (keeps_setObj h c k fun _ => by simp [Obj.ownerOk, Obj.setOwner]))

theorem State.readObj_keeps {r s : State} (c : CoreId) (k : Nat) (h : Keeps r s) : Keeps r (State.readObj s c k).1 := by
  unfold State.readObj
  try dsimp only
  repeat' first
    | with_reducible assumption
    | with_reducible apply State.ownerBad_keeps
    | with_reducible apply keeps_ite

theorem State.closeId_keeps {r s : State} (c : CoreId) (x : CtxId) (id : Nat) (h : Keeps r s) : Keeps r (State.closeId s c x id) := by
  unfold State.closeId
  try dsimp only
  repeat' first
    | with_reducible assumption
    | with_reducible apply State.closeJob_keeps
    | split

theorem State.meetPlain_keeps {r s : State} (c : CoreId) (k : Nat) (h : Keeps r s) : Keeps r (State.meetPlain s c k) := by
  unfold State.meetPlain
  try dsimp only
  repeat' first
    | with_reducible assumption
    | with_reducible apply State.closeId_keeps
    | with_reducible apply State.clearWait_keeps
    | with_reducible apply keeps_ite
    | (with_reducible apply keeps_foldl; intro _ _ _; try dsimp only)
    | split

theorem meetGo_keeps {r : State} (c : CoreId) (k : Nat) (n : Nat) {s : State} (h : Keeps r s) : Keeps r (meetGo c k n s) := by
  induction n generalizing s with
  | zero => exact State.meetPlain_keeps _ _ h
  | succ n ih =>
    simp only [meetGo]
    split
    · exact State.meetPlain_keeps _ _ h
    · split
      · exact State.ownerBad_keeps _ _ (State.meetPlain_keeps _ _ h)
      · apply ih
        apply State.closeId_keeps
        apply State.clearWait_keeps
        apply State.modCore_keeps
        exact keeps_setObj (State.meetPlain_keeps _ _ h) _ _ fun x => State.OwnersOk.obj x c k

theorem State.meetWaits_keeps {r s : State} (c : CoreId) (k : Nat) (h : Keeps r s) : Keeps r (State.meetWaits s c k) := by
  unfold State.meetWaits
  try dsimp only
  repeat' first
    | with_reducible assumption
    | with_reducible apply meetGo_keeps

theorem State.rebaseObj_keeps {r s : State} (c : CoreId) (k : Nat) (h : Keeps r s) : Keeps r (s.rebaseObj c k) := by
  unfold State.rebaseObj
  dsimp only
  split
  · exact State.ownerBad_keeps _ _ h
  · refine State.meetWaits_keeps _ _ (keeps_setObj h _ _ fun y => ?_)
    have z := State.OwnersOk.obj y c k
    unfold Obj.ownerOk at z ⊢
    exact z

theorem State.rebase_keeps {r s : State} (c : CoreId) (x : CtxId) (h : Keeps r s) : Keeps r (s.rebase c x) := by
  unfold State.rebase
  exact keeps_foldl (fun s k hs => State.rebaseObj_keeps _ _ hs) _ _ h

theorem State.completeCommit_keeps {r s : State} (c : CoreId) (x : CtxId) (j : Job) (void : Bool) (h : Keeps r s) : Keeps r (State.completeCommit s c x j void) := by
  unfold State.completeCommit
  try dsimp only
  repeat' first
    | with_reducible assumption
    | with_reducible apply State.modCtx_keeps
    | with_reducible apply State.rebase_keeps
    | with_reducible apply State.modCore_keeps
    | with_reducible apply State.applyHalt_keeps
    | with_reducible apply State.closeJob_keeps
    | with_reducible apply keeps_ite
    | split

theorem State.settleCtx_keeps {r s : State} (c : CoreId) (x : CtxId) (h : Keeps r s) {t : State} (e : State.settleCtx s c x = some t) : Keeps r t := by
  unfold State.settleCtx at e
  try dsimp only at e
  repeat' (split at e)
  all_goals first
    | (exfalso; exact none_some e)
    | (obtain rfl := Option.some.inj e)
    | skip
  all_goals try dsimp only
  all_goals repeat' first
    | with_reducible assumption
    | with_reducible apply State.closeId_keeps
    | with_reducible apply State.clearWait_keeps
    | with_reducible apply State.modCtx_keeps
    | with_reducible apply State.completeCommit_keeps

theorem settleGo_keeps {r : State} (x0 : Nat) {x1 : State} (h : Keeps r x1) : Keeps r (settleGo x0 x1) := by
  induction x0 generalizing x1 with
  | zero => simp only [settleGo]; repeat' first
    | with_reducible assumption
  | succ n ih => simp only [settleGo]; repeat' first
    | with_reducible assumption
    | with_reducible apply ih
    | with_reducible refine State.settleCtx_keeps (h := ?_) (e := by assumption)
    | (refine findSome_keeps (by assumption) ?_; intro _ _ _)
    | split

theorem State.settle_keeps {r s : State} (h : Keeps r s) : Keeps r (State.settle s) := by
  unfold State.settle
  try dsimp only
  repeat' first
    | with_reducible assumption
    | with_reducible apply settleGo_keeps

theorem State.takeRead_keeps {r s : State} (p : Packet) (e : List (Fin 72 × Byte)) (f : List (Fin 8 × Byte × Byte)) (h : Keeps r s) : Keeps r (State.takeRead s p e f) := by
  have g1 := @State.readWith_keeps r
  have g2 := @State.readObj_keeps r
  unfold State.takeRead
  generalize State.reqCheck = f0
  generalize State.readWith = f1 at g1 ⊢
  generalize State.readObj = f2 at g2 ⊢
  revert f0 f1 f2
  refine id ?_
  intro f0 f1 g1 f2 g2
  try dsimp only
  repeat' first
    | with_reducible assumption
    | with_reducible apply g2
    | with_reducible apply State.respond_keeps
    | with_reducible apply State.settle_keeps
    | with_reducible apply State.sendErr_keeps
    | with_reducible apply g1
    | with_reducible apply keeps_ite
    | split

theorem State.evalWaits_keeps {r s : State} (c : CoreId) (k : Nat) (h : Keeps r s) : Keeps r (State.evalWaits s c k) := by
  unfold State.evalWaits
  try dsimp only
  repeat' first
    | with_reducible assumption
    | with_reducible apply State.meetWaits_keeps
    | with_reducible apply State.loseWaits_keeps

theorem SyncOp.now_ownerOk (o : SyncOp) (b : Obj) (h : b.ownerOk = true) : (o.now b).ownerOk = true := by
  unfold SyncOp.now
  split <;> first | exact h | simp [Obj.ownerOk, Obj.setOwner, SyncOp.claimOn]

theorem SyncOp.ahead_ownerOk (o : SyncOp) (b : Obj) (h : b.ownerOk = true) : (o.ahead b).ownerOk = true := by
  unfold SyncOp.ahead
  split <;> first | exact h | simp [Obj.ownerOk, Obj.setOwner, SyncOp.claimOn]

theorem State.applySync_keeps {r s : State} (c : CoreId) (k : Nat) (o : SyncOp) (h : Keeps r s) : Keeps r (s.applySync c k o) := by
  unfold State.applySync
  dsimp only
  split
  · exact State.ownerBad_keeps _ _ h
  · split
    · exact State.incD_keeps _ (keeps_setObj h _ _ fun x => State.OwnersOk.obj x c k)
    · split
      · exact State.evalWaits_keeps _ _ (keeps_setObj h _ _ fun x => SyncOp.now_ownerOk _ _ (State.OwnersOk.obj x c k))
      · split
        · exact State.evalWaits_keeps _ _ (keeps_setObj h _ _ fun x => SyncOp.ahead_ownerOk _ _ (State.OwnersOk.obj x c k))
        · exact State.incD_keeps _ (keeps_setObj h _ _ fun x => State.OwnersOk.obj x c k)

theorem State.takeSync_keeps {r s : State} (p : Packet) (k : SyncKind) (h : Keeps r s) : Keeps r (State.takeSync s p k) := by
  unfold State.takeSync
  try dsimp only
  repeat' first
    | with_reducible assumption
    | with_reducible apply State.sendAck_keeps
    | with_reducible apply State.settle_keeps
    | with_reducible apply State.applySync_keeps
    | with_reducible apply State.sendErr_keeps
    | split

theorem State.lossNotice_keeps {r s : State} (p : PartId) (dev : W16) (core : Byte) (ctx : Bool) (epoch : W16) (h : Keeps r s) :
    Keeps r (s.lossNotice p dev core ctx epoch) := by
  have a (l : List (CoreId × Nat)) (t : State) (ht : Keeps r t) :
      Keeps r (l.foldl (fun s e => s.setObj e.1 e.2 { s.obj e.1 e.2 with epoch := epoch }) t) :=
    keeps_foldl (fun s e hs => keeps_setObj hs _ _ fun x => State.OwnersOk.obj x e.1 e.2) l t ht
  have b (l : List (CoreId × Nat)) (t : State) (ht : Keeps r t) : Keeps r (l.foldl (fun (a : State × Nat) e =>
      ((a.1.loseWaits e.1 e.2 false).1, a.2 + (a.1.loseWaits e.1 e.2 false).2)) (t, 0)).1 :=
    by
    refine keeps_foldl_fst (fun s e hs => ?_) l (t, 0) ht
    exact State.loseWaits_keeps _ _ _ hs
  unfold State.lossNotice
  dsimp only
  split
  · exact b _ _ (a _ _ (State.incD_keeps _ h))
  · exact State.raiseMgmt_keeps _ _ _ (State.addD_keeps _ _ (b _ _ (a _ _ (State.incD_keeps _ h))))

theorem State.modStack_keeps {r s : State} (n : District) (f : Stack → Stack) (h : Keeps r s) : Keeps r (State.modStack s n f) := by
  unfold State.modStack
  try dsimp only
  repeat' first
    | with_reducible assumption
    | with_reducible apply State.setStack_keeps

theorem State.setDist_keeps {r s : State} (n : District) (v : Dist) (h : Keeps r s) : Keeps r (State.setDist s n v) := by
  unfold State.setDist
  try dsimp only
  repeat' first
    | with_reducible assumption
    | (fail_if_no_progress (with_reducible apply keeps_mk))

theorem State.modDist_keeps {r s : State} (n : District) (f : Dist → Dist) (h : Keeps r s) : Keeps r (State.modDist s n f) := by
  unfold State.modDist
  try dsimp only
  repeat' first
    | with_reducible assumption
    | with_reducible apply State.setDist_keeps

theorem State.emits_keeps {r s : State} (o : List Out) (h : Keeps r s) : Keeps r (s.emits o) := keeps_emits h o

theorem foldS_keeps {r s : State} {α : Type} (l : List α) (f : State → α → State) (hf : ∀ s x, Keeps r s → Keeps r (f s x)) (h : Keeps r s) :
    Keeps r (foldS s l f) := keeps_foldl hf l s h

theorem State.setRing_keeps {r s : State} (w : Fin 64) (x2 : Ring) (h : Keeps r s) : Keeps r (State.setRing s w x2) := by
  unfold State.setRing
  try dsimp only
  repeat' first
    | with_reducible assumption
    | (fail_if_no_progress (with_reducible apply keeps_mk))

theorem State.modBlk_keeps {r s : State} (win : Fin 64) (seq : W32) (f : Block → Block) (h : Keeps r s) : Keeps r (State.modBlk s win seq f) := by
  unfold State.modBlk
  try dsimp only
  repeat' first
    | with_reducible assumption
    | with_reducible apply State.setRing_keeps

theorem State.blkEnd_keeps {r s : State} (win : Fin 64) (seq : W32) (status : Byte) (value : W64) (h : Keeps r s) : Keeps r (State.blkEnd s win seq status value) := by
  unfold State.blkEnd
  try dsimp only
  repeat' first
    | with_reducible assumption
    | with_reducible apply State.modBlk_keeps

theorem State.mclReq_keeps {r s : State} (opc : Nat) (part : PartId) (addr : W64) (lines : List (BitVec 512)) (lenM1 : Nat) (psn : Byte) (sink : MclSink) (h : Keeps r s) : Keeps r (State.mclReq s opc part addr lines lenM1 psn sink) := by
  unfold State.mclReq
  try dsimp only
  repeat' first
    | with_reducible assumption
    | with_reducible apply State.mclGo_keeps

theorem State.mgmtRefuse_keeps {r s : State} (p : PartId) (k : Chk) (h : Keeps r s) : Keeps r (State.mgmtRefuse s p k) := by
  unfold State.mgmtRefuse
  try dsimp only
  repeat' first
    | with_reducible assumption
    | with_reducible apply State.refuse_keeps
    | with_reducible apply State.raiseMgmt_keeps
    | with_reducible apply keeps_ite

end Sys2Proof.Machine
end

