-- ==== Sys2Proof/Laws/KeepsB.lean ====
section
/-!
SUPPORT. What each operation keeps (B): one lemma per operation, in the order of use.
-/
namespace Sys2Proof.Machine

theorem State.blkSend_keeps {r s : State} (w : Win) (b : Block) (h : Keeps r s) : Keeps r (State.blkSend s w b) := by
  unfold State.blkSend
  try dsimp only
  repeat' first
    | with_reducible assumption
    | with_reducible apply State.modBlk_keeps
    | with_reducible apply State.readMem_keeps
    | with_reducible apply State.mclReq_keeps
    | with_reducible apply State.mgmtRefuse_keeps
    | with_reducible apply keeps_ite
    | split

theorem State.fetchXd_keeps {r s : State} (c : CoreId) (st : StreamId) (h : Keeps r s) : Keeps r (State.fetchXd s c st) := by
  unfold State.fetchXd
  try dsimp only
  repeat' first
    | with_reducible assumption
    | with_reducible apply State.modStream_keeps
    | with_reducible apply keeps_ite

theorem State.blkFinish_keeps {r s : State} (w : Win) (b : Block) (h : Keeps r s) : Keeps r (State.blkFinish s w b) := by
  unfold State.blkFinish
  try dsimp only
  repeat' first
    | with_reducible assumption
    | with_reducible apply State.blkEnd_keeps
    | with_reducible apply State.merges_keeps
    | with_reducible apply State.fetchXd_keeps
    | with_reducible apply State.modStream_keeps
    | with_reducible apply keeps_ite
    | split

theorem blkPumpGo_keeps {r : State} (w : Win) (seq : W32) (x2 : Nat) {x3 : State} (h : Keeps r x3) : Keeps r (blkPumpGo w seq x2 x3) := by
  induction x2 generalizing x3 with
  | zero => simp only [blkPumpGo]; repeat' first
    | with_reducible assumption
  | succ n ih => simp only [blkPumpGo]; repeat' first
    | with_reducible assumption
    | with_reducible apply ih
    | with_reducible apply State.blkSend_keeps
    | with_reducible apply State.blkFinish_keeps
    | with_reducible apply keeps_ite
    | split

theorem State.blkPump_keeps {r s : State} (w : Win) (seq : W32) (h : Keeps r s) : Keeps r (State.blkPump s w seq) := by
  unfold State.blkPump
  try dsimp only
  repeat' first
    | with_reducible assumption
    | with_reducible apply blkPumpGo_keeps

theorem State.blkData_keeps {r s : State} (w : Win) (b : Block) (off : Nat) (l : List Byte) (ps : List Bool) (h : Keeps r s) : Keeps r (State.blkData s w b off l ps).1 := by
  have g2 := @State.writeMerge_keeps r
  unfold State.blkData
  generalize State.check = f0
  generalize State.appendSlot = f1
  generalize State.writeMerge = f2 at g2 ⊢
  revert f0 f1 f2
  refine id ?_
  intro f0 f1 f2 g2
  try dsimp only
  repeat' first
    | with_reducible assumption
    | with_reducible apply State.writeMem_keeps
    | with_reducible apply State.mgmtRefuse_keeps
    | with_reducible apply g2
    | (with_reducible apply keeps_foldl_fst; intro _ _ _; try dsimp only)
    | split

theorem State.refuseD_keeps {r s : State} (h : Keeps r s) : Keeps r (State.refuseD s).1 := by
  unfold State.refuseD
  try dsimp only
  repeat' first
    | with_reducible assumption
    | with_reducible apply State.incD_keeps

theorem State.portRoles_keeps {r s : State} (h : Keeps r s) : Keeps r (State.portRoles s) := by
  unfold State.portRoles
  try dsimp only
  repeat' first
    | with_reducible assumption
    | with_reducible apply State.setDN_keeps
    | with_reducible apply keeps_ite
    | (with_reducible apply keeps_foldl; intro _ _ _; try dsimp only)

theorem State.planRefuse_keeps {r s : State} (p : PartId) (cause : Nat) (h : Keeps r s) : Keeps r (State.planRefuse s p cause) := by
  unfold State.planRefuse
  try dsimp only
  repeat' first
    | with_reducible assumption
    | with_reducible apply State.portRoles_keeps
    | with_reducible apply State.setDN_keeps
    | with_reducible apply State.raiseMgmt_keeps
    | with_reducible apply keeps_ite

theorem State.planDecide_keeps {r s : State} (p : PartId) (final : Bool) (h : Keeps r s) : Keeps r (State.planDecide s p final) := by
  unfold State.planDecide
  try dsimp only
  repeat' first
    | with_reducible assumption
    | with_reducible apply State.planRefuse_keeps
    | with_reducible apply State.setDN_keeps
    | with_reducible apply State.portRoles_keeps
    | with_reducible apply keeps_ite

theorem State.planLoad_keeps {r s : State} (p : PartId) (h : Keeps r s) : Keeps r (State.planLoad s p) := by
  have g1 := @State.readMem_keeps r
  unfold State.planLoad
  generalize State.check = f0
  generalize State.readMem = f1 at g1 ⊢
  revert f0 f1
  refine id ?_
  intro f0 f1 g1
  try dsimp only
  repeat' first
    | with_reducible assumption
    | with_reducible apply State.setDN_keeps
    | with_reducible apply State.portRoles_keeps
    | with_reducible apply State.planRefuse_keeps
    | with_reducible apply g1
    | with_reducible apply State.modPart_keeps
    | with_reducible apply State.planDecide_keeps
    | with_reducible apply State.mgmtRefuse_keeps
    | with_reducible apply keeps_ite
    | split

theorem State.setReq_keeps {r s : State} (k : Nat) (x2 : Option Req) (h : Keeps r s) : Keeps r (State.setReq s k x2) := by
  unfold State.setReq
  try dsimp only
  repeat' first
    | with_reducible assumption
    | (fail_if_no_progress (with_reducible apply keeps_mk))

theorem State.sendRsv_keeps {r s : State} (p : PartId) (g : Group) (x3 : List Nat) (plane : Nat) (release : Bool) (h : Keeps r s) : Keeps r (State.sendRsv s p g x3 plane release) := by
  unfold State.sendRsv
  try dsimp only
  repeat' first
    | with_reducible assumption
    | with_reducible apply State.setReq_keeps
    | with_reducible apply State.toPort_keeps
    | (fail_if_no_progress (with_reducible apply keeps_mk))
    | split

theorem State.modGroup_keeps {r s : State} (p : PartId) (gid : W16) (f : Group → Group) (h : Keeps r s) : Keeps r (State.modGroup s p gid f) := by
  unfold State.modGroup
  try dsimp only
  repeat' first
    | with_reducible assumption
    | with_reducible apply State.modPart_keeps

theorem State.releaseGroup_keeps {r s : State} (p : PartId) (g : Group) (h : Keeps r s) : Keeps r (State.releaseGroup s p g) := by
  unfold State.releaseGroup
  try dsimp only
  repeat' first
    | with_reducible assumption
    | with_reducible apply State.sendRsv_keeps
    | with_reducible apply State.modGroup_keeps
    | with_reducible apply keeps_ite
    | (with_reducible apply keeps_foldl; intro _ _ _; try dsimp only)
    | split

theorem State.tableRead_keeps {r s : State} (p : PartId) (a : W64) (off : Nat) (len : Nat) (h : Keeps r s) : Keeps r (State.tableRead s p a off len).1 := by
  unfold State.tableRead
  try dsimp only
  repeat' first
    | with_reducible assumption
    | with_reducible apply State.readMem_keeps
    | with_reducible apply State.mgmtRefuse_keeps
    | split

theorem State.parseGroup_keeps {r s : State} (p : PartId) (a : W64) (l : List Byte) (h : Keeps r s) : Keeps r (State.parseGroup s p a l).1 := by
  unfold State.parseGroup
  try dsimp only
  repeat' first
    | with_reducible assumption
    | with_reducible apply State.tableRead_keeps
    | with_reducible refine keeps_fst (by with_reducible assumption) ?_
    | split

theorem State.parseTable_keeps {r s : State} (p : PartId) (a : W64) (h : Keeps r s) : Keeps r (State.parseTable s p a).1 := by
  unfold State.parseTable
  try dsimp only
  repeat' first
    | with_reducible assumption
    | with_reducible apply State.tableRead_keeps
    | with_reducible apply State.parseGroup_keeps
    | (with_reducible apply keeps_foldl_fst; intro _ _ _; try dsimp only)
    | with_reducible refine keeps_fst (by with_reducible assumption) ?_
    | split

theorem State.reserveGroup_keeps {r s : State} (p : PartId) (planes : List Nat) (g : Group) (h : Keeps r s) : Keeps r (State.reserveGroup s p planes g) := by
  unfold State.reserveGroup
  try dsimp only
  repeat' first
    | with_reducible assumption
    | with_reducible apply State.modGroup_keeps
    | with_reducible apply State.sendRsv_keeps
    | with_reducible apply keeps_ite
    | (with_reducible apply keeps_foldl; intro _ _ _; try dsimp only)

theorem State.keepOutcome_keeps {r s : State} (p : PartId) (gid : W16) (rack : Nat) (plane : Nat) (grant : Option W16) (h : Keeps r s) : Keeps r (State.keepOutcome s p gid rack plane grant) := by
  unfold State.keepOutcome
  try dsimp only
  repeat' first
    | with_reducible assumption
    | with_reducible apply State.modPart_keeps

theorem State.planGroups_keeps {r s : State} (p : PartId) (h : Keeps r s) : Keeps r (State.planGroups s p) := by
  unfold State.planGroups
  try dsimp only
  repeat' first
    | with_reducible assumption
    | with_reducible apply State.modPart_keeps
    | with_reducible apply State.addD_keeps
    | with_reducible apply State.writeMerge_keeps
    | with_reducible apply State.setDN_keeps
    | with_reducible apply State.setD_keeps
    | with_reducible apply keeps_ite

theorem State.groupsAgain_keeps {r s : State} (p : PartId) (h : Keeps r s) : Keeps r (State.groupsAgain s p) := by
  unfold State.groupsAgain
  try dsimp only
  repeat' first
    | with_reducible assumption
    | with_reducible apply State.planGroups_keeps
    | with_reducible apply keeps_ite

theorem State.reserved_keeps {r s : State} (p : PartId) (gid : W16) (rack : Nat) (plane : Nat) (grant : Option W16) (h : Keeps r s) : Keeps r (State.reserved s p gid rack plane grant) := by
  unfold State.reserved
  try dsimp only
  repeat' first
    | with_reducible assumption
    | with_reducible apply State.keepOutcome_keeps
    | with_reducible apply State.modGroup_keeps
    | with_reducible apply State.releaseGroup_keeps
    | with_reducible apply State.groupsAgain_keeps
    | with_reducible apply keeps_ite
    | split

theorem State.groupLoad_keeps {r s : State} (p : PartId) (h : Keeps r s) : Keeps r (State.groupLoad s p) := by
  unfold State.groupLoad
  try dsimp only
  repeat' first
    | with_reducible assumption
    | with_reducible apply State.setDN_keeps
    | with_reducible apply State.releaseGroup_keeps
    | with_reducible apply State.parseTable_keeps
    | with_reducible apply State.modPart_keeps
    | with_reducible apply State.reserveGroup_keeps
    | with_reducible apply State.reserved_keeps
    | with_reducible apply State.groupsAgain_keeps
    | with_reducible apply keeps_ite
    | (with_reducible apply keeps_foldl; intro _ _ _; try dsimp only)
    | split

theorem State.initStart_keeps {r s : State} (h : Keeps r s) : Keeps r s.initStart := by
  have wf (l : List District) (pat : W64) (m : Mem) (hm : m.wf = true) : (l.foldl (fun (m : Mem) (d : District) => m.fillStack d.val pat) m).wf = true := by
    induction l generalizing m with
    | nil => exact hm
    | cons d t ih => exact ih _ (Mem.wf_fillStack _ _ _ hm)
  unfold State.initStart
  split
  · exact State.incD_keeps _ h
  · exact State.setDN_keeps _ _ (keeps_foldl (fun s d hs => State.modStack_keeps _ _ hs) _ _ (keeps_mem h (wf _ _ _)))

theorem State.logClear_keeps {r s : State} (h : Keeps r s) : Keeps r (State.logClear s) := by
  unfold State.logClear
  try dsimp only
  repeat' first
    | with_reducible assumption
    | with_reducible apply State.modStack_keeps
    | with_reducible apply State.setDN_keeps
    | (with_reducible apply keeps_foldl; intro _ _ _; try dsimp only)

theorem State.repairNominate_keeps {r s : State} (v : W64) (h : Keeps r s) : Keeps r (State.repairNominate s v) := by
  unfold State.repairNominate
  try dsimp only
  repeat' first
    | with_reducible assumption
    | with_reducible apply State.nominateRow_keeps

theorem State.quarNominate_keeps {r s : State} (v : W64) (h : Keeps r s) : Keeps r (State.quarNominate s v) := by
  unfold State.quarNominate
  try dsimp only
  repeat' first
    | with_reducible assumption
    | with_reducible apply State.nominate_keeps

theorem State.retarget_keeps {r s : State} (d : District) (h : Keeps r s) : Keeps r (State.retarget s d) := by
  unfold State.retarget
  try dsimp only
  repeat' first
    | with_reducible assumption
    | with_reducible apply State.modDist_keeps
    | with_reducible apply keeps_ite

theorem State.retargetAll_keeps {r s : State} (h : Keeps r s) : Keeps r (State.retargetAll s) := by
  unfold State.retargetAll
  try dsimp only
  repeat' first
    | with_reducible assumption
    | with_reducible apply State.retarget_keeps
    | (with_reducible apply keeps_foldl; intro _ _ _; try dsimp only)

theorem State.entryAction_keeps {r s : State} (p : Option PartId) (idx : Nat) (sub : Nat) (v : W64) (h : Keeps r s) : Keeps r (State.entryAction s p idx sub v) := by
  unfold State.entryAction
  try dsimp only
  repeat' first
    | with_reducible assumption
    | with_reducible apply State.planLoad_keeps
    | with_reducible apply State.groupLoad_keeps
    | with_reducible apply State.modPart_keeps
    | with_reducible apply State.initStart_keeps
    | with_reducible apply State.logClear_keeps
    | with_reducible apply State.repairNominate_keeps
    | with_reducible apply State.quarNominate_keeps
    | with_reducible apply State.retargetAll_keeps
    | (fail_if_no_progress (with_reducible apply keeps_mk))
    | with_reducible apply keeps_ite
    | split

theorem State.ignored_keeps {r s : State} (p : PartId) (idx : Nat) (sub : Nat) (h : Keeps r s) {t : State} (e : State.ignored s p idx sub = some t) : Keeps r t := by
  unfold State.ignored at e
  try dsimp only at e
  repeat' (split at e)
  all_goals first
    | (exfalso; exact none_some e)
    | (obtain rfl := Option.some.inj e)
    | skip
  all_goals try dsimp only
  all_goals repeat' first
    | with_reducible assumption
    | with_reducible apply State.setDN_keeps

theorem State.dictWrite_keeps {r s : State} (x1 : Route) (idx : Nat) (sub : Nat) (v : W64) (h : Keeps r s) : Keeps r (State.dictWrite s x1 idx sub v).1 := by
  unfold State.dictWrite
  try dsimp only
  repeat' first
    | with_reducible assumption
    | with_reducible apply State.incD_keeps
    | with_reducible apply State.refuseD_keeps
    | with_reducible apply State.settle_keeps
    | with_reducible apply State.entryAction_keeps
    | with_reducible apply State.setD_keeps
    | (fail_if_no_progress (with_reducible refine keeps_sec ?_ (Fuses.Le.refl _)))
    | refine State.ignored_keeps (h := ?_) (e := by assumption)
    | exact (none_some (by assumption)).elim
    | split

theorem State.pairFault_keeps {r s : State} (own : Option PartId) (h : Keeps r s) : Keeps r (State.pairFault s own) := by
  unfold State.pairFault
  try dsimp only
  repeat' first
    | with_reducible assumption
    | with_reducible apply State.settle_keeps
    | with_reducible apply State.raiseMgmt_keeps
    | with_reducible apply State.moduleFault_keeps
    | split

theorem State.dictRead_keeps {r s : State} (x1 : Route) (idx : Nat) (sub : Nat) (h : Keeps r s) : Keeps r (State.dictRead s x1 idx sub).1 := by
  unfold State.dictRead
  try dsimp only
  repeat' first
    | with_reducible assumption
    | with_reducible apply State.incD_keeps
    | with_reducible apply State.refuseD_keeps
    | with_reducible apply State.pairFault_keeps
    | dsimp only
    | split

theorem State.postRecord_keeps {r s : State} (p : PartId) (rec : BitVec 512) (irq : Bool) (note : Option (CoreId × CtxId × Nat)) (h : Keeps r s) : Keeps r (State.postRecord s p rec irq note) := by
  unfold State.postRecord
  try dsimp only
  repeat' first
    | with_reducible assumption
    | with_reducible apply State.flushMcl_keeps
    | (fail_if_no_progress (with_reducible apply keeps_mk))

theorem State.postDone_keeps {r s : State} (p : PartId) (h : Keeps r s) : Keeps r (State.postDone s p) := by
  unfold State.postDone
  try dsimp only
  repeat' first
    | with_reducible assumption
    | with_reducible apply State.flushMcl_keeps
    | (fail_if_no_progress (with_reducible apply keeps_mk))

theorem State.setDf_keeps {r s : State} (key : Nat) (v : W64) (h : Keeps r s) : Keeps r (State.setDf s key v) := by
  unfold State.setDf
  try dsimp only
  repeat' first
    | with_reducible assumption
    | (fail_if_no_progress (with_reducible apply keeps_mk))

theorem State.holdLine_keeps {r s : State} (w : Win) (line : Nat) (h : Keeps r s) : Keeps r (State.holdLine s w line) := by
  unfold State.holdLine
  try dsimp only
  repeat' first
    | with_reducible assumption
    | with_reducible apply State.mclReq_keeps

theorem State.holdSlot_keeps {r s : State} (w : Win) (slot : Nat) (h : Keeps r s) : Keeps r (State.holdSlot s w slot) := by
  unfold State.holdSlot
  try dsimp only
  repeat' first
    | with_reducible assumption
    | with_reducible apply State.holdLine_keeps

theorem State.readCons_keeps {r s : State} (w : Win) (h : Keeps r s) : Keeps r (State.readCons s w) := by
  unfold State.readCons
  try dsimp only
  repeat' first
    | with_reducible assumption
    | with_reducible apply State.mclReq_keeps

theorem State.holdWin_keeps {r s : State} (w : Win) (h : Keeps r s) : Keeps r (State.holdWin s w) := by
  unfold State.holdWin
  try dsimp only
  repeat' first
    | with_reducible assumption
    | with_reducible apply State.holdSlot_keeps
    | with_reducible apply State.readCons_keeps
    | with_reducible apply keeps_ite
    | (with_reducible apply keeps_foldl; intro _ _ _; try dsimp only)

theorem State.startWin_keeps {r s : State} (w : Win) (h : Keeps r s) : Keeps r (State.startWin s w) := by
  unfold State.startWin
  try dsimp only
  repeat' first
    | with_reducible assumption
    | with_reducible apply State.setRing_keeps
    | with_reducible apply State.setComp_keeps
    | with_reducible apply State.holdWin_keeps
    | (fail_if_no_progress (with_reducible apply keeps_mk))
    | with_reducible apply keeps_ite

theorem State.latchWindows_keeps {r s : State} (h : Keeps r s) : Keeps r (State.latchWindows s) := by
  unfold State.latchWindows
  try dsimp only
  repeat' first
    | with_reducible assumption
    | with_reducible apply State.setDf_keeps
    | with_reducible apply State.startWin_keeps
    | with_reducible apply State.postDone_keeps
    | with_reducible apply keeps_ite
    | (with_reducible apply keeps_foldl; intro _ _ _; try dsimp only)

theorem State.completeBlk_keeps {r s : State} (w : Win) (b : Block) (st : Byte) (value : W64) (h : Keeps r s) : Keeps r (State.completeBlk s w b st value) := by
  unfold State.completeBlk
  try dsimp only
  repeat' first
    | with_reducible assumption
    | with_reducible apply State.modBlk_keeps
    | with_reducible apply State.incD_keeps
    | with_reducible apply State.postRecord_keeps
    | with_reducible apply State.setRing_keeps
    | with_reducible apply State.postDone_keeps
    | with_reducible apply State.latchWindows_keeps
    | with_reducible apply keeps_ite

theorem State.abandon_keeps {r s : State} (w : Win) (b : Block) (h : Keeps r s) : Keeps r (State.abandon s w b) := by
  unfold State.abandon
  try dsimp only
  repeat' first
    | with_reducible assumption
    | with_reducible apply State.merges_keeps
    | with_reducible apply State.blkEnd_keeps
    | with_reducible apply State.modBlk_keeps
    | with_reducible apply keeps_ite

theorem State.abandonAll_keeps {r s : State} (h : Keeps r s) : Keeps r (State.abandonAll s) := by
  unfold State.abandonAll
  try dsimp only
  repeat' first
    | with_reducible assumption
    | with_reducible apply State.abandon_keeps
    | (with_reducible apply keeps_foldl; intro _ _ _; try dsimp only)

theorem State.coldState_keeps {r s : State} (board : Board) (h : Keeps r s) : Keeps r (s.coldState board) :=
  ⟨h.1, fun _ => Mem.wf_reset, fun _ e he => by simp [State.coldState, State.reset] at he, h.4, h.5⟩

theorem State.powerOff_keeps {r s : State} (board : Board) (h : Keeps r s) : Keeps r (s.powerOff board) := by
  have a := State.coldState_keeps board h
  exact ⟨a.1, a.2, a.3, a.4, a.5⟩

theorem State.lockOut_keeps {r s : State} (h : Keeps r s) : Keeps r (State.lockOut s) := by
  unfold State.lockOut
  try dsimp only
  repeat' first
    | with_reducible assumption
    | with_reducible apply State.powerOff_keeps

theorem State.setSpare_keeps {r s : State} (d : Nat) (v : BitVec 6) (h : Keeps r s) : Keeps r (State.setSpare s d v) := by
  unfold State.setSpare
  try dsimp only
  repeat' first
    | with_reducible assumption
    | (fail_if_no_progress (with_reducible apply keeps_mk))

theorem State.quarantine_keeps {r s : State} (n : Fin 272) (h : Keeps r s) : Keeps r (State.quarantine s n) := by
  unfold State.quarantine
  try dsimp only
  repeat' first
    | with_reducible assumption
    | with_reducible apply State.setSpare_keeps
    | (fail_if_no_progress (with_reducible apply keeps_mk))
    | with_reducible apply keeps_ite

theorem State.showOffer_keeps {r s : State} (h : Keeps r s) : Keeps r (State.showOffer s) := by
  unfold State.showOffer
  try dsimp only
  repeat' first
    | with_reducible assumption
    | with_reducible apply State.setDN_keeps
    | (with_reducible apply keeps_foldl; intro _ _ _; try dsimp only)

theorem State.applyQuar_keeps {r s : State} (h : Keeps r s) : Keeps r (State.applyQuar s) := by
  unfold State.applyQuar
  try dsimp only
  repeat' first
    | with_reducible assumption
    | with_reducible apply State.quarantine_keeps
    | with_reducible apply State.showOffer_keeps
    | (fail_if_no_progress (with_reducible apply keeps_mk))
    | (with_reducible apply keeps_foldl; intro _ _ _; try dsimp only)

theorem State.setBoot_keeps {r s : State} (lo : Nat) (len : Nat) (v : Nat) (h : Keeps r s) : Keeps r (State.setBoot s lo len v) := by
  unfold State.setBoot
  try dsimp only
  repeat' first
    | with_reducible assumption
    | with_reducible apply State.setDN_keeps

theorem Fuses.Le.plus (f g : Fuses) : f.Le (f.plus g) := by
  have or3 {n : Nat} (a b : BitVec n) : a ||| (a ||| b) = a ||| b := by rw [← BitVec.or_assoc, BitVec.or_self]
  exact ⟨id, id, or3 _ _, or3 _ _, or3 _ _, or3 _ _⟩

theorem Fuses.Le.locked {f g : Fuses} (h : f.Le g) : f.Le { g with lock := true, debugLock := true } :=
  ⟨fun _ => rfl, fun _ => rfl, h.3, h.4, h.5, h.6⟩

theorem State.programFuses_keeps {r s : State} (h : Keeps r s) : Keeps r s.programFuses := by
  have hs : Keeps r (s.setDN bootKey 0) := State.setDN_keeps _ _ h
  unfold State.programFuses
  dsimp only
  split
  · exact keeps_sec hs (Fuses.Le.refl _)
  · refine State.setBoot_keeps _ _ _ (State.setBoot_keeps _ _ _ ⟨hs.1, hs.2, hs.3, hs.4, hs.5.trans ?_⟩)
    show s.sec.fuses.Le _
    dsimp only
    repeat' first
      | with_reducible exact Fuses.Le.plus _ _
      | with_reducible exact Fuses.Le.locked (Fuses.Le.plus _ _)
      | split

theorem State.copyRow_keeps {r s : State} (d : District) (x2 : RowAddr) (h : Keeps r s) : Keeps r (State.copyRow s d x2) := by
  unfold State.copyRow
  try dsimp only
  repeat' first
    | with_reducible assumption
    | with_reducible apply State.decodeUnit_keeps
    | with_reducible apply keeps_ite
    | (with_reducible apply keeps_foldl; intro _ _ _; try dsimp only)

theorem State.applyRepairs_keeps {r s : State} (keep : Bool) (d : District) (h : Keeps r s) : Keeps r (State.applyRepairs s keep d) := by
  unfold State.applyRepairs
  try dsimp only
  repeat' first
    | with_reducible assumption
    | with_reducible apply State.modStack_keeps
    | with_reducible apply State.degrade_keeps
    | with_reducible apply State.incD_keeps
    | with_reducible apply State.copyRow_keeps
    | with_reducible apply keeps_ite
    | (with_reducible apply keeps_foldl; intro _ _ _; try dsimp only)

theorem State.bootRom_keeps {r s : State} (keep : Bool) (h : Keeps r s) : Keeps r (State.bootRom s keep) := by
  unfold State.bootRom
  try dsimp only
  repeat' first
    | with_reducible assumption
    | with_reducible apply State.applyQuar_keeps
    | with_reducible apply State.programFuses_keeps
    | with_reducible apply State.applyRepairs_keeps
    | (with_reducible apply keeps_foldl; intro _ _ _; try dsimp only)

theorem State.coldReset_keeps {r s : State} (cause : Nat) (h : Keeps r s) : Keeps r (State.coldReset s cause) := by
  unfold State.coldReset
  try dsimp only
  repeat' first
    | with_reducible assumption
    | with_reducible apply State.bootRom_keeps
    | with_reducible apply State.coldState_keeps

theorem State.useShadow_keeps {r s : State} (h : Keeps r s) : Keeps r s.useShadow := by
  unfold State.useShadow
  split
  · exact h
  · dsimp only
    split
    · exact State.logFault_keeps _ (keeps_sec h (Fuses.Le.refl _))
    · exact State.moduleFault_keeps _ (State.logFault_keeps _ (keeps_sec h (Fuses.Le.refl _)))

theorem State.setCrit_keeps {r s : State} (key : Nat) (v : W64) (h : Keeps r s) : Keeps r (State.setCrit s key v) := by
  unfold State.setCrit
  try dsimp only
  repeat' first
    | with_reducible assumption
    | (fail_if_no_progress (with_reducible apply keeps_mk))

theorem State.writeItems_keeps {r s : State} (is : List DocItem) (h : Keeps r s) : Keeps r (State.writeItems s is) := by
  unfold State.writeItems
  try dsimp only
  repeat' first
    | with_reducible assumption
    | with_reducible apply State.setCrit_keeps
    | (with_reducible apply keeps_foldl; intro _ _ _; try dsimp only)

theorem State.dropEntries_keeps {r s : State} (p : PartId) (h : Keeps r s) : Keeps r (State.dropEntries s p) := by
  unfold State.dropEntries
  try dsimp only
  repeat' first
    | with_reducible assumption
    | (fail_if_no_progress (with_reducible apply keeps_mk))

theorem State.clearPart_keeps {r s : State} (p : PartId) (h : Keeps r s) : Keeps r (State.clearPart s p) := by
  unfold State.clearPart
  try dsimp only
  repeat' first
    | with_reducible assumption
    | with_reducible apply State.releaseGroup_keeps
    | with_reducible apply State.modPart_keeps
    | with_reducible apply State.setDN_keeps
    | (fail_if_no_progress (with_reducible apply keeps_mk))
    | (with_reducible apply keeps_foldl; intro _ _ _; try dsimp only)

theorem State.dropReqs_keeps {r s : State} (c : CoreId) (x : CtxId) (h : Keeps r s) : Keeps r (State.dropReqs s c x) := by
  unfold State.dropReqs
  try dsimp only
  repeat' first
    | with_reducible assumption
    | (fail_if_no_progress (with_reducible apply keeps_mk))

theorem State.clearObjs_keeps {r s : State} (c : CoreId) (f : Nat → Bool) (h : Keeps r s) : Keeps r (s.clearObjs c f) :=
  keeps_objs_filter h _

theorem State.resetCtx_keeps {r s : State} (c : CoreId) (x : CtxId) (h : Keeps r s) : Keeps r (State.resetCtx s c x) := by
  unfold State.resetCtx
  try dsimp only
  repeat' first
    | with_reducible assumption
    | with_reducible apply State.dropReqs_keeps
    | with_reducible apply State.clearObjs_keeps
    | with_reducible apply State.modCore_keeps

theorem State.sendLoss_keeps {r s : State} (p : PartId) (devs : List W16) (dev : W16) (core : Byte) (ctx : Bool) (epoch : W16) (h : Keeps r s) : Keeps r (State.sendLoss s p devs dev core ctx epoch) := by
  unfold State.sendLoss
  try dsimp only
  repeat' first
    | with_reducible assumption
    | with_reducible apply State.sendMsg_keeps
    | with_reducible apply State.lossNotice_keeps
    | (with_reducible apply keeps_foldl; intro _ _ _; try dsimp only)

theorem State.notify_keeps {r s : State} (devs : List W16) (cs : List (PartId × CoreId × CtxId)) (h : Keeps r s) : Keeps r (State.notify s devs cs) := by
  unfold State.notify
  try dsimp only
  repeat' first
    | with_reducible assumption
    | with_reducible apply State.sendLoss_keeps
    | (with_reducible apply keeps_foldl; intro _ _ _; try dsimp only)

theorem State.partReset_keeps {r s : State} (p : PartId) (h : Keeps r s) : Keeps r (State.partReset s p) := by
  unfold State.partReset
  try dsimp only
  repeat' first
    | with_reducible assumption
    | with_reducible apply State.clearPart_keeps
    | with_reducible apply State.resetCtx_keeps
    | with_reducible apply State.notify_keeps
    | (with_reducible apply keeps_foldl; intro _ _ _; try dsimp only)

theorem State.removePart_keeps {r s : State} (p : PartId) (h : Keeps r s) : Keeps r (State.removePart s p) := by
  unfold State.removePart
  try dsimp only
  repeat' first
    | with_reducible assumption
    | with_reducible apply State.dropEntries_keeps
    | with_reducible apply State.partReset_keeps

theorem State.coreReset_keeps {r s : State} (c : CoreId) (h : Keeps r s) : Keeps r (s.coreReset c) := by
  have a := State.dropReqs_keeps c .filler (State.dropReqs_keeps c .primary
    (State.clearObjs_keeps c (fun _ => true) (State.modCore_keeps c Core.cleared h)))
  unfold State.coreReset
  refine keeps_foldl (fun s e hs => State.notify_keeps _ _ hs) _ _ ?_
  have b := keeps_mem a (Mem.wf_zeroCore _ c)
  have d (l : List (PartId × CoreId × CtxId)) (t : State) (ht : Keeps r t) : Keeps r (l.foldl (fun s e =>
      s.modPart e.1 (fun q => { q with calls := q.calls.filter (fun k => k.core != c) })) t) :=
    keeps_foldl (fun s e hs => State.modPart_keeps _ _ hs) l t ht
  exact keeps_mk (d _ _ b) _ _ _ _ _ _ _ _ _ _ _ _ _ _ _ _ _ _ _ _ _ _ _

theorem State.matchCores_keeps {r s : State} (h : Keeps r s) : Keeps r (State.matchCores s) := by
  unfold State.matchCores
  try dsimp only
  repeat' first
    | with_reducible assumption
    | with_reducible apply State.coreReset_keeps
    | with_reducible apply State.modCore_keeps
    | with_reducible apply keeps_ite
    | (with_reducible apply keeps_foldl; intro _ _ _; try dsimp only)

theorem State.install_keeps {r s : State} (l : List Byte) (h : Keeps r s) : Keeps r (s.install l) := by
  unfold State.install
  dsimp only
  refine keeps_sec ?_ ?_
  · repeat' first
    | with_reducible assumption
    | with_reducible apply State.portRoles_keeps
    | with_reducible apply State.latchWindows_keeps
    | with_reducible apply State.incD_keeps
    | with_reducible apply State.setDN_keeps
    | with_reducible apply State.matchCores_keeps
    | with_reducible apply State.writeItems_keeps
    | (with_reducible apply keeps_foldl; intro _ _ _)
    | with_reducible apply State.removePart_keeps
  · with_reducible exact Fuses.Le.refl _

theorem State.warmNotices_keeps {r s : State} (h : Keeps r s) : Keeps r (State.warmNotices s) := by
  unfold State.warmNotices
  try dsimp only
  repeat' first
    | with_reducible assumption
    | with_reducible apply State.sendLoss_keeps
    | (with_reducible apply keeps_foldl; intro _ _ _; try dsimp only)

theorem State.warmReset_keeps {r s : State} (cause : Nat) (h : Keeps r s) : Keeps r (s.warmReset cause) := by
  have hw := State.warmNotices_keeps h
  unfold State.warmReset
  generalize s.warmNotices = q at *
  apply State.bootRom_keeps
  refine keeps_foldl (fun a p ha => keeps_foldl (fun b k hb => State.setDN_keeps _ _ hb) _ _ ha) _ _ ?_
  constructor
  · exact hw.1
  · exact fun m => Mem.wf_warm _ (hw.2 m)
  · exact fun _ e he => by cases he
  · exact hw.4
  · exact hw.5

theorem State.requestWarm_keeps {r s : State} (cause : Nat) (h : Keeps r s) : Keeps r (State.requestWarm s cause) := by
  unfold State.requestWarm
  try dsimp only
  repeat' first
    | with_reducible assumption
    | with_reducible apply State.coldReset_keeps
    | with_reducible apply State.warmReset_keeps
    | with_reducible apply keeps_ite

theorem State.applyUpdate_keeps {r s : State} (b : Nat) (h : Keeps r s) : Keeps r (s.applyUpdate b) := by
  have hr := fun (k n : Nat) (s : State) (hs : Keeps r s) => State.readMem_keeps k n hs
  unfold State.applyUpdate
  split
  · exact h
  · generalize State.readMem = f at hr ⊢
    dsimp only
    split
    · exact hr _ _ _ h
    · refine State.setBoot_keeps _ _ _ (State.setBoot_keeps _ _ _ (State.writeMerge_keeps _ _ _ _ (keeps_sec (hr _ _ _ (hr _ _ _ h)) ?_)))
      repeat' (first | with_reducible exact Fuses.Le.refl _ | split)

theorem State.tkRuns_keeps {r s : State} (i : Image) (h : Keeps r s) : Keeps r (s.tkRuns i) :=
  ⟨h.1, h.2, h.3, h.4, h.5.trans (Fuses.Le.refl _)⟩

theorem State.mclTrainMsg_keeps {r s : State} (choice : Nat) (h : Keeps r s) : Keeps r (State.mclTrainMsg s choice) := by
  unfold State.mclTrainMsg
  try dsimp only
  repeat' first
    | with_reducible assumption
    | with_reducible apply State.emit_keeps

theorem State.mclTrain_keeps {r s : State} (h : Keeps r s) : Keeps r (State.mclTrain s) := by
  unfold State.mclTrain
  try dsimp only
  repeat' first
    | with_reducible assumption
    | with_reducible apply State.setDN_keeps
    | with_reducible apply State.mclTrainMsg_keeps
    | (fail_if_no_progress (with_reducible apply keeps_mk))

theorem State.startKernel_keeps {r s : State} (i : Image) (n : Nat) (h : Keeps r s) : Keeps r (State.startKernel s i n) := by
  unfold State.startKernel
  try dsimp only
  repeat' first
    | with_reducible assumption
    | with_reducible apply State.mclTrain_keeps
    | with_reducible apply State.setDN_keeps
    | with_reducible apply State.tkRuns_keeps
    | with_reducible apply State.setBoot_keeps
    | (with_reducible apply keeps_foldl; intro _ _ _; try dsimp only)

theorem State.reloadPlans_keeps {r s : State} (h : Keeps r s) : Keeps r (State.reloadPlans s) := by
  unfold State.reloadPlans
  try dsimp only
  repeat' first
    | with_reducible assumption
    | with_reducible apply State.planLoad_keeps
    | with_reducible apply State.modPart_keeps
    | with_reducible apply keeps_ite
    | (with_reducible apply keeps_foldl; intro _ _ _; try dsimp only)

theorem Fuses.le_arb (f : Fuses) (x : W32) : f.Le { f with arb := f.arb ||| x } :=
  ⟨id, id, by rw [← BitVec.or_assoc, BitVec.or_self], BitVec.or_self, BitVec.or_self, BitVec.or_self⟩
theorem State.le_risenFuses (s : State) (i : Image) : s.sec.fuses.Le (s.risenFuses i) := by
  unfold State.risenFuses
  split
  · exact Fuses.le_arb _ _
  · exact Fuses.Le.refl _
theorem State.sfRuns_keeps {r s : State} (i : Image) (h : Keeps r s) : Keeps r (s.sfRuns i) :=
  ⟨h.1, h.2, h.3, h.4, h.5.trans (State.le_risenFuses _ _)⟩

theorem State.regroup_keeps {r s : State} (h : Keeps r s) : Keeps r (State.regroup s) := by
  unfold State.regroup
  try dsimp only
  repeat' first
    | with_reducible assumption
    | with_reducible apply State.groupLoad_keeps
    | with_reducible apply State.modPart_keeps
    | with_reducible apply keeps_ite
    | (with_reducible apply keeps_foldl; intro _ _ _; try dsimp only)

theorem State.startFirmware_keeps {r s : State} (i : Image) (n : Nat) (h : Keeps r s) : Keeps r (State.startFirmware s i n) := by
  unfold State.startFirmware
  try dsimp only
  repeat' first
    | with_reducible assumption
    | with_reducible apply State.sfRuns_keeps
    | with_reducible apply State.setBoot_keeps
    | with_reducible apply State.settle_keeps
    | with_reducible apply State.retargetAll_keeps
    | with_reducible apply State.regroup_keeps
    | with_reducible apply State.reloadPlans_keeps
    | with_reducible apply State.emit_keeps

theorem State.usdoWrite_keeps {r s : State} (idx : W16) (sub : Byte) (len : Nat) (v : W64) (h : Keeps r s) : Keeps r (State.usdoWrite s idx sub len v) := by
  unfold State.usdoWrite
  try dsimp only
  repeat' first
    | with_reducible assumption
    | with_reducible apply State.dictWrite_keeps
    | with_reducible apply State.emit_keeps
    | with_reducible apply keeps_ite
    | split

theorem State.canRestart_keeps {r s : State} (h : Keeps r s) : Keeps r (State.canRestart s) := by
  unfold State.canRestart
  try dsimp only
  repeat' first
    | with_reducible assumption
    | with_reducible apply State.setDN_keeps
    | with_reducible apply State.emit_keeps
    | (fail_if_no_progress (with_reducible apply keeps_mk))

theorem State.ckptTable_keeps {r s : State} (p : PartId) (h : Keeps r s) : Keeps r (State.ckptTable s p).1 := by
  unfold State.ckptTable
  try dsimp only
  repeat' first
    | with_reducible assumption
    | with_reducible apply State.tableRead_keeps
    | with_reducible apply State.mgmtRefuse_keeps
    | with_reducible apply keeps_ite
    | with_reducible refine keeps_fst (by with_reducible assumption) ?_
    | split

theorem State.showCkpt_keeps {r s : State} (p : PartId) (h : Keeps r s) : Keeps r (State.showCkpt s p) := by
  unfold State.showCkpt
  try dsimp only
  repeat' first
    | with_reducible assumption
    | with_reducible apply State.setD_keeps

theorem State.ckptValid_keeps {r s : State} (p : PartId) (h : Keeps r s) : Keeps r (State.ckptValid s p) := by
  unfold State.ckptValid
  try dsimp only
  repeat' first
    | with_reducible assumption
    | with_reducible apply State.showCkpt_keeps
    | with_reducible apply State.modPart_keeps
    | with_reducible apply keeps_ite
    | split

theorem State.restoreState_keeps {r s : State} (p : PartId) (v : SavedState) (h : Keeps r s) : Keeps r (State.restoreState s p v) := by
  unfold State.restoreState
  try dsimp only
  repeat' first
    | with_reducible assumption
    | with_reducible apply State.setD_keeps
    | with_reducible apply State.setDf_keeps
    | with_reducible apply State.modPart_keeps
    | with_reducible apply State.setDN_keeps
    | (with_reducible apply keeps_foldl; intro _ _ _; try dsimp only)
    | split

theorem State.sendReq_keeps {r s : State} (kind unit u : Nat) (pl : Option PathPlan) (p : Packet) (x6 : Req) (h : Keeps r s)
    {t : State} (e : s.sendReq kind unit u pl p x6 = some t) : Keeps r t := by
  unfold State.sendReq at e
  cases hq : s.freeTag kind unit with
  | none => rw [hq] at e; cases e
  | some n =>
    rw [hq] at e
    dsimp only at e
    injection e with e
    have hk : Keeps r (({ s with nextTag := (n + 1) % 4096 }).setReq (reqKey kind unit n) (some x6)) :=
      State.setReq_keeps _ _ ⟨h.1, h.2, h.3, h.4, h.5⟩
    cases hp : (({ s with nextTag := (n + 1) % 4096 }).setReq (reqKey kind unit n) (some x6)).sendPlan pl u
        { p with hdr := withTag p.hdr n } with
    | none => rw [hp] at e; exact e ▸ hk
    | some v => rw [hp] at e; exact e ▸ State.sendPlan_keeps _ _ _ hk hp

theorem State.ckptPumpStep_keeps {r s : State} (p : PartId) (h : Keeps r s) {t : State} (e : s.ckptPumpStep p = some t) :
    Keeps r t := by
  unfold State.ckptPumpStep at e
  split at e
  · cases e
  · dsimp only at e
    split at e
    · cases e
    · have hq := fun (kind unit u : Nat) (pl : Option PathPlan) (pk : Packet) (x : Req) (t : State) =>
        State.sendReq_keeps kind unit u pl pk x h (t := t)
      generalize State.sendReq = f at e hq
      obtain ⟨w, hw, rfl⟩ := Option.map_eq_some_iff.1 e
      exact State.modPart_keeps _ _ (hq _ _ _ _ _ _ _ hw)

theorem ckptPumpGo_keeps {r : State} (p : PartId) (x1 : Nat) {x2 : State} (h : Keeps r x2) : Keeps r (ckptPumpGo p x1 x2) := by
  induction x1 generalizing x2 with
  | zero => simp only [ckptPumpGo]; repeat' first
    | with_reducible assumption
  | succ n ih => simp only [ckptPumpGo]; repeat' first
    | with_reducible assumption
    | with_reducible apply ih
    | with_reducible refine State.ckptPumpStep_keeps (h := ?_) (e := by assumption)
    | split

theorem State.ckptPump_keeps {r s : State} (p : PartId) (h : Keeps r s) : Keeps r (State.ckptPump s p) := by
  unfold State.ckptPump
  try dsimp only
  repeat' first
    | with_reducible assumption
    | with_reducible apply ckptPumpGo_keeps

theorem State.moveHeaders_keeps {r s : State} (f : Former) (src : Nat) (dst : Nat) (len : Nat) (h : Keeps r s) :
    Keeps r (s.moveHeaders f src dst len) := by
  unfold State.moveHeaders
  exact keeps_foldl (fun s b hs => keeps_ite (keeps_mem hs (Mem.wf_setHeader _ _ _)) (State.mergeBlock_keeps _ _ hs)) _ _ h

theorem State.move_keeps_st {r s : State} (f : Former) (p : PartId) (a b : W64) (n : Nat) (h : Keeps r s) : Keeps r (s.move f p a b n).st := by
  have piece (m : Moved) (e : Nat × Nat) (hm : Keeps r m.st) : Keeps r (movePiece p a b m e).st := by
    unfold movePiece
    split
    · exact hm
    · dsimp only
      split
      · split
        · exact State.writeMem_keeps _ _ _ (State.readMem_keeps _ _ hm)
        · exact State.refuse_keeps _ hm
      · exact State.refuse_keeps _ hm
  have all (l : List (Nat × Nat)) (m : Moved) (hm : Keeps r m.st) : Keeps r (l.foldl (movePiece p a b) m).st := by
    induction l generalizing m with
    | nil => exact hm
    | cons e t ih => exact ih _ (piece m e hm)
  exact State.moveHeaders_keeps _ _ _ _ (all _ ⟨s, 0, .ok, false⟩ h)

theorem State.ckptLocal_keeps {r s : State} (p : PartId) (t : CkptTab) (slot : Nat) (head : List Byte) (h : Keeps r s) :
    Keeps r (s.ckptLocal p t slot head).1 := by
  unfold State.ckptLocal
  split
  · refine keeps_foldl_fst (fun s e hs => ?_) _ (_, true) (State.writeMerge_keeps _ _ _ _ h)
    have hm := State.move_keeps_st Former.mgmt p (keyAddr e.key) (t.place slot e.off) e.len hs
    dsimp only
    split
    · exact State.raiseMgmt_keeps _ _ _ hm
    · exact hm
  · exact State.mgmtRefuse_keeps _ _ h

theorem State.putPackets_keeps {r s : State} (p : PartId) (tc : Nat) (lc : Bool) (src : W64) (dst : W64) (len : Nat) (h : Keeps r s) : Keeps r (State.putPackets s p tc lc src dst len).1 := by
  unfold State.putPackets
  try dsimp only
  repeat' first
    | with_reducible assumption
    | with_reducible apply State.readMem_keeps
    | with_reducible apply State.refuse_keeps
    | (with_reducible apply keeps_foldl_fst; intro _ _ _; try dsimp only)
    | split

theorem State.ckptRemote_keeps {r s : State} (p : PartId) (t : CkptTab) (slot : Nat) (head : List Byte) (h : Keeps r s) : Keeps r (State.ckptRemote s p t slot head).1 := by
  unfold State.ckptRemote
  try dsimp only
  repeat' first
    | with_reducible assumption
    | with_reducible apply State.putPackets_keeps
    | with_reducible apply State.raiseMgmt_keeps
    | with_reducible apply State.ckptPump_keeps
    | with_reducible apply State.modPart_keeps
    | with_reducible apply keeps_ite
    | (with_reducible apply keeps_foldl_fst; intro _ _ _; try dsimp only)
    | split

end Sys2Proof.Machine
end

