-- ==== Sys2Proof/Laws/KeepsC.lean ====
section
/-!
SUPPORT. What each operation keeps (C): one lemma per operation, in the order of use.
-/
namespace Sys2Proof.Machine

theorem State.ckptBytes_keeps {r s : State} (t : CkptTab) (head : List Byte) (h : Keeps r s) : Keeps r (State.ckptBytes s t head).1 := by
  unfold State.ckptBytes
  try dsimp only
  repeat' first
    | with_reducible assumption
    | with_reducible apply State.readMem_keeps
    | (with_reducible apply keeps_foldl_fst; intro _ _ _; try dsimp only)

theorem State.streamWrite_keeps {r s : State} (p : PartId) (a : Nat) (l : List Byte) (ps : List Bool) (h : Keeps r s) : Keeps r (State.streamWrite s p a l ps) := by
  unfold State.streamWrite
  try dsimp only
  repeat' first
    | with_reducible assumption
    | with_reducible apply State.mclPost_keeps
    | (with_reducible apply keeps_foldl; intro _ _ _; try dsimp only)

theorem State.ckptStream_keeps {r s : State} (p : PartId) (t : CkptTab) (n : W64) (head : List Byte) (h : Keeps r s) : Keeps r (State.ckptStream s p t n head) := by
  unfold State.ckptStream
  try dsimp only
  repeat' first
    | with_reducible assumption
    | with_reducible apply State.postRecord_keeps
    | with_reducible apply State.ckptBytes_keeps
    | with_reducible apply State.streamWrite_keeps
    | with_reducible apply keeps_ite
    | split

theorem State.ckptStart_keeps {r s : State} (p : PartId) (n : W64) (slot : Nat) (h : Keeps r s) : Keeps r (State.ckptStart s p n slot) := by
  unfold State.ckptStart
  try dsimp only
  repeat' first
    | with_reducible assumption
    | with_reducible apply State.ckptTable_keeps
    | with_reducible apply State.modPart_keeps
    | with_reducible apply State.setDN_keeps
    | with_reducible apply State.showCkpt_keeps
    | with_reducible apply State.ckptLocal_keeps
    | with_reducible apply State.ckptRemote_keeps
    | with_reducible apply State.ckptStream_keeps
    | with_reducible apply keeps_ite
    | with_reducible refine keeps_fst (by with_reducible assumption) ?_
    | split

theorem State.ckptClose_keeps {r s : State} (p : PartId) (n : W64) (h : Keeps r s) : Keeps r (State.ckptClose s p n) := by
  unfold State.ckptClose
  try dsimp only
  repeat' first
    | with_reducible assumption
    | with_reducible apply State.ckptStart_keeps
    | split

theorem State.ckptAnswer_keeps {r s : State} (p : PartId) (ok : Bool) (h : Keeps r s) : Keeps r (State.ckptAnswer s p ok) := by
  unfold State.ckptAnswer
  try dsimp only
  repeat' first
    | with_reducible assumption
    | with_reducible apply State.modPart_keeps
    | with_reducible apply State.ckptPump_keeps

theorem State.modRestore_keeps {r s : State} (p : PartId) (f : Restore → Restore) (h : Keeps r s) : Keeps r (State.modRestore s p f) := by
  unfold State.modRestore
  try dsimp only
  repeat' first
    | with_reducible assumption
    | with_reducible apply State.modPart_keeps

theorem State.streamRead_keeps {r s : State} (p : PartId) (w : Win) (len : Nat) (h : Keeps r s) : Keeps r (State.streamRead s p w len).1 := by
  unfold State.streamRead
  try dsimp only
  repeat' first
    | with_reducible assumption
    | with_reducible apply State.mclReq_keeps
    | (with_reducible apply keeps_foldl; intro _ _ _; try dsimp only)

theorem State.checkBlock_keeps {r s : State} (b : Nat) (h : Keeps r s) : Keeps r (State.checkBlock s b).1 := by
  unfold State.checkBlock
  try dsimp only
  repeat' first
    | with_reducible assumption
    | with_reducible apply State.touchRange_keeps
    | with_reducible apply State.incD_keeps
    | split

theorem State.checkRanges_keeps {r s : State} (rs : List (Nat × Nat)) (h : Keeps r s) : Keeps r (State.checkRanges s rs).1 := by
  unfold State.checkRanges
  try dsimp only
  repeat' first
    | with_reducible assumption
    | with_reducible apply State.addD_keeps
    | with_reducible apply State.checkBlock_keeps
    | (with_reducible apply keeps_foldl_fst; intro _ _ _; try dsimp only)

theorem State.restoreCheck_keeps {r s : State} (q : Restore) (h : Keeps r s) : Keeps r (s.restoreCheck q).1 := by
  have a := State.checkRanges_keeps [(q.base, q.len)]
    (Keeps.refl { s with mem := q.kept })
  exact ⟨a.1.trans h.1, h.2, fun x => a.3 (h.3 x), h.4.trans a.4, h.5.trans a.5⟩

theorem State.restoreRange_keeps {r s : State} (q : Restore) (e : CkptRange) (h : Keeps r s) : Keeps r (s.restoreRange q e) := by
  unfold State.restoreRange
  exact keeps_foldl (fun s b hs => keeps_ite (keeps_mem hs (Mem.wf_setHeader _ _ _)) (State.mergeBlock_keeps _ _ hs)) _ _
    (State.writeMem_keeps _ _ _ h)

theorem State.restoreEnd_keeps {r s : State} (p : PartId) (h : Keeps r s) : Keeps r (State.restoreEnd s p) := by
  unfold State.restoreEnd
  try dsimp only
  repeat' first
    | with_reducible assumption
    | with_reducible apply State.modPart_keeps
    | with_reducible apply State.restoreCheck_keeps
    | with_reducible apply State.raiseMgmt_keeps
    | with_reducible apply State.restoreRange_keeps
    | with_reducible apply State.restoreState_keeps
    | with_reducible apply State.modCtx_keeps
    | with_reducible apply State.modGate_keeps
    | with_reducible apply State.setDN_keeps
    | with_reducible apply State.setCrit_keeps
    | (fail_if_no_progress (with_reducible apply keeps_mk))
    | with_reducible apply keeps_ite
    | (with_reducible apply keeps_foldl; intro _ _ _; try dsimp only)
    | split

theorem State.restoreStart_keeps {r s : State} (p : PartId) (c : W64) (lost : W16 → Bool) (h : Keeps r s) : Keeps r (State.restoreStart s p c lost) := by
  unfold State.restoreStart
  try dsimp only
  repeat' first
    | with_reducible assumption
    | with_reducible apply State.ckptTable_keeps
    | with_reducible apply State.modPart_keeps
    | with_reducible apply State.restoreEnd_keeps
    | with_reducible apply State.streamRead_keeps
    | with_reducible apply State.ckptPump_keeps
    | with_reducible apply keeps_ite
    | with_reducible refine keeps_fst (by with_reducible assumption) ?_
    | split

theorem State.restoreData_keeps {r s : State} (p : PartId) (key : Nat) (units : Nat) (pk : Packet) (h : Keeps r s) : Keeps r (State.restoreData s p key units pk) := by
  unfold State.restoreData
  try dsimp only
  repeat' first
    | with_reducible assumption
    | with_reducible apply State.modRestore_keeps
    | with_reducible apply keeps_ite

theorem State.streamData_keeps {r s : State} (p : PartId) (off : Nat) (lines : List (BitVec 512)) (psn : Byte) (h : Keeps r s) : Keeps r (State.streamData s p off lines psn) := by
  unfold State.streamData
  try dsimp only
  repeat' first
    | with_reducible assumption
    | with_reducible apply State.modRestore_keeps
    | with_reducible apply State.restoreEnd_keeps
    | with_reducible apply State.ckptAnswer_keeps
    | with_reducible apply keeps_ite
    | split

theorem State.stormTest_keeps {r s : State} (p : PartId) (h : Keeps r s) : Keeps r (State.stormTest s p) := by
  unfold State.stormTest
  try dsimp only
  repeat' first
    | with_reducible assumption
    | with_reducible apply State.setDN_keeps
    | with_reducible apply State.raiseMgmt_keeps
    | with_reducible apply State.incD_keeps
    | with_reducible apply keeps_ite

theorem State.adapt_keeps {r s : State} (p : PartId) (h : Keeps r s) : Keeps r (State.adapt s p) := by
  unfold State.adapt
  try dsimp only
  repeat' first
    | with_reducible assumption
    | with_reducible apply State.setDN_keeps
    | with_reducible apply keeps_ite

theorem State.writeReport_keeps {r s : State} (p : PartId) (addr : W64) (size : Nat) (hdr : Nat) (rec : Nat) (drops : Nat) (mk : Nat → Bool → List Byte) (recs : List (List Byte)) (h : Keeps r s) : Keeps r (State.writeReport s p addr size hdr rec drops mk recs) := by
  unfold State.writeReport
  try dsimp only
  repeat' first
    | with_reducible assumption
    | with_reducible apply State.incD_keeps
    | with_reducible apply State.writeMerge_keeps
    | with_reducible apply keeps_ite

theorem State.ladderReport_keeps {r s : State} (p : PartId) (step : W64) (h : Keeps r s) : Keeps r (State.ladderReport s p step) := by
  unfold State.ladderReport
  try dsimp only
  repeat' first
    | with_reducible assumption
    | with_reducible apply State.writeReport_keeps
    | with_reducible apply State.telemetry_keeps
    | with_reducible apply keeps_ite

theorem State.watchLayer_keeps {r s : State} (p : PartId) (n : Nat) (u : LayerUpd) (h : Keeps r s) : Keeps r (State.watchLayer s p n u) := by
  unfold State.watchLayer
  try dsimp only
  repeat' first
    | with_reducible assumption
    | with_reducible apply State.modPart_keeps
    | with_reducible apply State.raiseMgmt_keeps
    | with_reducible apply State.incD_keeps
    | with_reducible apply State.setDN_keeps
    | with_reducible apply keeps_ite

theorem State.updateWatch_keeps {r s : State} (p : PartId) (step : W64) (h : Keeps r s) : Keeps r (State.updateWatch s p step) := by
  unfold State.updateWatch
  try dsimp only
  repeat' first
    | with_reducible assumption
    | with_reducible apply State.watchLayer_keeps
    | with_reducible apply State.writeReport_keeps
    | with_reducible apply State.modPart_keeps
    | (with_reducible apply keeps_foldl; intro _ _ _; try dsimp only)

theorem State.phaseReport_keeps {r s : State} (p : PartId) (step : W64) (h : Keeps r s) : Keeps r (State.phaseReport s p step) := by
  unfold State.phaseReport
  try dsimp only
  repeat' first
    | with_reducible assumption
    | with_reducible apply State.setD_keeps
    | with_reducible apply State.writeReport_keeps
    | with_reducible apply State.telemetry_keeps
    | with_reducible apply keeps_ite
    | (with_reducible apply keeps_foldl; intro _ _ _; try dsimp only)

theorem State.latchEntries_keeps {r s : State} (p : PartId) (h : Keeps r s) : Keeps r (State.latchEntries s p) := by
  unfold State.latchEntries
  try dsimp only
  repeat' first
    | with_reducible assumption
    | with_reducible apply State.setDf_keeps
    | with_reducible apply State.setDN_keeps
    | with_reducible apply keeps_ite
    | (with_reducible apply keeps_foldl; intro _ _ _; try dsimp only)

theorem State.collectorsClose_keeps {r s : State} (p : PartId) (step : W64) (h : Keeps r s) : Keeps r (State.collectorsClose s p step) := by
  unfold State.collectorsClose
  try dsimp only
  repeat' first
    | with_reducible assumption
    | with_reducible apply State.modPart_keeps
    | with_reducible apply State.adapt_keeps
    | with_reducible apply State.stormTest_keeps
    | with_reducible apply State.phaseReport_keeps
    | with_reducible apply State.updateWatch_keeps
    | with_reducible apply State.ladderReport_keeps
    | with_reducible apply State.latchEntries_keeps

theorem State.setCall_keeps {r s : State} (p : PartId) (k : Call) (h : Keeps r s) : Keeps r (State.setCall s p k) := by
  unfold State.setCall
  try dsimp only
  repeat' first
    | with_reducible assumption
    | with_reducible apply State.modPart_keeps

theorem State.dropCall_keeps {r s : State} (p : PartId) (k : Call) (h : Keeps r s) : Keeps r (State.dropCall s p k) := by
  unfold State.dropCall
  try dsimp only
  repeat' first
    | with_reducible assumption
    | with_reducible apply State.modPart_keeps

theorem State.partFault_keeps {r s : State} (c : CoreId) (x : CtxId) (step : W64) (h : Keeps r s) : Keeps r (State.partFault s c x step) := by
  unfold State.partFault
  try dsimp only
  repeat' first
    | with_reducible assumption
    | with_reducible apply State.raiseCtx_keeps

theorem State.modJob_keeps {r s : State} (c : CoreId) (x : CtxId) (id : Nat) (f : Job → Job) (h : Keeps r s) : Keeps r (State.modJob s c x id f) := by
  unfold State.modJob
  try dsimp only
  repeat' first
    | with_reducible assumption
    | with_reducible apply State.modCtx_keeps

theorem State.setStatus_keeps {r s : State} (c : CoreId) (x : CtxId) (id : Nat) (status : Byte) (h : Keeps r s) : Keeps r (State.setStatus s c x id status) := by
  unfold State.setStatus
  try dsimp only
  repeat' first
    | with_reducible assumption
    | with_reducible apply State.modJob_keeps

theorem State.endCall_keeps {r s : State} (p : PartId) (k : Call) (status : Byte) (h : Keeps r s) : Keeps r (State.endCall s p k status) := by
  unfold State.endCall
  try dsimp only
  repeat' first
    | with_reducible assumption
    | with_reducible apply State.dropCall_keeps
    | with_reducible apply State.modPart_keeps
    | with_reducible apply State.partFault_keeps
    | with_reducible apply State.setStatus_keeps
    | with_reducible apply keeps_ite

theorem State.groupFault_keeps {r s : State} (p : PartId) (k : Call) (h : Keeps r s) : Keeps r (State.groupFault s p k) := by
  unfold State.groupFault
  try dsimp only
  repeat' first
    | with_reducible assumption
    | with_reducible apply State.endCall_keeps
    | with_reducible apply State.raise_keeps

theorem State.sigFail_keeps {r s : State} (p : PartId) (k : Call) (h : Keeps r s) : Keeps r (State.sigFail s p k) := by
  unfold State.sigFail
  try dsimp only
  repeat' first
    | with_reducible assumption
    | with_reducible apply State.endCall_keeps
    | with_reducible apply State.raise_keeps
    | with_reducible apply State.incD_keeps

theorem State.hear_keeps {r s : State} (p : PartId) (k : Call) (peer : Nat) (h : Keeps r s) : Keeps r (State.hear s p k peer).1 := by
  unfold State.hear
  try dsimp only
  repeat' first
    | with_reducible assumption
    | with_reducible apply State.modPart_keeps
    | split

theorem State.applyReady_keeps {r s : State} (p : PartId) (k : Call) (m : CollReady) (h : Keeps r s) : Keeps r (State.applyReady s p k m) := by
  unfold State.applyReady
  try dsimp only
  repeat' first
    | with_reducible assumption
    | with_reducible apply State.sigFail_keeps
    | with_reducible apply State.hear_keeps
    | with_reducible apply State.setCall_keeps
    | with_reducible apply keeps_ite

theorem State.takeReady_keeps {r s : State} (m : CollReady) (h : Keeps r s) : Keeps r (State.takeReady s m).1 := by
  unfold State.takeReady
  try dsimp only
  repeat' first
    | with_reducible assumption
    | with_reducible apply State.incD_keeps
    | with_reducible apply State.applyReady_keeps
    | with_reducible apply State.hear_keeps
    | with_reducible apply State.modPart_keeps
    | with_reducible apply State.setCall_keeps
    | split

theorem State.takeSegEnd_keeps {r s : State} (m : CollSegEnd) (h : Keeps r s) : Keeps r (State.takeSegEnd s m) := by
  unfold State.takeSegEnd
  try dsimp only
  repeat' first
    | with_reducible assumption
    | with_reducible apply State.hear_keeps
    | with_reducible apply State.setCall_keeps
    | with_reducible apply State.incD_keeps
    | with_reducible apply keeps_ite
    | split

theorem State.sendMail_keeps {r s : State} (p : PartId) (k : Call) (pl : Option PathPlan) (dest : W32) (words : List Nat) (sink : Sink) (mk : BitVec 12 → Out) (h : Keeps r s) : Keeps r (State.sendMail s p k pl dest words sink mk) := by
  unfold State.sendMail
  try dsimp only
  repeat' first
    | with_reducible assumption
    | with_reducible refine State.sendReq_keeps (h := ?_) (e := by assumption)
    | with_reducible apply State.emit_keeps
    | with_reducible apply State.modJob_keeps
    | split

theorem State.sendReady_keeps {r s : State} (p : PartId) (k : Call) (dest : W32) (addr : W64) (grant : Nat) (h : Keeps r s) : Keeps r (State.sendReady s p k dest addr grant) := by
  unfold State.sendReady
  try dsimp only
  repeat' first
    | with_reducible assumption
    | with_reducible apply State.takeReady_keeps
    | with_reducible apply State.modPart_keeps
    | with_reducible apply State.sendMail_keeps
    | with_reducible apply keeps_ite

theorem State.sendSeg_keeps {r s : State} (k : Call) (pl : Option PathPlan) (ps : List (Packet × Sink)) (h : Keeps r s) :
    Keeps r (s.sendSeg k pl ps) := by
  unfold State.sendSeg
  refine keeps_foldl (fun s e hs => State.modJob_keeps _ _ _ _ ?_) _ _ h
  cases hq : s.sendReq 1 (districtOf k.core) (routeNo 1 (districtOf k.core)) pl e.1 ⟨k.core, k.ctx, k.job, pAddr e.1.hdr, e.2⟩ with
  | none => exact hs
  | some t => exact State.sendReq_keeps _ _ _ _ _ _ hs hq

theorem State.collPoison_keeps {r s : State} (p : PartId) (k : Call) (a : W64) (h : Keeps r s) : Keeps r (State.collPoison s p k a).1 := by
  unfold State.collPoison
  try dsimp only
  repeat' first
    | with_reducible assumption
    | with_reducible apply State.raise_keeps
    | split

theorem State.collCheck_keeps {r s : State} (key : Nat) (len : Nat) (h : Keeps r s) : Keeps r (State.collCheck s key len).1 := by
  unfold State.collCheck
  try dsimp only
  repeat' first
    | with_reducible assumption
    | with_reducible apply State.addD_keeps
    | with_reducible apply State.checkBlock_keeps
    | (with_reducible apply keeps_foldl_fst; intro _ _ _; try dsimp only)

theorem State.collOwn_keeps {r s : State} (p : PartId) (h0 : Shape) (k : Call) (lo : Nat) (hi : Nat) (h : Keeps r s) : Keeps r (State.collOwn s p h0 k lo hi).1 := by
  have g0 := @State.collCheck_keeps r
  have g1 := @State.readMem_keeps r
  unfold State.collOwn
  generalize State.collCheck = f0 at g0 ⊢
  generalize State.readMem = f1 at g1 ⊢
  revert f0 f1
  refine id ?_
  intro f0 g0 f1 g1
  try dsimp only
  repeat' first
    | with_reducible assumption
    | with_reducible apply g0
    | with_reducible apply State.collPoison_keeps
    | with_reducible apply State.raise_keeps
    | with_reducible apply g1
    | with_reducible apply keeps_ite
    | split

theorem State.collX_keeps {r s : State} (p : PartId) (h0 : Shape) (k : Call) (stage : Nat) (lo : Nat) (hi : Nat) (h : Keeps r s) : Keeps r (State.collX s p h0 k stage lo hi).1 := by
  unfold State.collX
  try dsimp only
  repeat' first
    | with_reducible assumption
    | with_reducible apply State.collOwn_keeps
    | split

theorem State.collQueue_keeps {r s : State} (p : PartId) (k : Call) (q : CPath) (id : Nat) (hop : Nat) (g : Nat) (lo : Nat) (vs : List Nat) (ps : List Bool) (h : Keeps r s) : Keeps r (State.collQueue s p k q id hop g lo vs ps).1 := by
  unfold State.collQueue
  try dsimp only
  repeat' first
    | with_reducible assumption
    | with_reducible apply State.addD_keeps

theorem State.collFinal_keeps {r s : State} (p : PartId) (h0 : Shape) (k : Call) (q : CPath) (id : Nat) (g : Nat) (lo : Nat) (vs : List Nat) (ps : List Bool) (h : Keeps r s) : Keeps r (State.collFinal s p h0 k q id g lo vs ps).1 := by
  unfold State.collFinal
  try dsimp only
  repeat' first
    | with_reducible assumption
    | with_reducible apply State.addD_keeps
    | split

theorem State.startPath_keeps {r s : State} (p : PartId) (h0 : Shape) (k : Call) (id : Nat) (h : Keeps r s) : Keeps r (State.startPath s p h0 k id).1 := by
  unfold State.startPath
  try dsimp only
  repeat' first
    | with_reducible assumption
    | with_reducible apply State.collX_keeps
    | with_reducible apply State.collQueue_keeps
    | with_reducible apply State.collFinal_keeps
    | (with_reducible apply keeps_foldl_fst; intro _ _ _; try dsimp only)
    | split

theorem State.startStage_keeps {r s : State} (p : PartId) (h0 : Shape) (k : Call) (stage : Nat) (h : Keeps r s) : Keeps r (State.startStage s p h0 k stage).1 := by
  unfold State.startStage
  try dsimp only
  repeat' first
    | with_reducible assumption
    | with_reducible apply State.startPath_keeps
    | (with_reducible apply keeps_foldl_fst; intro _ _ _; try dsimp only)

theorem State.ownCopy_keeps {r s : State} (p : PartId) (g : Shape) (k : Call) (h : Keeps r s) : Keeps r (s.ownCopy p g k).1 := by
  unfold State.ownCopy
  dsimp only
  split
  · exact h
  · exact State.move_keeps_st _ _ _ _ _ h

theorem State.beginCall_keeps {r s : State} (p : PartId) (g : Group) (h0 : Shape) (k : Call) (h : Keeps r s) : Keeps r (State.beginCall s p g h0 k) := by
  unfold State.beginCall
  try dsimp only
  repeat' first
    | with_reducible assumption
    | with_reducible apply State.ownCopy_keeps
    | with_reducible apply State.endCall_keeps
    | with_reducible apply State.startStage_keeps
    | with_reducible apply State.setCall_keeps
    | with_reducible apply State.sendReady_keeps
    | with_reducible apply State.takeReady_keeps
    | with_reducible apply State.modPart_keeps
    | with_reducible apply keeps_ite
    | (with_reducible apply keeps_foldl; intro _ _ _; try dsimp only)

theorem State.processSeg_keeps {r s : State} (p : PartId) (g : Group) (h0 : Shape) (k : Call) (t : Nat) (m : CollSegEnd) (h : Keeps r s) : Keeps r (State.processSeg s p g h0 k t m) := by
  unfold State.processSeg
  try dsimp only
  repeat' first
    | with_reducible assumption
    | with_reducible apply State.setCall_keeps
    | with_reducible apply State.readMem_keeps
    | with_reducible apply State.collX_keeps
    | with_reducible apply State.collPoison_keeps
    | with_reducible apply State.collQueue_keeps
    | with_reducible apply State.collFinal_keeps
    | with_reducible apply State.sendReady_keeps
    | with_reducible apply keeps_ite
    | split

theorem State.callErr_keeps {r s : State} (k : Call) (c : Chk) (h : Keeps r s) : Keeps r (State.callErr s k c) := by
  unfold State.callErr
  try dsimp only
  repeat' first
    | with_reducible assumption
    | with_reducible apply State.modJob_keeps

theorem State.sendOut_keeps {r s : State} (p : PartId) (g : Group) (h0 : Shape) (k : Call) (x : CollSeg) (addr : W64) (h : Keeps r s) :
    Keeps r (s.sendOut p g h0 k x addr) := by
  unfold State.sendOut
  extract_lets q dest t no k' pad wire s1
  split
  extract_lets len m
  split
  extract_lets src dst mv u t2 full
  have hs : Keeps r s1 := State.setCall_keeps _ _ h
  clear_value full dst src m len s1 wire pad k' no t dest q
  split
  · split
    · have hm : Keeps r mv.st := State.move_keeps_st _ _ _ _ _ hs
      have h2 : Keeps r t2 := by
        dsimp only [t2]
        split
        · exact keeps_mem hm (Mem.wf_setHeader _ _ _)
        · exact hm
      exact keeps_ite (State.callErr_keeps _ _ hm) (State.takeSegEnd_keeps _ h2)
    · split
      · exact State.takeSegEnd_keeps _ (State.writeMerge_keeps _ _ _ _ hs)
      · exact State.callErr_keeps _ _ (State.refuse_keeps _ hs)
  · split
    rename_i s2 c ps he
    have h2 : Keeps r s2 := by
      split at he
      · exact keeps_fst he (State.putPackets_keeps _ _ _ _ _ _ hs)
      · cases he
        exact hs
    extract_lets ps2 pl s3
    have h3 : Keeps r s3 := State.sendSeg_keeps _ _ _ h2
    exact keeps_ite (State.callErr_keeps _ _ h3) (State.sendMail_keeps _ _ _ _ _ _ _ h3)

theorem State.sendRed_keeps {r s : State} (p : PartId) (g : Group) (h0 : Shape) (k : Call) (h : Keeps r s) : Keeps r (State.sendRed s p g h0 k) := by
  unfold State.sendRed
  try dsimp only
  repeat' first
    | with_reducible assumption
    | with_reducible apply State.collOwn_keeps
    | with_reducible apply State.setCall_keeps
    | with_reducible apply State.toPort_keeps
    | (fail_if_no_progress (with_reducible apply keeps_mk))
    | (with_reducible apply keeps_foldl; intro _ _ _; try dsimp only)

theorem State.shardCheck_keeps {r s : State} (p : PartId) (h0 : Shape) (k : Call) (j : Nat) (h : Keeps r s) : Keeps r (State.shardCheck s p h0 k j) := by
  unfold State.shardCheck
  try dsimp only
  repeat' first
    | with_reducible assumption
    | with_reducible apply State.raise_keeps
    | with_reducible apply State.writeMerge_keeps
    | with_reducible apply State.incD_keeps
    | with_reducible apply keeps_ite

theorem State.freshHeaders_keeps {r s : State} (f : Former) (k : Nat) (n : Nat) (h : Keeps r s) : Keeps r (s.freshHeaders f k n) := by
  unfold State.freshHeaders
  refine keeps_foldl (fun s b h => ?_) _ _ h
  exact keeps_ite (keeps_mem h (Mem.wf_setHeader _ _ _)) (State.mergeBlock_keeps _ _ h)

theorem State.writeFresh_keeps {r s : State} (f : Former) (k : Nat) (l : List Byte) (ps : List Bool) (h : Keeps r s) : Keeps r (State.writeFresh s f k l ps) := by
  unfold State.writeFresh
  try dsimp only
  repeat' first
    | with_reducible assumption
    | with_reducible apply State.freshHeaders_keeps
    | with_reducible apply State.writeMem_keeps

theorem State.completeCall_keeps {r s : State} (p : PartId) (h0 : Shape) (k : Call) (h : Keeps r s) : Keeps r (State.completeCall s p h0 k) := by
  unfold State.completeCall
  try dsimp only
  repeat' first
    | with_reducible assumption
    | with_reducible apply State.modPart_keeps
    | with_reducible apply State.shardCheck_keeps
    | with_reducible apply State.endCall_keeps
    | with_reducible apply State.writeFresh_keeps
    | with_reducible apply State.refuse_keeps
    | with_reducible apply keeps_ite
    | (with_reducible apply keeps_foldl; intro _ _ _; try dsimp only)
    | split

theorem State.callStep_keeps {r s : State} (p : PartId) (k : Call) (h : Keeps r s) {t : State} (e : State.callStep s p k = some t) : Keeps r t := by
  unfold State.callStep at e
  try dsimp only at e
  repeat' (split at e)
  all_goals first
    | (exfalso; exact none_some e)
    | (obtain rfl := Option.some.inj e)
    | skip
  all_goals try dsimp only
  all_goals repeat' first
    | with_reducible assumption
    | with_reducible apply State.groupFault_keeps
    | with_reducible apply State.partFault_keeps
    | with_reducible apply State.endCall_keeps
    | with_reducible apply State.beginCall_keeps
    | with_reducible apply State.processSeg_keeps
    | with_reducible apply State.startStage_keeps
    | with_reducible apply State.setCall_keeps
    | with_reducible apply State.sendRed_keeps
    | with_reducible apply State.sendOut_keeps
    | with_reducible apply State.completeCall_keeps

theorem collGo_keeps {r : State} (x0 : Nat) {x1 : State} (h : Keeps r x1) : Keeps r (collGo x0 x1) := by
  induction x0 generalizing x1 with
  | zero => simp only [collGo]; repeat' first
    | with_reducible assumption
  | succ n ih => simp only [collGo]; repeat' first
    | with_reducible assumption
    | with_reducible apply ih
    | with_reducible refine State.callStep_keeps (h := ?_) (e := by assumption)
    | (refine findSome_keeps (by assumption) ?_; intro _ _ _)
    | split

theorem State.collPump_keeps {r s : State} (h : Keeps r s) : Keeps r (State.collPump s) := by
  unfold State.collPump
  try dsimp only
  repeat' first
    | with_reducible assumption
    | with_reducible apply collGo_keeps

theorem State.work_keeps {r s : State} (i : Issued) (status : Byte) (h : Keeps r s) : Keeps r (State.work s i status) := by
  unfold State.work
  try dsimp only
  repeat' first
    | with_reducible assumption
    | with_reducible apply State.setStatus_keeps

theorem State.acceptCall_keeps {r s : State} (i : Issued) (p : PartId) (me : Nat) (d : BitVec 512) (h : Keeps r s) : Keeps r (State.acceptCall s i p me d) := by
  unfold State.acceptCall
  try dsimp only
  repeat' first
    | with_reducible assumption
    | with_reducible apply State.modPart_keeps
    | with_reducible apply State.work_keeps
    | with_reducible apply State.collPump_keeps
    | with_reducible apply keeps_ite

theorem State.workChk_keeps {r s : State} (i : Issued) (status : Byte) (h : Keeps r s) : Keeps r (State.workChk s i status) := by
  unfold State.workChk
  try dsimp only
  repeat' first
    | with_reducible assumption
    | with_reducible apply State.partFault_keeps
    | with_reducible apply State.work_keeps
    | with_reducible apply keeps_ite

theorem State.collCmd_keeps {r : State} (i : Issued) {s : State} (h : Keeps r s) : Keeps r (State.collCmd i s) := by
  unfold State.collCmd
  try dsimp only
  repeat' first
    | with_reducible assumption
    | with_reducible apply State.modCtx_keeps
    | with_reducible apply State.work_keeps
    | with_reducible apply State.raise_keeps
    | with_reducible apply State.acceptCall_keeps
    | with_reducible apply State.workChk_keeps
    | with_reducible apply State.refuse_keeps
    | with_reducible apply keeps_ite
    | split

theorem State.endQuiet_keeps {r s : State} (sl : Slot) (h : Keeps r s) : Keeps r (State.endQuiet s sl) := by
  unfold State.endQuiet
  try dsimp only
  repeat' first
    | with_reducible assumption
    | with_reducible apply State.modCore_keeps
    | split

theorem State.pass_keeps {r s : State} (sl : Slot) (h : Keeps r s) : Keeps r (State.pass s sl) := by
  unfold State.pass
  try dsimp only
  repeat' first
    | with_reducible assumption
    | with_reducible apply State.endQuiet_keeps
    | with_reducible apply State.modCtx_keeps
    | with_reducible apply State.modStream_keeps
    | with_reducible apply State.modCore_keeps
    | split

theorem State.issue_keeps {r s : State} (sl : Slot) (w : W256) (h : Keeps r s) : Keeps r (State.issue s sl w).1 := by
  unfold State.issue
  try dsimp only
  repeat' first
    | with_reducible assumption
    | with_reducible apply State.modCtx_keeps
    | with_reducible apply State.pass_keeps

theorem State.fetchHead_keeps {r s : State} (sl : Slot) (h : Keeps r s) : Keeps r (State.fetchHead s sl) := by
  unfold State.fetchHead
  try dsimp only
  repeat' first
    | with_reducible assumption
    | with_reducible apply State.fetchXd_keeps
    | split

theorem State.done_keeps {r s : State} (i : Issued) (status : Byte) (h : Keeps r s) : Keeps r (State.done s i status) := by
  unfold State.done
  try dsimp only
  repeat' first
    | with_reducible assumption
    | with_reducible apply State.finish_keeps

theorem State.onStream_keeps {r s : State} (i : Issued) (f : Stream → Stream) (h : Keeps r s) : Keeps r (State.onStream s i f) := by
  unfold State.onStream
  try dsimp only
  repeat' first
    | with_reducible assumption
    | with_reducible apply State.modStream_keeps
    | split

theorem State.deferFail_keeps {r s : State} (i : Issued) (status : Byte) (h : Keeps r s) : Keeps r (State.deferFail s i status) := by
  unfold State.deferFail
  try dsimp only
  repeat' first
    | with_reducible assumption
    | with_reducible apply State.onStream_keeps
    | with_reducible apply State.applyHalt_keeps
    | with_reducible apply State.closeJob_keeps
    | split

theorem State.notFiller_keeps {r s : State} (i : Issued) (h : Keeps r s) : Keeps r (State.notFiller s i) := by
  unfold State.notFiller
  try dsimp only
  repeat' first
    | with_reducible assumption
    | with_reducible apply State.deferFail_keeps
    | with_reducible apply State.done_keeps
    | with_reducible apply keeps_ite

theorem withDesc_keeps {r s : State} (op : Nat) (f : Issued → State → State) (hf : ∀ i s, Keeps r s → Keeps r (f i s)) (i : Issued)
    (h : Keeps r s) : Keeps r (withDesc op f i s) := by
  unfold withDesc
  exact keeps_ite (State.done_keeps _ _ h) (hf i s h)

theorem State.hearData_keeps {r s : State} (p : Packet) (h : Keeps r s) : Keeps r (State.hearData s p) := by
  unfold State.hearData
  try dsimp only
  repeat' first
    | with_reducible assumption
    | with_reducible apply State.hear_keeps
    | with_reducible apply State.setCall_keeps
    | with_reducible apply keeps_ite
    | (with_reducible apply keeps_foldl; intro _ _ _; try dsimp only)
    | split

theorem State.callTimeout_keeps {r s : State} (p : PartId) (k : Call) (h : Keeps r s) : Keeps r (State.callTimeout s p k) := by
  unfold State.callTimeout
  try dsimp only
  repeat' first
    | with_reducible assumption
    | with_reducible apply State.raise_keeps
    | with_reducible apply State.modPart_keeps
    | with_reducible apply State.endCall_keeps
    | (with_reducible apply keeps_foldl; intro _ _ _; try dsimp only)

theorem State.takeRedr_keeps {r s : State} (p : Packet) (h : Keeps r s) : Keeps r (State.takeRedr s p) := by
  unfold State.takeRedr
  try dsimp only
  repeat' first
    | with_reducible assumption
    | with_reducible apply State.incD_keeps
    | with_reducible apply State.modPart_keeps
    | with_reducible apply State.setCall_keeps
    | with_reducible apply keeps_ite
    | split

theorem State.digestFault_keeps {r s : State} (p : PartId) (h : Keeps r s) : Keeps r (State.digestFault s p) := by
  unfold State.digestFault
  try dsimp only
  repeat' first
    | with_reducible assumption
    | with_reducible apply State.raiseMgmt_keeps
    | (fail_if_no_progress (with_reducible apply keeps_mk))

theorem State.writeCtl_keeps {r s : State} (c : CoreId) (x : CtxId) (v : W32) (h : Keeps r s) : Keeps r (State.writeCtl s c x v) := by
  unfold State.writeCtl
  try dsimp only
  repeat' first
    | with_reducible assumption
    | with_reducible apply State.digestFault_keeps
    | with_reducible apply State.latchWindows_keeps
    | with_reducible apply State.modCtx_keeps
    | with_reducible apply keeps_ite

theorem State.writeResume_keeps {r s : State} (c : CoreId) (x : CtxId) (v : W32) (h : Keeps r s) : Keeps r (State.writeResume s c x v) := by
  unfold State.writeResume
  try dsimp only
  repeat' first
    | with_reducible assumption
    | with_reducible apply State.modCtx_keeps
    | with_reducible apply State.fetchXd_keeps
    | with_reducible apply State.modStream_keeps
    | with_reducible apply keeps_ite
    | split

theorem State.modStash_keeps {r s : State} (c : CoreId) (f : Stash → Stash) (h : Keeps r s) : Keeps r (State.modStash s c f) := by
  unfold State.modStash
  try dsimp only
  repeat' first
    | with_reducible assumption
    | with_reducible apply State.modCore_keeps

theorem State.stReadNow_keeps {r s : State} (c : CoreId) (id : Nat) (e : StEntry) (dst : Nat) (h : Keeps r s) : Keeps r (State.stReadNow s c id e dst) := by
  unfold State.stReadNow
  try dsimp only
  repeat' first
    | with_reducible assumption
    | with_reducible apply State.move_keeps_st
    | with_reducible apply State.modStash_keeps
    | with_reducible apply State.workChk_keeps

theorem State.qntRefuse_keeps {r s : State} (i : Issued) (h : Keeps r s) : Keeps r (State.qntRefuse s i) := by
  unfold State.qntRefuse
  try dsimp only
  repeat' first
    | with_reducible assumption
    | with_reducible apply State.work_keeps
    | with_reducible apply State.modCtx_keeps

theorem State.writeImages_keeps {r s : State} (i : Issued) (d : BitVec 512) (tile : List (List W32)) (bad : Bool) (h : Keeps r s) : Keeps r (State.writeImages s i d tile bad) := by
  unfold State.writeImages
  try dsimp only
  repeat' first
    | with_reducible assumption
    | with_reducible apply State.writeFresh_keeps
    | with_reducible apply State.modCtx_keeps
    | (with_reducible apply keeps_foldl; intro _ _ _; try dsimp only)

theorem State.raiseRead_keeps {r s : State} (c : CoreId) (x : CtxId) (step : W64) (x4 : ReadChk) (f : Nat → W64) (h : Keeps r s) : Keeps r (State.raiseRead s c x step x4 f) := by
  unfold State.raiseRead
  try dsimp only
  repeat' first
    | with_reducible assumption
    | with_reducible apply State.raiseCtx_keeps
    | split

theorem State.quantRun_keeps {r s : State} (i : Issued) (d : BitVec 512) (m : Mem) (q : QSource) (x5 : ReadChk) (f : Nat → W64) (h : Keeps r s) : Keeps r (State.quantRun s i d m q x5 f) := by
  unfold State.quantRun
  try dsimp only
  repeat' first
    | with_reducible assumption
    | with_reducible apply State.workChk_keeps
    | with_reducible apply State.refuse_keeps
    | with_reducible apply State.modCtx_keeps
    | with_reducible apply State.writeImages_keeps
    | with_reducible apply State.work_keeps
    | with_reducible apply State.raiseRead_keeps
    | split

theorem State.quantLocal_keeps {r s : State} (i : Issued) (d : BitVec 512) (key : Nat) (scl : Nat) (own : Bool) (h : Keeps r s) : Keeps r (State.quantLocal s i d key scl own) := by
  unfold State.quantLocal
  try dsimp only
  repeat' first
    | with_reducible assumption
    | with_reducible apply State.qntRefuse_keeps
    | with_reducible apply State.workChk_keeps
    | with_reducible apply State.refuse_keeps
    | with_reducible apply State.checkRanges_keeps
    | with_reducible apply State.quantRun_keeps
    | with_reducible apply keeps_ite

theorem State.stRqNow_keeps {r s : State} (c : CoreId) (id : Nat) (e : StEntry) (d : BitVec 512) (h : Keeps r s) : Keeps r (State.stRqNow s c id e d) := by
  unfold State.stRqNow
  try dsimp only
  repeat' first
    | with_reducible assumption
    | with_reducible apply State.modStash_keeps
    | with_reducible apply State.quantLocal_keeps

theorem State.stFail_keeps {r s : State} (c : CoreId) (id : Nat) (full : Bool) (handle : Bool) (h : Keeps r s) : Keeps r (State.stFail s c id full handle) := by
  unfold State.stFail
  try dsimp only
  repeat' first
    | with_reducible assumption
    | with_reducible apply State.setStatus_keeps
    | with_reducible apply State.modStash_keeps

theorem State.stWriteNow_keeps {r s : State} (c : CoreId) (id : Nat) (layer : BitVec 12) (entry : W16) (src : Nat) (len : Nat) (slot : Nat) (off : Nat) (h : Keeps r s) : Keeps r (State.stWriteNow s c id layer entry src len slot off) := by
  unfold State.stWriteNow
  try dsimp only
  repeat' first
    | with_reducible assumption
    | with_reducible apply State.move_keeps_st
    | with_reducible apply State.workChk_keeps
    | with_reducible apply State.modStash_keeps
    | with_reducible apply State.modJob_keeps
    | with_reducible apply keeps_ite

theorem State.stStep_keeps {r s : State} (c : CoreId) (w : StWait) (t' : Stash) (h : Keeps r s) {t : State} (e : State.stStep s c w t' = some t) : Keeps r t := by
  unfold State.stStep at e
  try dsimp only at e
  repeat' (split at e)
  all_goals first
    | (exfalso; exact none_some e)
    | (obtain rfl := Option.some.inj e)
    | skip
  all_goals try dsimp only
  all_goals repeat' first
    | with_reducible assumption
    | with_reducible apply State.modStash_keeps
    | with_reducible apply State.stFail_keeps
    | with_reducible apply State.stWriteNow_keeps

theorem State.stServeOne_keeps {r s : State} (c : CoreId) (h : Keeps r s) {t : State} (e : State.stServeOne s c = some t) : Keeps r t := by
  unfold State.stServeOne at e
  try dsimp only at e
  repeat' (split at e)
  all_goals first
    | (exfalso; exact none_some e)
    | (obtain rfl := Option.some.inj e)
    | skip
  all_goals try dsimp only
  all_goals repeat' first
    | with_reducible assumption
    | with_reducible apply State.modStash_keeps
    | with_reducible apply State.stReadNow_keeps
    | with_reducible apply State.setStatus_keeps
    | with_reducible apply State.stRqNow_keeps
    | with_reducible refine State.stStep_keeps (h := ?_) (e := by assumption)

theorem stServeGo_keeps {r : State} (c : CoreId) (x1 : Nat) {x2 : State} (h : Keeps r x2) : Keeps r (stServeGo c x1 x2) := by
  induction x1 generalizing x2 with
  | zero => simp only [stServeGo]; repeat' first
    | with_reducible assumption
  | succ n ih => simp only [stServeGo]; repeat' first
    | with_reducible assumption
    | with_reducible apply ih
    | with_reducible refine State.stServeOne_keeps (h := ?_) (e := by assumption)
    | split

theorem State.stServe_keeps {r s : State} (c : CoreId) (h : Keeps r s) : Keeps r (State.stServe s c) := by
  unfold State.stServe
  try dsimp only
  repeat' first
    | with_reducible assumption
    | with_reducible apply stServeGo_keeps

theorem State.winPut_keeps {r s : State} (c : CoreId) (x2 : WReg) (v : W32) (h : Keeps r s) : Keeps r (State.winPut s c x2 v) := by
  unfold State.winPut
  try dsimp only
  repeat' first
    | with_reducible assumption
    | with_reducible apply State.writeCtl_keeps
    | with_reducible apply State.writeResume_keeps
    | with_reducible apply State.modCtx_keeps
    | with_reducible apply State.modStream_keeps
    | with_reducible apply State.fetchXd_keeps
    | with_reducible apply State.modCore_keeps
    | with_reducible apply State.stServe_keeps
    | with_reducible apply State.modStash_keeps
    | split

theorem winWriteGo_keeps {r : State} (c : CoreId) (off : Nat) (l : List W32) {s : State} (h : Keeps r s) : Keeps r (winWriteGo c off l s) := by
  induction hn : l.length using Nat.strong_induction_on generalizing off l s with
  | _ n ih =>
    subst hn
    match l with
    | [] => exact h
    | [v] => exact State.winPut_keeps _ _ _ h
    | v :: w :: t =>
      simp only [winWriteGo]
      refine keeps_ite ?_ ?_
      · exact ih t.length (by simp) _ _ (State.stServe_keeps _ (State.modStash_keeps _ _ h)) rfl
      · exact ih (w :: t).length (by simp) _ _ (State.winPut_keeps _ _ _ h) rfl

theorem State.winWrite_keeps {r s : State} (c : CoreId) (off : Nat) (l : List Byte) (h : Keeps r s) : Keeps r (State.winWrite s c off l) := by
  unfold State.winWrite
  try dsimp only
  repeat' first
    | with_reducible assumption
    | with_reducible apply winWriteGo_keeps

theorem State.winStore_keeps {r s : State} (c : CoreId) (p : PartId) (off : Nat) (l : List Byte) (h : Keeps r s) : Keeps r (State.winStore s c p off l).1 := by
  unfold State.winStore
  try dsimp only
  repeat' first
    | with_reducible assumption
    | with_reducible apply State.settle_keeps
    | with_reducible apply State.winWrite_keeps
    | with_reducible apply State.refuse_keeps
    | split

theorem State.mirrorRead_keeps {r s : State} (x1 : Route) (off : Nat) (n : Nat) (h : Keeps r s) : Keeps r (State.mirrorRead s x1 off n).1 := by
  unfold State.mirrorRead
  try dsimp only
  repeat' first
    | with_reducible assumption
    | with_reducible apply State.dictRead_keeps
    | (with_reducible apply keeps_foldl_fst; intro _ _ _; try dsimp only)

theorem State.mirrorWrite_keeps {r s : State} (x1 : Route) (off : Nat) (vs : List W64) (h : Keeps r s) : Keeps r (State.mirrorWrite s x1 off vs) := by
  unfold State.mirrorWrite
  try dsimp only
  repeat' first
    | with_reducible assumption
    | with_reducible apply State.dictWrite_keeps
    | (with_reducible apply keeps_foldl; intro _ _ _; try dsimp only)

theorem State.holdStream_keeps {r s : State} (i : Issued) (h0 : HeadWait) (h : Keeps r s) : Keeps r (State.holdStream s i h0) := by
  unfold State.holdStream
  try dsimp only
  repeat' first
    | with_reducible assumption
    | with_reducible apply State.onStream_keeps

theorem State.post_keeps {r s : State} (c : CoreId) (t : Stream) (ws : List W256) (h : Keeps r s) : Keeps r (State.post s c t ws) := by
  unfold State.post
  try dsimp only
  repeat' first
    | with_reducible assumption
    | with_reducible apply State.modCtx_keeps
    | with_reducible apply State.modCore_keeps

end Sys2Proof.Machine
end

