-- ==== Sys2Proof/Laws/KeepsD.lean ====
section
/-!
SUPPORT. What each operation keeps (D): one lemma per operation, in the order of use.
-/
namespace Sys2Proof.Machine

theorem State.abandonReads_keeps {r s : State} (c : CoreId) (h : Keeps r s) : Keeps r (State.abandonReads s c) := by
  unfold State.abandonReads
  try dsimp only
  repeat' first
    | with_reducible assumption
    | (fail_if_no_progress (with_reducible apply keeps_mk))

theorem State.scrubPass_keeps {r s : State} (d : District) (h : Keeps r s) : Keeps r (State.scrubPass s d) := by
  unfold State.scrubPass
  try dsimp only
  repeat' first
    | with_reducible assumption
    | with_reducible apply State.modStack_keeps
    | with_reducible apply State.incD_keeps
    | with_reducible apply keeps_ite
    | (with_reducible apply keeps_foldl; intro _ _ _; try dsimp only)

theorem State.setRefresh_keeps {r s : State} (d : District) (n : Nat) (h : Keeps r s) : Keeps r (State.setRefresh s d n) := by
  unfold State.setRefresh
  try dsimp only
  repeat' first
    | with_reducible assumption
    | with_reducible apply State.setDN_keeps

theorem State.heat_keeps {r s : State} (d : District) (h : Keeps r s) : Keeps r (State.heat s d) := by
  unfold State.heat
  try dsimp only
  repeat' first
    | with_reducible assumption
    | with_reducible apply State.modDist_keeps
    | (fail_if_no_progress (with_reducible apply keeps_mk))
    | with_reducible apply keeps_ite

theorem State.getBlocks_keeps {r s : State} (c : CoreId) (x : CtxId) (id : Nat) (h : Keeps r s) : Keeps r (s.getBlocks c x id) := by
  unfold State.getBlocks
  split
  · exact h
  · dsimp only
    split
    · exact h
    · refine keeps_foldl (fun s b hs => ?_) _ _ h
      split
      · exact hs
      · split
        · exact State.modJob_keeps _ _ _ _ (keeps_mem hs (Mem.wf_setHeader _ _ _))
        · split
          · exact hs
          · exact State.modJob_keeps _ _ _ _ (State.mergeBlock_keeps _ _ hs)

theorem State.checkKept_keeps {r s : State} (m : Mem) (rs : List (Nat × Nat)) (h : Keeps r s) : Keeps r (s.checkKept m rs).1 :=
  keeps_swap (m := m) h fun q hq => State.checkRanges_keeps _ hq

theorem State.pumpStep_keeps {r s : State} (c : CoreId) (x : CtxId) (id : Nat) (h : Keeps r s) {t : State} (e : s.pumpStep c x id = some t) :
    Keeps r t := by
  unfold State.pumpStep at e
  split at e
  · cases e
  · split at e
    · cases e
    · dsimp only at e
      split at e
      · cases e
      · obtain ⟨w, hw, rfl⟩ := Option.map_eq_some_iff.1 e
        exact State.modJob_keeps _ _ _ _ (State.sendReq_keeps (h := h) (e := hw))

theorem pumpGo_keeps {r : State} (c : CoreId) (x : CtxId) (id : Nat) (x3 : Nat) {x4 : State} (h : Keeps r x4) : Keeps r (pumpGo c x id x3 x4) := by
  induction x3 generalizing x4 with
  | zero => simp only [pumpGo]; repeat' first
    | with_reducible assumption
  | succ n ih => simp only [pumpGo]; repeat' first
    | with_reducible assumption
    | with_reducible apply ih
    | with_reducible refine State.pumpStep_keeps (h := ?_) (e := by assumption)
    | split

theorem State.pump_keeps {r s : State} (c : CoreId) (x : CtxId) (id : Nat) (h : Keeps r s) : Keeps r (State.pump s c x id) := by
  unfold State.pump
  try dsimp only
  repeat' first
    | with_reducible assumption
    | with_reducible apply pumpGo_keeps
    | split

theorem State.rqBlock_keeps {r : State} (i : Issued) (d : BitVec 512) {s : State} (b : Nat) (h : Keeps r s) : Keeps r (State.rqBlock i d s b) := by
  have g1 := @State.readMem_keeps r
  unfold State.rqBlock
  generalize State.check = f0
  generalize State.readMem = f1 at g1 ⊢
  revert f0 f1
  refine id ?_
  intro f0 f1 g1
  try dsimp only
  repeat' first
    | with_reducible assumption
    | with_reducible apply g1
    | with_reducible apply State.modJob_keeps
    | with_reducible apply State.refuse_keeps
    | with_reducible apply keeps_ite
    | split

theorem rqGo_keeps {r : State} (i : Issued) (d : BitVec 512) (n : Nat) {s : State} (h : Keeps r s) : Keeps r (rqGo i d n s) := by
  induction n generalizing s with
  | zero => exact h
  | succ n ih =>
    simp only [rqGo]
    split
    · exact h
    · rename_i j hj
      have hq := State.modJob_keeps i.core i.ctx i.id (fun j => { j with queue := [] }) h
      split
      · split
        · exact State.work_keeps _ _ (keeps_ite (State.partFault_keeps _ _ _ hq) hq)
        · exact hq
      · split
        · exact State.pump_keeps _ _ _ h
        · split
          · exact State.qntRefuse_keeps _ h
          · split
            · exact State.quantRun_keeps _ _ _ _ _ _ (State.checkKept_keeps _ _ h)
            · refine ih (keeps_foldl (fun s b hs => ?_) _ _ h)
              exact State.rqBlock_keeps _ _ _ hs

theorem State.rqStep_keeps {r s : State} (i : Issued) (d : BitVec 512) (h : Keeps r s) : Keeps r (State.rqStep s i d) := by
  unfold State.rqStep
  try dsimp only
  repeat' first
    | with_reducible assumption
    | with_reducible apply rqGo_keeps
    | with_reducible apply keeps_ite

theorem State.pumpOrd_keeps {r s : State} (c : CoreId) (x : CtxId) (id : Nat) (h : Keeps r s) : Keeps r (State.pumpOrd s c x id) := by
  unfold State.pumpOrd
  try dsimp only
  repeat' first
    | with_reducible assumption
    | with_reducible apply State.pump_keeps
    | with_reducible apply keeps_ite
    | split

theorem State.pumpAll_keeps {r s : State} (c : CoreId) (h : Keeps r s) : Keeps r (State.pumpAll s c) := by
  unfold State.pumpAll
  try dsimp only
  repeat' first
    | with_reducible assumption
    | with_reducible apply State.pumpOrd_keeps
    | with_reducible apply keeps_ite
    | (with_reducible apply keeps_foldl; intro _ _ _; try dsimp only)

theorem State.jobNext_keeps {r s : State} (c : CoreId) (x : CtxId) (id : Nat) (h : Keeps r s) : Keeps r (State.jobNext s c x id) := by
  unfold State.jobNext
  try dsimp only
  repeat' first
    | with_reducible assumption
    | with_reducible apply State.pumpAll_keeps
    | with_reducible apply State.modJob_keeps
    | with_reducible apply State.partFault_keeps
    | with_reducible apply State.setStatus_keeps
    | with_reducible apply keeps_ite
    | split

theorem State.answered_keeps {r s : State} (x1 : Req) (h : Keeps r s) : Keeps r (State.answered s x1) := by
  unfold State.answered
  try dsimp only
  repeat' first
    | with_reducible assumption
    | with_reducible apply State.restoreEnd_keeps
    | with_reducible apply State.ckptAnswer_keeps
    | with_reducible apply State.getBlocks_keeps
    | with_reducible apply State.modJob_keeps
    | with_reducible apply State.rqStep_keeps
    | with_reducible apply State.collPump_keeps
    | with_reducible apply State.pump_keeps
    | with_reducible apply State.jobNext_keeps
    | with_reducible apply keeps_ite
    | split

theorem State.reqFails_keeps {r s : State} (x1 : Req) (status : BitVec 4) (h : Keeps r s) : Keeps r (State.reqFails s x1 status) := by
  unfold State.reqFails
  try dsimp only
  repeat' first
    | with_reducible assumption
    | with_reducible apply State.modPart_keeps
    | with_reducible apply State.raiseMgmt_keeps
    | with_reducible apply State.modJob_keeps
    | with_reducible apply keeps_ite
    | split

theorem State.takeData_keeps {r s : State} (x1 : Req) (addr : Nat) (units : Nat) (p : Packet) (h : Keeps r s) : Keeps r (State.takeData s x1 addr units p) := by
  have g2 := @State.writeMem_keeps r
  unfold State.takeData
  generalize State.check = f0
  generalize psnUnits = f1
  generalize State.writeMem = f2 at g2 ⊢
  revert f0 f1 f2
  refine id ?_
  intro f0 f1 f2 g2
  try dsimp only
  repeat' first
    | with_reducible assumption
    | with_reducible apply State.writeMerge_keeps
    | with_reducible apply State.modJob_keeps
    | with_reducible apply g2
    | with_reducible apply State.reqFails_keeps
    | with_reducible apply State.refuse_keeps
    | split

theorem State.resOutcome_keeps {r s : State} (p : PartId) (gid : W16) (plane : Nat) (grant : Option W16) (h : Keeps r s) : Keeps r (State.resOutcome s p gid plane grant) := by
  unfold State.resOutcome
  try dsimp only
  repeat' first
    | with_reducible assumption
    | with_reducible apply State.sendMsg_keeps
    | with_reducible apply State.reserved_keeps
    | (with_reducible apply keeps_foldl; intro _ _ _; try dsimp only)
    | split

theorem State.takeRsp_keeps {r s : State} (x1 : Req) (p : Packet) (h : Keeps r s) : Keeps r (State.takeRsp s x1 p) := by
  unfold State.takeRsp
  try dsimp only
  repeat' first
    | with_reducible assumption
    | with_reducible apply State.takeData_keeps
    | with_reducible apply State.modJob_keeps
    | with_reducible apply State.resOutcome_keeps
    | with_reducible apply State.restoreData_keeps
    | with_reducible apply keeps_ite
    | split

theorem State.reqTimeout_keeps {r s : State} (x1 : Req) (h : Keeps r s) : Keeps r (State.reqTimeout s x1) := by
  unfold State.reqTimeout
  try dsimp only
  repeat' first
    | with_reducible assumption
    | with_reducible apply State.raiseMgmt_keeps
    | with_reducible apply State.reqFails_keeps
    | with_reducible apply State.modJob_keeps
    | with_reducible apply State.raiseCtx_keeps
    | split

theorem State.slowestClose_keeps {r s : State} (p : PartId) (h : Keeps r s) : Keeps r (State.slowestClose s p) := by
  unfold State.slowestClose
  try dsimp only
  repeat' first
    | with_reducible assumption
    | with_reducible apply State.setD_keeps
    | with_reducible apply State.setDN_keeps
    | with_reducible apply State.modPart_keeps

theorem State.latchSeeds_keeps {r s : State} (p : PartId) (n : W64) (h : Keeps r s) : Keeps r (State.latchSeeds s p n) := by
  unfold State.latchSeeds
  try dsimp only
  repeat' first
    | with_reducible assumption
    | with_reducible apply State.setD_keeps
    | with_reducible apply State.modPart_keeps
    | with_reducible apply keeps_ite

theorem State.urge_keeps {r s : State} (p : PartId) (n : W64) (h : Keeps r s) : Keeps r (State.urge s p n) := by
  unfold State.urge
  try dsimp only
  repeat' first
    | with_reducible assumption
    | (fail_if_no_progress (with_reducible apply keeps_mk))

theorem State.damaskWait_keeps {r s : State} (p : PartId) (h : Keeps r s) : Keeps r (State.damaskWait s p) := by
  unfold State.damaskWait
  try dsimp only
  repeat' first
    | with_reducible assumption
    | with_reducible apply State.urge_keeps
    | with_reducible apply State.setDN_keeps

theorem State.setCap_keeps {r s : State} (k : Capture) (h : Keeps r s) : Keeps r (State.setCap s k) := by
  unfold State.setCap
  try dsimp only
  repeat' first
    | with_reducible assumption
    | (fail_if_no_progress (with_reducible apply keeps_mk))

theorem State.dropCap_keeps {r s : State} (id : Nat) (h : Keeps r s) : Keeps r (State.dropCap s id) := by
  unfold State.dropCap
  try dsimp only
  repeat' first
    | with_reducible assumption
    | (fail_if_no_progress (with_reducible apply keeps_mk))

theorem State.damaskFault_keeps {r s : State} (k : Capture) (loser : Nat) (h : Keeps r s) : Keeps r (State.damaskFault s k loser) := by
  unfold State.damaskFault
  try dsimp only
  repeat' first
    | with_reducible assumption
    | with_reducible apply State.raise_keeps

theorem State.unresolved_keeps {r s : State} (k : Capture) (h : Keeps r s) : Keeps r (State.unresolved s k) := by
  unfold State.unresolved
  try dsimp only
  repeat' first
    | with_reducible assumption
    | with_reducible apply State.damaskFault_keeps
    | with_reducible apply State.incD_keeps
    | with_reducible apply State.dropCap_keeps

theorem State.loses_keeps {r s : State} (k : Capture) (c : Option CoreId) (h : Keeps r s) : Keeps r (State.loses s k c) := by
  unfold State.loses
  try dsimp only
  repeat' first
    | with_reducible assumption
    | with_reducible apply State.nominate_keeps
    | with_reducible apply State.damaskFault_keeps
    | with_reducible apply State.dropCap_keeps
    | with_reducible apply State.unresolved_keeps
    | split

theorem State.commitStep_keeps {r s : State} (p : PartId) (h : Keeps r s) : Keeps r (State.commitStep s p) := by
  unfold State.commitStep
  try dsimp only
  repeat' first
    | with_reducible assumption
    | with_reducible apply State.setCrit_keeps
    | with_reducible apply State.modGate_keeps
    | with_reducible apply State.ckptValid_keeps
    | with_reducible apply State.settle_keeps
    | with_reducible apply State.damaskWait_keeps
    | with_reducible apply State.setDN_keeps
    | with_reducible apply keeps_ite

theorem State.enter_keeps {r s : State} (i : Issued) (v : W256) (f : Issued → State → State) (hf : ∀ i s, Keeps r s → Keeps r (f i s)) (h : Keeps r s) :
    Keeps r (s.enter i v f) := by
  unfold State.enter
  dsimp only
  split
  · exact State.modJob_keeps _ _ _ _ h
  · exact hf _ _ h

theorem State.tripTally_keeps {r s : State} (p : PartId) (step : W64) (layer : Nat) (causes : Nat) (h : Keeps r s) : Keeps r (State.tripTally s p step layer causes) := by
  unfold State.tripTally
  try dsimp only
  repeat' first
    | with_reducible assumption
    | with_reducible apply State.modPart_keeps

theorem State.endSequence_keeps {r s : State} (c : CoreId) (x : CtxId) (op : TenOp) (h : Keeps r s) : Keeps r (State.endSequence s c x op) := by
  unfold State.endSequence
  try dsimp only
  repeat' first
    | with_reducible assumption
    | with_reducible apply State.modPart_keeps
    | with_reducible apply State.modCtx_keeps

theorem State.fbFetch_keeps {r s : State} (c : CoreId) (x : CtxId) (op : TenOp) (h : Keeps r s) : Keeps r (State.fbFetch s c x op) := by
  unfold State.fbFetch
  try dsimp only
  repeat' first
    | with_reducible assumption
    | with_reducible apply State.modJob_keeps
    | with_reducible apply keeps_ite
    | (with_reducible apply keeps_foldl; intro _ _ _; try dsimp only)

theorem State.modTen_keeps {r s : State} (c : CoreId) (x : CtxId) (id : Nat) (f : TenOp → TenOp) (h : Keeps r s) : Keeps r (State.modTen s c x id f) := by
  unfold State.modTen
  try dsimp only
  repeat' first
    | with_reducible assumption
    | with_reducible apply State.modCtx_keeps

theorem State.startRungRun_keeps {r s : State} (c : CoreId) (x : CtxId) (id : Nat) (rung : Nat) (h : Keeps r s) : Keeps r (State.startRungRun s c x id rung) := by
  unfold State.startRungRun
  try dsimp only
  repeat' first
    | with_reducible assumption
    | with_reducible apply State.modTen_keeps
    | with_reducible apply State.modJob_keeps
    | with_reducible apply State.pump_keeps
    | with_reducible apply State.fbFetch_keeps
    | split

theorem State.fbOperand_keeps {r s : State} (c : CoreId) (x : CtxId) (op : TenOp) (b : Bool) (t : Nat) (h : Keeps r s) :
    Keeps r (s.fbOperand c x op b t).1 := by
  unfold State.fbOperand
  extract_lets d own st q rs p k
  split
  · exact State.refuse_keeps _ h
  · split
    rename_i e
    split
    have z := keeps_fst e (r := r) (by
      split
      · exact State.checkRanges_keeps _ h
      · exact State.checkKept_keeps _ _ h)
    extract_lets _ s2
    have z2 : Keeps r s2 := State.modCtx_keeps _ _ _ z
    dsimp only
    exact State.modCtx_keeps _ _ _ z2

theorem State.countRung_keeps {r s : State} (c : CoreId) (x : CtxId) (rung : Nat) (h : Keeps r s) : Keeps r (State.countRung s c x rung) := by
  unfold State.countRung
  try dsimp only
  repeat' first
    | with_reducible assumption
    | with_reducible apply State.modCtx_keeps

theorem State.fbStop_keeps {r s : State} (c : CoreId) (x : CtxId) (op : TenOp) (errs : List (BitVec 4)) (h : Keeps r s) : Keeps r (State.fbStop s c x op errs) := by
  unfold State.fbStop
  try dsimp only
  repeat' first
    | with_reducible assumption
    | with_reducible apply State.endSequence_keeps
    | with_reducible apply State.countRung_keeps
    | with_reducible apply State.partFault_keeps
    | with_reducible apply State.modJob_keeps
    | with_reducible apply State.modTen_keeps
    | with_reducible apply keeps_ite

theorem State.tenPoison_keeps {r s : State} (c : CoreId) (x : CtxId) (op : TenOp) (x4 : ReadChk) (f : Nat → W64) (h : Keeps r s) : Keeps r (State.tenPoison s c x op x4 f) := by
  unfold State.tenPoison
  try dsimp only
  repeat' first
    | with_reducible assumption
    | with_reducible apply State.raiseRead_keeps
    | with_reducible apply State.modJob_keeps
    | with_reducible apply State.modTen_keeps
    | split

theorem State.expose_keeps {r s : State} (c : CoreId) (x : CtxId) (id : Nat) (h : Keeps r s) : Keeps r (State.expose s c x id) := by
  unfold State.expose
  try dsimp only
  repeat' first
    | with_reducible assumption
    | with_reducible apply State.modCtx_keeps
    | with_reducible apply keeps_ite
    | split

theorem State.fbTile_keeps {r s : State} (c : CoreId) (x : CtxId) (op : TenOp) (h : Keeps r s) : Keeps r (State.fbTile s c x op) := by
  unfold State.fbTile
  try dsimp only
  repeat' first
    | with_reducible assumption
    | with_reducible apply State.fbOperand_keeps
    | with_reducible apply State.fbStop_keeps
    | with_reducible apply State.tenPoison_keeps
    | with_reducible apply State.modCtx_keeps
    | with_reducible apply State.modTen_keeps
    | with_reducible apply State.expose_keeps
    | with_reducible apply keeps_ite
    | split

theorem State.fbStep_keeps {r s : State} (c : CoreId) (x : CtxId) (op : TenOp) (h : Keeps r s) : Keeps r (State.fbStep s c x op) := by
  unfold State.fbStep
  try dsimp only
  repeat' first
    | with_reducible assumption
    | with_reducible apply State.fbStop_keeps
    | with_reducible apply State.modJob_keeps
    | with_reducible apply State.fbTile_keeps
    | with_reducible apply keeps_ite
    | split

theorem State.mainOperand_keeps {r s : State} (c : CoreId) (x : CtxId) (op : TenOp) (b : Bool) (h : Keeps r s) : Keeps r (State.mainOperand s c x op b).1 := by
  unfold State.mainOperand
  try dsimp only
  repeat' first
    | with_reducible assumption
    | with_reducible apply State.refuse_keeps
    | with_reducible apply State.checkRanges_keeps
    | split

theorem State.imageOperand_keeps {r s : State} (c : CoreId) (x : CtxId) (op : TenOp) (b : Bool) (h : Keeps r s) :
    Keeps r (s.imageOperand c x op b).1 := by
  unfold State.imageOperand
  extract_lets
  split
  · exact State.refuse_keeps _ h
  · split
    · exact h
    · split
      · exact State.refuse_keeps _ h
      · rename_i rs _ _ _ _
        have := State.checkRanges_keeps rs h
        exact this

theorem State.readOperand_keeps {r s : State} (c : CoreId) (x : CtxId) (op : TenOp) (b : Bool) (h : Keeps r s) : Keeps r (State.readOperand s c x op b).1 := by
  unfold State.readOperand
  try dsimp only
  repeat' first
    | with_reducible assumption
    | with_reducible apply State.mainOperand_keeps
    | with_reducible apply State.imageOperand_keeps
    | split

theorem State.tenStop_keeps {r s : State} (c : CoreId) (x : CtxId) (op : TenOp) (status : Byte) (h : Keeps r s) : Keeps r (State.tenStop s c x op status) := by
  unfold State.tenStop
  try dsimp only
  repeat' first
    | with_reducible assumption
    | with_reducible apply State.setStatus_keeps
    | with_reducible apply State.modCtx_keeps

theorem State.tenRefused_keeps {r s : State} (c : CoreId) (x : CtxId) (op : TenOp) (k : Chk) (h : Keeps r s) : Keeps r (State.tenRefused s c x op k) := by
  unfold State.tenRefused
  try dsimp only
  repeat' first
    | with_reducible assumption
    | with_reducible apply State.tenStop_keeps
    | with_reducible apply State.partFault_keeps
    | with_reducible apply keeps_ite

theorem State.tenHdrErr_keeps {r s : State} (c : CoreId) (x : CtxId) (op : TenOp) (h : Keeps r s) : Keeps r (State.tenHdrErr s c x op) := by
  unfold State.tenHdrErr
  try dsimp only
  repeat' first
    | with_reducible assumption
    | with_reducible apply State.tenStop_keeps
    | with_reducible apply State.modCtx_keeps

theorem State.tenTile_keeps {r s : State} (c : CoreId) (x : CtxId) (op : TenOp) (h : Keeps r s) : Keeps r (State.tenTile s c x op) := by
  unfold State.tenTile
  try dsimp only
  repeat' first
    | with_reducible assumption
    | with_reducible apply State.readOperand_keeps
    | with_reducible apply State.tenRefused_keeps
    | with_reducible apply State.tenHdrErr_keeps
    | with_reducible apply State.tenPoison_keeps
    | with_reducible apply State.modCtx_keeps
    | with_reducible apply State.expose_keeps
    | with_reducible apply State.modTen_keeps
    | with_reducible apply keeps_ite
    | split

theorem State.tenRefuse_keeps {r s : State} (c : CoreId) (x : CtxId) (id : Nat) (h : Keeps r s) : Keeps r (State.tenRefuse s c x id) := by
  unfold State.tenRefuse
  try dsimp only
  repeat' first
    | with_reducible assumption
    | with_reducible apply State.setStatus_keeps
    | with_reducible apply State.modCtx_keeps

theorem State.tenStart_keeps {r s : State} (c : CoreId) (x : CtxId) (op : TenOp) (h : Keeps r s) {t : State} (e : State.tenStart s c x op = some t) : Keeps r t := by
  have g1 := @State.checkRanges_keeps r
  have g2 := @State.tenPoison_keeps r
  unfold State.tenStart at e
  generalize State.checkKeys = f0 at e
  generalize State.checkRanges = f1 at g1 e
  generalize State.tenPoison = f2 at g2 e
  generalize elemsLe = f3 at e
  revert e f0 f1 f2 f3
  refine id ?_
  intro f0 f1 g1 f2 g2 f3 e
  try dsimp only at e
  repeat' (split at e)
  all_goals first
    | (exfalso; exact none_some e)
    | (obtain rfl := Option.some.inj e)
    | skip
  all_goals try dsimp only
  all_goals repeat' first
    | with_reducible assumption
    | with_reducible apply State.modTen_keeps
    | with_reducible apply State.tenRefuse_keeps
    | with_reducible apply State.modCtx_keeps
    | with_reducible apply State.modJob_keeps
    | with_reducible apply State.raiseCtx_keeps
    | with_reducible apply State.tenRefused_keeps
    | with_reducible apply State.refuse_keeps
    | with_reducible apply g1
    | with_reducible apply g2

theorem State.kTileGo_keeps {r s : State} (c : CoreId) (x : CtxId) (h : Keeps r s) : Keeps r (State.kTileGo s c x) := by
  unfold State.kTileGo
  try dsimp only
  repeat' first
    | with_reducible assumption
    | with_reducible apply State.fbStep_keeps
    | with_reducible apply State.tenTile_keeps
    | with_reducible refine State.tenStart_keeps (h := ?_) (e := by assumption)
    | with_reducible apply State.startRungRun_keeps
    | with_reducible apply keeps_ite
    | split

theorem State.ladderCheck_keeps {r s : State} (c : CoreId) (x : CtxId) (op : TenOp) (h : Keeps r s) : Keeps r (State.ladderCheck s c x op) := by
  unfold State.ladderCheck
  try dsimp only
  repeat' first
    | with_reducible assumption
    | with_reducible apply State.modTen_keeps
    | with_reducible apply State.endSequence_keeps
    | with_reducible apply State.modCtx_keeps
    | with_reducible apply State.tripTally_keeps
    | with_reducible apply State.startRungRun_keeps
    | with_reducible apply keeps_ite

theorem State.capture_keeps {r s : State} (c : CoreId) (x : CtxId) (op : TenOp) (h : Keeps r s) : Keeps r (State.capture s c x op) := by
  unfold State.capture
  try dsimp only
  repeat' first
    | with_reducible assumption
    | with_reducible apply State.incD_keeps
    | (fail_if_no_progress (with_reducible apply keeps_mk))
    | with_reducible apply keeps_ite

theorem State.tenLeave_keeps {r s : State} (c : CoreId) (x : CtxId) (op : TenOp) (h : Keeps r s) : Keeps r (State.tenLeave s c x op) := by
  unfold State.tenLeave
  try dsimp only
  repeat' first
    | with_reducible assumption
    | with_reducible apply State.capture_keeps
    | with_reducible apply State.modCtx_keeps
    | with_reducible apply State.setStatus_keeps
    | split

theorem State.ftqEntry_keeps {r s : State} (c : CoreId) (x : CtxId) (h : Keeps r s) : Keeps r (State.ftqEntry s c x) := by
  unfold State.ftqEntry
  try dsimp only
  repeat' first
    | with_reducible assumption
    | with_reducible apply State.tenLeave_keeps
    | with_reducible apply State.modCtx_keeps
    | with_reducible apply State.modCore_keeps
    | with_reducible apply keeps_ite
    | split

theorem State.portGoesDown_keeps {r s : State} (n : PortId) (h : Keeps r s) : Keeps r (State.portGoesDown s n) := by
  unfold State.portGoesDown
  try dsimp only
  repeat' first
    | with_reducible assumption
    | with_reducible apply State.setDN_keeps
    | with_reducible apply State.modPort_keeps
    | with_reducible apply State.raiseMgmt_keeps
    | (with_reducible apply keeps_foldl; intro _ _ _; try dsimp only)

theorem State.swapLane_keeps {r s : State} (n : PortId) (lane : Fin 16) (h : Keeps r s) : Keeps r (State.swapLane s n lane) := by
  unfold State.swapLane
  try dsimp only
  repeat' first
    | with_reducible assumption
    | with_reducible apply State.setDN_keeps
    | with_reducible apply State.modPort_keeps

theorem State.laneFails_keeps {r s : State} (n : PortId) (lane : Fin 16) (h : Keeps r s) : Keeps r (State.laneFails s n lane) := by
  unfold State.laneFails
  try dsimp only
  repeat' first
    | with_reducible assumption
    | with_reducible apply State.portGoesDown_keeps
    | with_reducible apply State.emit_keeps
    | with_reducible apply State.swapLane_keeps
    | (fail_if_no_progress (with_reducible apply keeps_mk))
    | with_reducible apply keeps_ite

theorem drainGo_keeps {r : State} (n : PortId) (k : Nat) (l : List Packet) (held : List Packet) {s : State} (h : Keeps r s) :
    Keeps r (drainGo n k l held s) := by
  induction k generalizing l held s with
  | zero =>
    cases l with
    | nil => exact State.modPort_keeps _ _ h
    | cons p t => exact State.modPort_keeps _ _ h
  | succ k ih =>
    cases l with
    | nil => exact State.modPort_keeps _ _ h
    | cons p t =>
      simp only [drainGo]
      exact keeps_ite (ih _ _ (State.launch_keeps _ _ h)) (ih _ _ h)

theorem State.drainPort_keeps {r s : State} (n : PortId) (h : Keeps r s) : Keeps r (State.drainPort s n) := by
  unfold State.drainPort
  try dsimp only
  repeat' first
    | with_reducible assumption
    | with_reducible apply drainGo_keeps

theorem State.plansAgain_keeps {r s : State} (h : Keeps r s) : Keeps r (State.plansAgain s) := by
  unfold State.plansAgain
  try dsimp only
  repeat' first
    | with_reducible assumption
    | with_reducible apply State.regroup_keeps
    | with_reducible apply State.planDecide_keeps
    | (with_reducible apply keeps_foldl; intro _ _ _; try dsimp only)

theorem State.mclAnswer_keeps {r s : State} (m : MclMsg) (opc : Nat) (status : Nat) (psn : Byte) (lines : List (BitVec 512)) (h : Keeps r s) : Keeps r (State.mclAnswer s m opc status psn lines) := by
  unfold State.mclAnswer
  try dsimp only
  repeat' first
    | with_reducible assumption
    | with_reducible apply State.mclSend_keeps

theorem State.mclCmp_keeps {r s : State} (m : MclMsg) (status : Nat) (h : Keeps r s) : Keeps r (State.mclCmp s m status) := by
  unfold State.mclCmp
  try dsimp only
  repeat' first
    | with_reducible assumption
    | with_reducible apply State.mclAnswer_keeps

theorem State.outdate_keeps {r s : State} (w : Win) (line : Nat) (h : Keeps r s) : Keeps r (State.outdate s w line) := by
  unfold State.outdate
  try dsimp only
  repeat' first
    | with_reducible assumption
    | (fail_if_no_progress (with_reducible apply keeps_mk))

theorem State.ringNotice_keeps {r s : State} (w : Win) (line : Nat) (h : Keeps r s) : Keeps r (State.ringNotice s w line) := by
  unfold State.ringNotice
  try dsimp only
  repeat' first
    | with_reducible assumption
    | with_reducible apply State.outdate_keeps
    | with_reducible apply State.holdLine_keeps
    | with_reducible apply State.setRing_keeps
    | with_reducible apply keeps_ite
    | (with_reducible apply keeps_foldl; intro _ _ _; try dsimp only)

theorem State.notice_keeps {r s : State} (a : Nat) (h : Keeps r s) : Keeps r (State.notice s a) := by
  unfold State.notice
  try dsimp only
  repeat' first
    | with_reducible assumption
    | with_reducible apply State.ringNotice_keeps
    | with_reducible apply State.outdate_keeps
    | with_reducible apply State.readCons_keeps
    | with_reducible apply keeps_ite
    | split

theorem State.evict_keeps {r s : State} (w : Win) (line : Nat) (h : Keeps r s) : Keeps r (State.evict s w line) := by
  unfold State.evict
  try dsimp only
  repeat' first
    | with_reducible assumption
    | with_reducible apply State.mclReq_keeps
    | with_reducible apply State.setRing_keeps

theorem acceptGo_keeps {r : State} (w : Win) (x1 : Nat) {x2 : State} (h : Keeps r x2) : Keeps r (acceptGo w x1 x2) := by
  induction x1 generalizing x2 with
  | zero => simp only [acceptGo]; repeat' first
    | with_reducible assumption
  | succ n ih => simp only [acceptGo]; repeat' first
    | with_reducible assumption
    | with_reducible apply ih
    | with_reducible apply State.evict_keeps
    | with_reducible apply State.holdSlot_keeps
    | with_reducible apply State.setRing_keeps
    | with_reducible apply keeps_ite
    | split

theorem State.lineData_keeps {r s : State} (win : Fin 64) (line : Nat) (stale : Bool) (m : MclMsg) (h : Keeps r s) : Keeps r (State.lineData s win line stale m) := by
  unfold State.lineData
  try dsimp only
  repeat' first
    | with_reducible assumption
    | with_reducible apply State.holdLine_keeps
    | with_reducible apply acceptGo_keeps
    | with_reducible apply State.setRing_keeps
    | with_reducible apply keeps_ite
    | split

theorem State.blkAnswer_keeps {r s : State} (win : Fin 64) (seq : W32) (status : Option Byte) (bytes : Nat) (h : Keeps r s) : Keeps r (State.blkAnswer s win seq status bytes) := by
  unfold State.blkAnswer
  try dsimp only
  repeat' first
    | with_reducible assumption
    | with_reducible apply State.modBlk_keeps

theorem State.blkRsp_keeps {r s : State} (win : Fin 64) (seq : W32) (off : Nat) (units : Nat) (m : MclMsg) (h : Keeps r s) : Keeps r (State.blkRsp s win seq off units m) := by
  unfold State.blkRsp
  try dsimp only
  repeat' first
    | with_reducible assumption
    | with_reducible apply State.blkPump_keeps
    | with_reducible apply State.blkAnswer_keeps
    | with_reducible apply State.blkData_keeps
    | with_reducible apply keeps_ite
    | split

theorem State.mclResponse_keeps {r s : State} (m : MclMsg) (data : Bool) (h : Keeps r s) : Keeps r (State.mclResponse s m data) := by
  unfold State.mclResponse
  try dsimp only
  repeat' first
    | with_reducible assumption
    | with_reducible apply State.lineData_keeps
    | with_reducible apply State.readCons_keeps
    | with_reducible apply State.setComp_keeps
    | with_reducible apply State.blkRsp_keeps
    | with_reducible apply State.blkPump_keeps
    | with_reducible apply State.blkAnswer_keeps
    | with_reducible apply State.finish_keeps
    | with_reducible apply State.streamData_keeps
    | with_reducible apply State.restoreEnd_keeps
    | with_reducible apply State.ckptAnswer_keeps
    | with_reducible apply State.flushMcl_keeps
    | (fail_if_no_progress (with_reducible apply keeps_mk))
    | with_reducible apply keeps_ite
    | split

theorem State.mclRefuse_keeps {r s : State} (m : MclMsg) (n : Nat) (h : Keeps r s) : Keeps r (State.mclRefuse s m n) := by
  unfold State.mclRefuse
  try dsimp only
  repeat' first
    | with_reducible assumption
    | with_reducible apply State.incD_keeps
    | with_reducible apply State.refuse_keeps
    | with_reducible apply State.mgmtRefuse_keeps
    | with_reducible apply keeps_ite

theorem State.mrdMirror_keeps {r s : State} (m : MclMsg) (h : Keeps r s) : Keeps r (State.mrdMirror s m) := by
  unfold State.mrdMirror
  try dsimp only
  repeat' first
    | with_reducible assumption
    | with_reducible apply State.mirrorRead_keeps
    | with_reducible apply State.mclAnswer_keeps

theorem State.mrdMemory_keeps {r s : State} (m : MclMsg) (h : Keeps r s) : Keeps r (State.mrdMemory s m) := by
  unfold State.mrdMemory
  try dsimp only
  repeat' first
    | with_reducible assumption
    | with_reducible apply State.readMem_keeps
    | with_reducible apply State.mclAnswer_keeps
    | with_reducible apply keeps_ite

theorem State.holdAll_keeps {r s : State} (h : Keeps r s) : Keeps r (State.holdAll s) := by
  unfold State.holdAll
  try dsimp only
  repeat' first
    | with_reducible assumption
    | with_reducible apply State.holdWin_keeps
    | (with_reducible apply keeps_foldl; intro _ _ _; try dsimp only)

theorem State.mclUp_keeps {r s : State} (ver : Nat) (h : Keeps r s) : Keeps r (State.mclUp s ver) := by
  unfold State.mclUp
  try dsimp only
  repeat' first
    | with_reducible assumption
    | with_reducible apply State.setDN_keeps
    | with_reducible apply State.holdAll_keeps
    | with_reducible apply State.flushMcl_keeps
    | with_reducible apply State.postDone_keeps
    | (fail_if_no_progress (with_reducible apply keeps_mk))
    | (with_reducible apply keeps_foldl; intro _ _ _; try dsimp only)

theorem MclSink.lost_keeps {r : State} (k : MclSink) {s : State} (h : Keeps r s) : Keeps r (MclSink.lost k s) := by
  unfold MclSink.lost
  try dsimp only
  repeat' first
    | with_reducible assumption
    | with_reducible apply State.restoreEnd_keeps
    | with_reducible apply State.ckptAnswer_keeps
    | (fail_if_no_progress (with_reducible apply keeps_mk))
    | split

theorem State.mclRetrain_keeps {r s : State} (h : Keeps r s) : Keeps r (State.mclRetrain s) := by
  unfold State.mclRetrain
  try dsimp only
  repeat' first
    | with_reducible assumption
    | with_reducible apply State.abandonAll_keeps
    | with_reducible apply MclSink.lost_keeps
    | with_reducible apply State.mclTrain_keeps
    | with_reducible apply State.incD_keeps
    | (fail_if_no_progress (with_reducible apply keeps_mk))
    | (with_reducible apply keeps_foldl; intro _ _ _; try dsimp only)

theorem State.attestStatus_keeps {r s : State} (p : PartId) (status : Nat) (h : Keeps r s) : Keeps r (State.attestStatus s p status) := by
  unfold State.attestStatus
  try dsimp only
  repeat' first
    | with_reducible assumption
    | with_reducible apply State.mclSend_keeps

theorem State.sendFlit_keeps {r s : State} (h : Keeps r s) : Keeps r (State.sendFlit s) := by
  unfold State.sendFlit
  try dsimp only
  repeat' first
    | with_reducible assumption
    | with_reducible apply State.emit_keeps
    | (fail_if_no_progress (with_reducible apply keeps_mk))

theorem State.mclTick_keeps {r s : State} (h : Keeps r s) : Keeps r (State.mclTick s) := by
  unfold State.mclTick
  try dsimp only
  repeat' first
    | with_reducible assumption
    | with_reducible apply State.sendFlit_keeps
    | (fail_if_no_progress (with_reducible apply keeps_mk))
    | with_reducible apply keeps_ite
    | (with_reducible apply keeps_foldl; intro _ _ _; try dsimp only)

theorem State.mgtRead_keeps {r s : State} (p : PartId) (a : W64) (n : Nat) (h : Keeps r s) : Keeps r (State.mgtRead s p a n).1 := by
  unfold State.mgtRead
  try dsimp only
  repeat' first
    | with_reducible assumption
    | with_reducible apply State.addD_keeps
    | with_reducible apply State.mirrorRead_keeps
    | split

theorem State.mgtWrite_keeps {r s : State} (p : PartId) (a : W64) (l : List Byte) (h : Keeps r s) : Keeps r (State.mgtWrite s p a l).1 := by
  unfold State.mgtWrite
  try dsimp only
  repeat' first
    | with_reducible assumption
    | with_reducible apply State.addD_keeps
    | with_reducible apply State.mirrorWrite_keeps
    | with_reducible apply State.settle_keeps
    | with_reducible apply State.winWrite_keeps
    | split

theorem State.mgtStatus_keeps {r s : State} (x1 : MgtRes) (h : Keeps r s) : Keeps r (State.mgtStatus s x1).1 := by
  unfold State.mgtStatus
  try dsimp only
  repeat' first
    | with_reducible assumption
    | with_reducible apply State.refuse_keeps
    | split

theorem State.writeClean_keeps {r s : State} (k : Nat) (l : List Byte) (h : Keeps r s) : Keeps r (State.writeClean s k l) := by
  unfold State.writeClean
  try dsimp only
  repeat' first
    | with_reducible assumption
    | with_reducible apply State.writeMem_keeps

theorem State.freshRanges_keeps {r s : State} (f : Former) (rs : List (Nat × Nat)) (h : Keeps r s) : Keeps r (State.freshRanges s f rs) := by
  unfold State.freshRanges
  try dsimp only
  repeat' first
    | with_reducible assumption
    | with_reducible apply State.freshHeaders_keeps
    | with_reducible apply State.mergeBlock_keeps
    | with_reducible apply keeps_ite
    | (with_reducible apply keeps_foldl; intro _ _ _; try dsimp only)

theorem State.condition_keeps {r s : State} (bit : Nat) (v : Bool) (h : Keeps r s) : Keeps r (State.condition s bit v) := by
  unfold State.condition
  try dsimp only
  repeat' first
    | with_reducible assumption
    | with_reducible apply State.modBoard_keeps
    | with_reducible apply State.emit_keeps
    | with_reducible apply keeps_ite

theorem State.trip_keeps {r s : State} (h : Keeps r s) : Keeps r (State.trip s) := by
  unfold State.trip
  try dsimp only
  repeat' first
    | with_reducible assumption
    | with_reducible apply State.condition_keeps

theorem State.showVdd_keeps {r s : State} (d : District) (h : Keeps r s) : Keeps r (State.showVdd s d) := by
  unfold State.showVdd
  try dsimp only
  repeat' first
    | with_reducible assumption
    | with_reducible apply State.setDN_keeps

theorem State.showThrottle_keeps {r s : State} (h : Keeps r s) : Keeps r (State.showThrottle s) := by
  unfold State.showThrottle
  try dsimp only
  repeat' first
    | with_reducible assumption
    | with_reducible apply State.setDN_keeps

theorem State.powerAdvance_keeps {r s : State} (h : Keeps r s) : Keeps r (State.powerAdvance s) := by
  unfold State.powerAdvance
  try dsimp only
  repeat' first
    | with_reducible assumption
    | with_reducible apply State.modBoard_keeps
    | split

theorem State.powerWithdraw_keeps {r s : State} (h : Keeps r s) : Keeps r (State.powerWithdraw s) := by
  unfold State.powerWithdraw
  try dsimp only
  repeat' first
    | with_reducible assumption
    | with_reducible apply State.modBoard_keeps
    | split

theorem State.thermalOp_keeps {r s : State} (d : District) (dram : Bool) (h : Keeps r s) : Keeps r (State.thermalOp s d dram) := by
  unfold State.thermalOp
  try dsimp only
  repeat' first
    | with_reducible assumption
    | with_reducible apply State.modDist_keeps

theorem State.takeAct_keeps {r s : State} (d : District) (dram : Bool) (t : Throttle) (h : Keeps r s) : Keeps r (State.takeAct s d dram t) := by
  unfold State.takeAct
  try dsimp only
  repeat' first
    | with_reducible assumption
    | with_reducible apply State.modDist_keeps

theorem State.thermalAdvance_keeps {r s : State} (d : District) (dram : Bool) (h : Keeps r s) : Keeps r (State.thermalAdvance s d dram) := by
  unfold State.thermalAdvance
  try dsimp only
  repeat' first
    | with_reducible assumption
    | with_reducible apply State.takeAct_keeps
    | with_reducible apply State.thermalOp_keeps
    | with_reducible apply keeps_ite

theorem State.thermalWithdraw_keeps {r s : State} (d : District) (dram : Bool) (h : Keeps r s) : Keeps r (State.thermalWithdraw s d dram) := by
  unfold State.thermalWithdraw
  try dsimp only
  repeat' first
    | with_reducible assumption
    | with_reducible apply State.modDist_keeps
    | with_reducible apply keeps_ite
    | split

theorem State.thermalReading_keeps {r s : State} (d : District) (dram : Bool) (t : Int) (act : Int) (rel : Int) (below : Bool) (h : Keeps r s) : Keeps r (State.thermalReading s d dram t act rel below) := by
  unfold State.thermalReading
  try dsimp only
  repeat' first
    | with_reducible assumption
    | with_reducible apply State.thermalAdvance_keeps
    | with_reducible apply State.thermalWithdraw_keeps
    | with_reducible apply keeps_ite

theorem State.qntEvents_keeps {r s : State} (i : Issued) (n : Nat) (h : Keeps r s) : Keeps r (State.qntEvents s i n) := by
  unfold State.qntEvents
  try dsimp only
  repeat' first
    | with_reducible assumption
    | with_reducible apply State.modCtx_keeps

end Sys2Proof.Machine
end

