-- ==== Sys2Proof/Laws/KeepsE.lean ====
section
/-!
SUPPORT. What each operation keeps (E): one lemma per operation, in the order of use.
-/
namespace Sys2Proof.Machine

theorem State.quantCmd_keeps {r : State} (i : Issued) {s : State} (h : Keeps r s) : Keeps r (State.quantCmd i s) := by
  unfold State.quantCmd
  try dsimp only
  repeat' first
    | with_reducible assumption
    | with_reducible apply State.qntEvents_keeps
    | with_reducible apply State.qntRefuse_keeps
    | with_reducible apply State.quantLocal_keeps
    | with_reducible apply keeps_ite

theorem State.modLead_keeps {r s : State} (f : Lead → Lead) (h : Keeps r s) : Keeps r (State.modLead s f) := by
  unfold State.modLead
  try dsimp only
  repeat' first
    | with_reducible assumption
    | (fail_if_no_progress (with_reducible apply keeps_mk))

theorem State.replicate_keeps {r s : State} (h : Keeps r s) : Keeps r (State.replicate s) := by
  unfold State.replicate
  try dsimp only
  repeat' first
    | with_reducible assumption
    | with_reducible apply State.modLead_keeps
    | with_reducible apply State.sendMsg_keeps
    | (with_reducible apply keeps_foldl; intro _ _ _; try dsimp only)

theorem State.modRestartOf_keeps {r s : State} (p : PartId) (f : Restart → Restart) (h : Keeps r s) : Keeps r (State.modRestartOf s p f) := by
  unfold State.modRestartOf
  try dsimp only
  repeat' first
    | with_reducible assumption
    | with_reducible apply State.modLead_keeps

theorem State.replyPhase_keeps {r s : State} (p : PartId) (phase : BitVec 2) (c : W64) (h : Keeps r s) : Keeps r (State.replyPhase s p phase c) := by
  unfold State.replyPhase
  try dsimp only
  repeat' first
    | with_reducible assumption
    | with_reducible apply State.modRestartOf_keeps
    | with_reducible apply State.sendMsg_keeps
    | with_reducible apply keeps_ite

theorem State.sendStatus_keeps {r s : State} (p : PartId) (h : Keeps r s) : Keeps r (State.sendStatus s p) := by
  unfold State.sendStatus
  try dsimp only
  repeat' first
    | with_reducible assumption
    | with_reducible apply State.modRestartOf_keeps
    | with_reducible apply State.sendMsg_keeps
    | with_reducible apply keeps_ite

theorem State.sendReplies_keeps {r s : State} (h : Keeps r s) : Keeps r (State.sendReplies s) := by
  unfold State.sendReplies
  try dsimp only
  repeat' first
    | with_reducible assumption
    | with_reducible apply State.sendStatus_keeps
    | with_reducible apply State.replyPhase_keeps
    | with_reducible apply State.modLead_keeps
    | with_reducible apply State.setDN_keeps
    | with_reducible apply keeps_ite
    | (with_reducible apply keeps_foldl; intro _ _ _; try dsimp only)

theorem State.memberPhase_keeps {r s : State} (p : PartId) (phase : BitVec 2) (c : W64) (h : Keeps r s) : Keeps r (State.memberPhase s p phase c) := by
  unfold State.memberPhase
  try dsimp only
  repeat' first
    | with_reducible assumption
    | with_reducible apply State.partReset_keeps
    | with_reducible apply State.haltPart_keeps
    | with_reducible apply State.modLead_keeps
    | with_reducible apply State.sendStatus_keeps
    | with_reducible apply State.replyPhase_keeps
    | with_reducible apply State.requestWarm_keeps
    | with_reducible apply State.sendReplies_keeps
    | with_reducible apply State.restoreStart_keeps
    | with_reducible apply State.postRecord_keeps
    | with_reducible apply keeps_ite
    | split

theorem State.sendPhase_keeps {r s : State} (x1 : Restart) (h : Keeps r s) : Keeps r (State.sendPhase s x1) := by
  unfold State.sendPhase
  try dsimp only
  repeat' first
    | with_reducible assumption
    | with_reducible apply State.modRestartOf_keeps
    | with_reducible apply State.sendMsg_keeps
    | with_reducible apply State.memberPhase_keeps
    | with_reducible apply keeps_ite
    | (with_reducible apply keeps_foldl; intro _ _ _; try dsimp only)

theorem State.lossOf_keeps {r s : State} (d : W16) (h : Keeps r s) : Keeps r (State.lossOf s d) := by
  unfold State.lossOf
  try dsimp only
  repeat' first
    | with_reducible assumption
    | with_reducible apply State.sendLoss_keeps
    | (with_reducible apply keeps_foldl; intro _ _ _; try dsimp only)

theorem State.reportEnded_keeps {r s : State} (p : PartId) (h : Keeps r s) : Keeps r (State.reportEnded s p) := by
  unfold State.reportEnded
  try dsimp only
  repeat' first
    | with_reducible assumption
    | with_reducible apply State.postRecord_keeps
    | (fail_if_no_progress (with_reducible apply keeps_mk))

theorem State.actOn_keeps {r s : State} (h : Keeps r s) : Keeps r (State.actOn s) := by
  unfold State.actOn
  try dsimp only
  repeat' first
    | with_reducible assumption
    | with_reducible apply State.modLead_keeps
    | with_reducible apply State.reportEnded_keeps
    | with_reducible apply State.lossOf_keeps
    | with_reducible apply State.sendPhase_keeps
    | with_reducible apply keeps_ite
    | (with_reducible apply keeps_foldl; intro _ _ _; try dsimp only)

theorem State.newState_keeps {r s : State} (f : Lead → Lead) (h : Keeps r s) : Keeps r (State.newState s f) := by
  unfold State.newState
  try dsimp only
  repeat' first
    | with_reducible assumption
    | with_reducible apply State.actOn_keeps
    | with_reducible apply State.replicate_keeps
    | with_reducible apply State.modLead_keeps

theorem State.cannotRestart_keeps {r s : State} (p : PartId) (h : Keeps r s) : Keeps r (State.cannotRestart s p) := by
  unfold State.cannotRestart
  try dsimp only
  repeat' first
    | with_reducible assumption
    | with_reducible apply State.newState_keeps

theorem State.advance_keeps {r s : State} (x1 : Restart) (h : Keeps r s) : Keeps r (State.advance s x1) := by
  unfold State.advance
  try dsimp only
  repeat' first
    | with_reducible assumption
    | with_reducible apply State.newState_keeps
    | with_reducible apply State.cannotRestart_keeps
    | with_reducible apply keeps_ite
    | split

theorem State.beginRestarts_keeps {r s : State} (h : Keeps r s) : Keeps r (State.beginRestarts s) := by
  unfold State.beginRestarts
  try dsimp only
  repeat' first
    | with_reducible assumption
    | with_reducible apply State.newState_keeps
    | with_reducible apply keeps_ite

theorem State.beginOther_keeps {r s : State} (p : PartId) (st : W16 × W64 × W64) (h : Keeps r s) : Keeps r (State.beginOther s p st) := by
  unfold State.beginOther
  try dsimp only
  repeat' first
    | with_reducible assumption
    | with_reducible apply State.newState_keeps
    | with_reducible apply keeps_ite

theorem State.leadStep_keeps {r s : State} (h : Keeps r s) : Keeps r (State.leadStep s) := by
  unfold State.leadStep
  try dsimp only
  repeat' first
    | with_reducible assumption
    | with_reducible apply State.sendReplies_keeps
    | with_reducible apply State.beginRestarts_keeps
    | with_reducible apply State.advance_keeps
    | with_reducible apply keeps_ite
    | (with_reducible apply keeps_foldl; intro _ _ _; try dsimp only)

theorem State.sendLease_keeps {r s : State} (h : Keeps r s) : Keeps r (State.sendLease s) := by
  unfold State.sendLease
  try dsimp only
  repeat' first
    | with_reducible assumption
    | with_reducible apply State.modLead_keeps
    | with_reducible apply State.sendMsg_keeps
    | (with_reducible apply keeps_foldl; intro _ _ _; try dsimp only)

theorem State.dropReplica_keeps {r s : State} (h : Keeps r s) : Keeps r (State.dropReplica s) := by
  unfold State.dropReplica
  try dsimp only
  repeat' first
    | with_reducible assumption
    | with_reducible apply State.raiseMgmt_keeps
    | with_reducible apply State.modLead_keeps

theorem State.startTerm_keeps {r s : State} (withState : Bool) (h : Keeps r s) : Keeps r (State.startTerm s withState) := by
  unfold State.startTerm
  try dsimp only
  repeat' first
    | with_reducible assumption
    | with_reducible apply State.setDN_keeps
    | with_reducible apply State.modLead_keeps
    | with_reducible apply State.leadStep_keeps
    | with_reducible apply State.newState_keeps
    | with_reducible apply State.sendLease_keeps

theorem State.abandonCopies_keeps {r s : State} (p : PartId) (h : Keeps r s) : Keeps r (State.abandonCopies s p) := by
  unfold State.abandonCopies
  try dsimp only
  repeat' first
    | with_reducible assumption
    | with_reducible apply State.modPart_keeps
    | with_reducible apply State.setDN_keeps
    | (fail_if_no_progress (with_reducible apply keeps_mk))

theorem State.stHold_keeps {r s : State} (i : Issued) (layer : BitVec 12) (entry : W16) (h : Keeps r s) : Keeps r (State.stHold s i layer entry) := by
  unfold State.stHold
  try dsimp only
  repeat' first
    | with_reducible assumption
    | with_reducible apply State.modJob_keeps
    | with_reducible apply State.modStash_keeps
    | with_reducible apply keeps_ite
    | split

theorem State.stWait_keeps {r s : State} (c : CoreId) (w : StWait) (h : Keeps r s) : Keeps r (State.stWait s c w) := by
  unfold State.stWait
  try dsimp only
  repeat' first
    | with_reducible assumption
    | with_reducible apply State.stServe_keeps
    | with_reducible apply State.modStash_keeps

theorem State.stwriteCmd_keeps {r : State} (w : W256) (i : Issued) {s : State} (h : Keeps r s) : Keeps r (State.stwriteCmd w i s) := by
  unfold State.stwriteCmd
  try dsimp only
  repeat' first
    | with_reducible assumption
    | with_reducible apply State.done_keeps
    | with_reducible apply State.stFail_keeps
    | with_reducible apply State.workChk_keeps
    | with_reducible apply State.refuse_keeps
    | with_reducible apply State.stWait_keeps
    | with_reducible apply keeps_ite

theorem State.streadCmd_keeps {r : State} (w : W256) (i : Issued) {s : State} (h : Keeps r s) : Keeps r (State.streadCmd w i s) := by
  unfold State.streadCmd
  try dsimp only
  repeat' first
    | with_reducible assumption
    | with_reducible apply State.done_keeps
    | with_reducible apply State.work_keeps
    | with_reducible apply State.stWait_keeps
    | with_reducible apply State.stHold_keeps
    | with_reducible apply keeps_ite
    | split

theorem State.stRefused_keeps {r s : State} (c : CoreId) (h : Keeps r s) : Keeps r (State.stRefused s c) := by
  unfold State.stRefused
  try dsimp only
  repeat' first
    | with_reducible assumption
    | with_reducible apply State.partFault_keeps
    | with_reducible apply State.stServe_keeps
    | with_reducible apply State.stFail_keeps
    | with_reducible apply State.modStash_keeps
    | split

theorem State.rqCmd_keeps {r : State} (w : W256) (i : Issued) {s : State} (h : Keeps r s) : Keeps r (State.rqCmd w i s) := by
  unfold State.rqCmd
  try dsimp only
  repeat' first
    | with_reducible assumption
    | with_reducible apply State.qntEvents_keeps
    | with_reducible apply State.qntRefuse_keeps
    | with_reducible apply State.done_keeps
    | with_reducible apply State.work_keeps
    | with_reducible apply State.stWait_keeps
    | with_reducible apply State.stHold_keeps
    | with_reducible apply State.refuse_keeps
    | with_reducible apply State.quantLocal_keeps
    | with_reducible apply State.rqStep_keeps
    | with_reducible apply State.modJob_keeps
    | with_reducible apply keeps_ite
    | split

theorem State.writeEnds_keeps {r s : State} (c : CoreId) (j : Job) (h : Keeps r s) : Keeps r (State.writeEnds s c j) := by
  unfold State.writeEnds
  try dsimp only
  repeat' first
    | with_reducible assumption
    | with_reducible apply State.modStash_keeps
    | with_reducible apply keeps_ite
    | split

theorem State.stServeAny_keeps {r s : State} (c : CoreId) (h : Keeps r s) : Keeps r (State.stServeAny s c) := by
  unfold State.stServeAny
  try dsimp only
  repeat' first
    | with_reducible assumption
    | with_reducible apply State.stServe_keeps
    | with_reducible apply keeps_ite

theorem State.syncDump_keeps {r s : State} (c : CoreId) (x : CtxId) (k : Nat) (size : Nat) (all : Bool) (scope : Bool) (watch : Bool) (h : Keeps r s) : Keeps r (State.syncDump s c x k size all scope watch) := by
  unfold State.syncDump
  try dsimp only
  repeat' first
    | with_reducible assumption
    | with_reducible apply State.ownerBad_keeps
    | with_reducible apply State.incD_keeps
    | with_reducible apply State.writeMerge_keeps
    | with_reducible apply keeps_ite
    | (with_reducible apply keeps_foldl; intro _ _ _; try dsimp only)

theorem State.tensorCmd_keeps {r : State} (w : W256) (i : Issued) {s : State} (h : Keeps r s) : Keeps r (State.tensorCmd w i s) := by
  unfold State.tensorCmd
  try dsimp only
  repeat' first
    | with_reducible assumption
    | with_reducible apply State.modCtx_keeps
    | with_reducible apply State.tenRefuse_keeps
    | with_reducible apply keeps_ite

theorem State.tickCores_keeps {r s : State} (h : Keeps r s) : Keeps r (State.tickCores s) := by
  unfold State.tickCores
  try dsimp only
  repeat' first
    | with_reducible assumption
    | with_reducible apply State.setCore_keeps
    | (with_reducible apply keeps_foldl; intro _ _ _; try dsimp only)

theorem State.tickEnergy_keeps {r s : State} (h : Keeps r s) : Keeps r (State.tickEnergy s) := by
  unfold State.tickEnergy
  try dsimp only
  repeat' first
    | with_reducible assumption
    | with_reducible apply State.addD_keeps
    | with_reducible apply State.modBoard_keeps

theorem State.tickReplays_keeps {r s : State} (h : Keeps r s) : Keeps r (State.tickReplays s) := by
  unfold State.tickReplays
  try dsimp only
  repeat' first
    | with_reducible assumption
    | with_reducible apply State.modPort_keeps
    | (fail_if_no_progress (with_reducible apply keeps_mk))
    | with_reducible apply keeps_ite
    | (with_reducible apply keeps_foldl; intro _ _ _; try dsimp only)

theorem State.tickPorts_keeps {r s : State} (h : Keeps r s) : Keeps r (State.tickPorts s) := by
  unfold State.tickPorts
  try dsimp only
  repeat' first
    | with_reducible assumption
    | with_reducible apply State.modPort_keeps
    | with_reducible apply State.setDN_keeps
    | with_reducible apply keeps_ite
    | (with_reducible apply keeps_foldl; intro _ _ _; try dsimp only)

theorem State.moveCmd_keeps {r s : State} (i : Issued) (w : W256) (h : Keeps r s) : Keeps r (State.moveCmd s i w) := by
  unfold State.moveCmd
  try dsimp only
  repeat' first
    | with_reducible assumption
    | with_reducible apply State.move_keeps_st
    | with_reducible apply State.workChk_keeps

theorem State.startReqs_keeps {r s : State} (i : Issued) (dev : W16) (ps : List (Packet × Sink)) (h : Keeps r s) : Keeps r (State.startReqs s i dev ps) := by
  unfold State.startReqs
  try dsimp only
  repeat' first
    | with_reducible assumption
    | with_reducible apply State.work_keeps
    | with_reducible apply State.jobNext_keeps
    | with_reducible apply State.modJob_keeps
    | with_reducible apply keeps_ite

theorem State.putRemote_keeps {r s : State} (i : Issued) (w : W256) (work : Work) (h : Keeps r s) : Keeps r (State.putRemote s i w work) := by
  unfold State.putRemote
  try dsimp only
  repeat' first
    | with_reducible assumption
    | with_reducible apply State.work_keeps
    | with_reducible apply State.putPackets_keeps
    | with_reducible apply State.modJob_keeps
    | with_reducible apply State.startReqs_keeps
    | with_reducible apply keeps_ite

theorem State.getMgt_keeps {r s : State} (i : Issued) (w : W256) (h : Keeps r s) : Keeps r (State.getMgt s i w) := by
  unfold State.getMgt
  try dsimp only
  repeat' first
    | with_reducible assumption
    | with_reducible apply State.mgtRead_keeps
    | with_reducible apply State.work_keeps
    | with_reducible apply State.writeMerge_keeps
    | with_reducible apply State.workChk_keeps
    | with_reducible apply State.refuse_keeps
    | with_reducible apply State.mgtStatus_keeps
    | with_reducible refine keeps_fst (by with_reducible assumption) ?_
    | split

theorem State.localSync_keeps {r s : State} (p : PartId) (a : W64) (o : SyncOp) (h : Keeps r s) : Keeps r (State.localSync s p a o).1 := by
  unfold State.localSync
  try dsimp only
  repeat' first
    | with_reducible assumption
    | with_reducible apply State.refuse_keeps
    | with_reducible apply State.applySync_keeps
    | split

theorem State.putsigLocal_keeps {r s : State} (i : Issued) (w : W256) (h : Keeps r s) : Keeps r (State.putsigLocal s i w) := by
  have g0 := @State.move_keeps_st r
  have g1 := @State.localSync_keeps r
  unfold State.putsigLocal
  generalize State.move = f0 at g0 ⊢
  generalize State.localSync = f1 at g1 ⊢
  revert f0 f1
  refine id ?_
  intro f0 g0 f1 g1
  try dsimp only
  repeat' first
    | with_reducible assumption
    | with_reducible apply g0
    | with_reducible apply State.workChk_keeps
    | with_reducible apply g1
    | with_reducible apply keeps_ite

theorem State.fillHeaders_keeps {r s : State} (f : Former) (dst : Nat) (len : Nat) (h : Keeps r s) : Keeps r (s.fillHeaders f dst len) := by
  unfold State.fillHeaders
  exact keeps_foldl (fun s b hs => keeps_ite (keeps_mem hs (Mem.wf_setHeader _ _ _)) (State.mergeBlock_keeps _ _ hs)) _ _ h

theorem State.fillMove_keeps_st {r s : State} (f : Former) (p : PartId) (a b : W64) (n : Nat) (h : Keeps r s) :
    Keeps r (s.fillMove f p a b n).st := by
  have piece (m : Moved) (e : Nat × Nat) (hm : Keeps r m.st) : Keeps r (fillPiece p a b m e).st := by
    unfold fillPiece
    split
    · exact hm
    · dsimp only
      split
      · exact State.writeClean_keeps _ _ hm
      · exact State.refuse_keeps _ hm
  have all (l : List (Nat × Nat)) (m : Moved) (hm : Keeps r m.st) : Keeps r (l.foldl (fillPiece p a b) m).st := by
    induction l generalizing m with
    | nil => exact hm
    | cons e t ih => exact ih _ (piece m e hm)
  exact State.fillHeaders_keeps _ _ _ (all _ ⟨s, 0, .ok, false⟩ h)

theorem State.xCmd_keeps {r : State} (op : Nat) (w : W256) (i : Issued) {s : State} (h : Keeps r s) : Keeps r (State.xCmd op w i s) := by
  unfold State.xCmd
  try dsimp only
  repeat' first
    | with_reducible assumption
    | with_reducible apply State.done_keeps
    | with_reducible apply State.moveCmd_keeps
    | with_reducible apply State.putRemote_keeps
    | with_reducible apply State.getMgt_keeps
    | with_reducible apply State.startReqs_keeps
    | with_reducible apply State.putsigLocal_keeps
    | with_reducible apply State.fillMove_keeps_st
    | with_reducible apply State.workChk_keeps
    | with_reducible apply keeps_ite
    | split

theorem State.xdRsv_keeps {r s : State} (i : Issued) (v : W256) (h : Keeps r s) : Keeps r (State.xdRsv s i v) := by
  unfold State.xdRsv
  try dsimp only
  repeat' first
    | with_reducible assumption
    | with_reducible apply State.modCtx_keeps
    | with_reducible apply keeps_ite

theorem State.xdCmd_keeps {r : State} (v : W256) (i : Issued) {s : State} (h : Keeps r s) : Keeps r (State.xdCmd v i s) := by
  unfold State.xdCmd
  try dsimp only
  repeat' first
    | with_reducible assumption
    | with_reducible apply State.done_keeps
    | with_reducible apply State.xCmd_keeps
    | with_reducible apply State.xdRsv_keeps
    | with_reducible apply keeps_ite

theorem State.putiLocal_keeps {r s : State} (i : Issued) (a : W64) (l : List Byte) (h : Keeps r s) : Keeps r (State.putiLocal s i a l) := by
  unfold State.putiLocal
  try dsimp only
  repeat' first
    | with_reducible assumption
    | with_reducible apply State.work_keeps
    | with_reducible apply State.writeMerge_keeps
    | with_reducible apply State.workChk_keeps
    | with_reducible apply State.refuse_keeps
    | with_reducible apply State.mgtWrite_keeps
    | with_reducible apply State.mgtStatus_keeps
    | with_reducible apply keeps_ite
    | split

theorem State.putiCmd_keeps {r : State} (w : W256) (i : Issued) {s : State} (h : Keeps r s) : Keeps r (State.putiCmd w i s) := by
  unfold State.putiCmd
  try dsimp only
  repeat' first
    | with_reducible assumption
    | with_reducible apply State.done_keeps
    | with_reducible apply State.putiLocal_keeps
    | with_reducible apply State.startReqs_keeps
    | with_reducible apply keeps_ite

theorem State.syncCmd_keeps {r s : State} (i : Issued) (w : W256) (kind : SyncKind) (v : BitVec 48) (h : Keeps r s) : Keeps r (State.syncCmd s i w kind v) := by
  unfold State.syncCmd
  try dsimp only
  repeat' first
    | with_reducible assumption
    | with_reducible apply State.done_keeps
    | with_reducible apply State.localSync_keeps
    | with_reducible apply State.workChk_keeps
    | with_reducible apply State.startReqs_keeps
    | with_reducible apply keeps_ite

theorem State.signalCmd_keeps {r : State} (w : W256) (i : Issued) {s : State} (h : Keeps r s) : Keeps r (State.signalCmd w i s) := by
  unfold State.signalCmd
  try dsimp only
  repeat' first
    | with_reducible assumption
    | with_reducible apply State.syncCmd_keeps

theorem State.syncaddCmd_keeps {r : State} (w : W256) (i : Issued) {s : State} (h : Keeps r s) : Keeps r (State.syncaddCmd w i s) := by
  unfold State.syncaddCmd
  try dsimp only
  repeat' first
    | with_reducible assumption
    | with_reducible apply State.syncCmd_keeps

theorem State.syncsetCmd_keeps {r : State} (w : W256) (i : Issued) {s : State} (h : Keeps r s) : Keeps r (State.syncsetCmd w i s) := by
  unfold State.syncsetCmd
  try dsimp only
  repeat' first
    | with_reducible assumption
    | with_reducible apply State.done_keeps
    | with_reducible apply State.syncCmd_keeps
    | split

theorem State.syncreadLocal_keeps {r s : State} (i : Issued) (a : W64) (off : Nat) (h : Keeps r s) : Keeps r (State.syncreadLocal s i a off) := by
  unfold State.syncreadLocal
  try dsimp only
  repeat' first
    | with_reducible assumption
    | with_reducible apply State.readObj_keeps
    | with_reducible apply State.work_keeps
    | with_reducible apply State.writeMerge_keeps
    | with_reducible apply State.workChk_keeps
    | with_reducible apply State.refuse_keeps
    | split

theorem State.syncreadCmd_keeps {r : State} (w : W256) (i : Issued) {s : State} (h : Keeps r s) : Keeps r (State.syncreadCmd w i s) := by
  unfold State.syncreadCmd
  try dsimp only
  repeat' first
    | with_reducible assumption
    | with_reducible apply State.done_keeps
    | with_reducible apply State.syncreadLocal_keeps
    | with_reducible apply State.startReqs_keeps
    | with_reducible apply State.modJob_keeps
    | with_reducible apply State.workChk_keeps
    | with_reducible apply State.refuse_keeps
    | with_reducible apply keeps_ite
    | split

theorem State.startCmd_keeps {r : State} (op : Nat) (v : W256) (i : Issued) {s : State} (h : Keeps r s) : Keeps r (State.startCmd op v i s) := by
  unfold State.startCmd
  try dsimp only
  repeat' first
    | with_reducible assumption
    | with_reducible apply State.rqCmd_keeps
    | with_reducible apply State.xdCmd_keeps
    | with_reducible apply State.putiCmd_keeps
    | with_reducible apply State.signalCmd_keeps
    | with_reducible apply State.syncaddCmd_keeps
    | with_reducible apply State.syncsetCmd_keeps
    | with_reducible apply State.syncreadCmd_keeps
    | with_reducible apply State.stwriteCmd_keeps
    | with_reducible apply State.streadCmd_keeps
    | with_reducible apply State.xCmd_keeps
    | split

theorem State.startNext_keeps {r s : State} (c : CoreId) (x : CtxId) (h : Keeps r s) {t : State} (e : State.startNext s c x = some t) : Keeps r t := by
  unfold State.startNext at e
  try dsimp only at e
  repeat' (split at e)
  all_goals first
    | (exfalso; exact none_some e)
    | (obtain rfl := Option.some.inj e)
    | skip
  all_goals try dsimp only
  all_goals repeat' first
    | with_reducible assumption
    | with_reducible apply State.startCmd_keeps
    | with_reducible apply State.modJob_keeps

theorem startGo_keeps {r : State} (c : CoreId) (x : CtxId) (x2 : Nat) {x3 : State} (h : Keeps r x3) : Keeps r (startGo c x x2 x3) := by
  induction x2 generalizing x3 with
  | zero => simp only [startGo]; repeat' first
    | with_reducible assumption
  | succ n ih => simp only [startGo]; repeat' first
    | with_reducible assumption
    | with_reducible apply ih
    | with_reducible refine State.startNext_keeps (h := ?_) (e := by assumption)
    | split

theorem State.startQueued_keeps {r s : State} (c : CoreId) (x : CtxId) (h : Keeps r s) : Keeps r (State.startQueued s c x) := by
  unfold State.startQueued
  try dsimp only
  repeat' first
    | with_reducible assumption
    | with_reducible apply startGo_keeps

theorem State.retrySends_keeps {r s : State} (h : Keeps r s) : Keeps r (State.retrySends s) := by
  unfold State.retrySends
  try dsimp only
  repeat' first
    | with_reducible assumption
    | with_reducible apply State.startQueued_keeps
    | with_reducible apply State.pumpOrd_keeps
    | with_reducible apply State.collPump_keeps
    | with_reducible apply State.rqStep_keeps
    | with_reducible apply State.pump_keeps
    | (with_reducible apply keeps_foldl; intro _ _ _; try dsimp only)
    | split

theorem State.tellStack_keeps {r s : State} (d : District) (h : Keeps r s) : Keeps r (State.tellStack s d) := by
  unfold State.tellStack
  try dsimp only
  repeat' first
    | with_reducible assumption
    | with_reducible apply State.modStack_keeps
    | with_reducible apply State.telemetry_keeps
    | (fail_if_no_progress (with_reducible apply keeps_mk))
    | (with_reducible apply keeps_foldl; intro _ _ _; try dsimp only)

theorem State.tellStacks_keeps {r s : State} (h : Keeps r s) : Keeps r (State.tellStacks s) := by
  unfold State.tellStacks
  try dsimp only
  repeat' first
    | with_reducible assumption
    | with_reducible apply State.tellStack_keeps
    | (with_reducible apply keeps_foldl; intro _ _ _; try dsimp only)

theorem State.tick_keeps {r s : State} (h : Keeps r s) : Keeps r (State.tick s) := by
  unfold State.tick
  try dsimp only
  repeat' first
    | with_reducible assumption
    | with_reducible apply State.mclTick_keeps
    | with_reducible apply State.tickPorts_keeps
    | with_reducible apply State.tickReplays_keeps
    | with_reducible apply State.tickEnergy_keeps
    | with_reducible apply State.incD_keeps
    | with_reducible apply State.tickCores_keeps
    | with_reducible apply State.retrySends_keeps
    | with_reducible apply State.settle_keeps
    | with_reducible apply State.leadStep_keeps
    | with_reducible apply State.tellStacks_keeps
    | with_reducible apply State.requestWarm_keeps
    | with_reducible apply keeps_ite

theorem xStart_keeps {r : State} (op : Nat) (w : W256) (i : Issued) {s : State} (h : Keeps r s) : Keeps r (xStart op w i s) := by
  unfold xStart
  try dsimp only
  repeat' first
    | with_reducible assumption
    | with_reducible apply State.enter_keeps
    | with_reducible apply State.xCmd_keeps

theorem State.sdRsv_keeps {r s : State} (i : Issued) (d : BitVec 512) (h : Keeps r s) : Keeps r (State.sdRsv s i d) := by
  unfold State.sdRsv
  try dsimp only
  repeat' first
    | with_reducible assumption
    | with_reducible apply State.modCtx_keeps
    | with_reducible apply keeps_ite

theorem State.udPut_keeps {r s : State} (a : W64) (stride : Nat) (e : Nat) (i : Nat) (c0 : Nat) (cs : List (Nat × Bool)) (h : Keeps r s) : Keeps r (State.udPut s a stride e i c0 cs) := by
  unfold State.udPut
  try dsimp only
  repeat' first
    | with_reducible assumption
    | with_reducible apply State.writeMem_keeps

theorem udRowGo_keeps {r : State} (d : BitVec 1536) (m : Mem) (bad : List Nat) (c0 n : Nat) (a : State × UdAcc × List (List W32) × Bool) (i : Nat)
    (h : Keeps r a.1) : Keeps r (udRowGo d m bad c0 n a i).1 := by
  unfold udRowGo
  dsimp only
  repeat' first
    | with_reducible assumption
    | with_reducible apply State.udPut_keeps
    | with_reducible apply keeps_ite

theorem State.udCopy_keeps {r s : State} (c : CoreId) (x : CtxId) (q : W128) (cols : Bool) (addr : W64) (row0 : W32) (col0 : W32) (step : W64) (rows : Nat) (ncols : Nat) (tile : List (List W32)) (bad : Bool) (h : Keeps r s) : Keeps r (State.udCopy s c x q cols addr row0 col0 step rows ncols tile bad) := by
  unfold State.udCopy
  try dsimp only
  repeat' first
    | with_reducible assumption
    | with_reducible apply State.writeFresh_keeps
    | with_reducible apply State.modCtx_keeps

theorem udTileGo_keeps {r : State} (c : CoreId) (x : CtxId) (d : BitVec 1536) (m : Mem) (bad : List Nat) (step : W64) (a : State × UdAcc)
    (e : Nat × Nat) (h : Keeps r a.1) : Keeps r (udTileGo c x d m bad step a e).1 := by
  have rows (l : List Nat) (f g k : Nat) : Keeps r (l.foldl (fun q i => udRowGo d m bad f g q (k + i)) (a.1, a.2, [], false)).1 :=
    keeps_foldl_fst (fun q i hq => udRowGo_keeps _ _ _ _ _ _ _ hq) _ _ h
  unfold udTileGo
  dsimp only
  split
  · exact rows _ _ _ _
  · exact State.udCopy_keeps _ _ _ _ _ _ _ _ _ _ _ _ (State.udCopy_keeps _ _ _ _ _ _ _ _ _ _ _ _ (rows _ _ _ _))

theorem State.checkEach_keeps {r s : State} (rs : List (Nat × Nat)) (h : Keeps r s) : Keeps r (State.checkEach s rs).1 := by
  unfold State.checkEach
  try dsimp only
  repeat' first
    | with_reducible assumption
    | with_reducible apply State.addD_keeps
    | with_reducible apply State.checkBlock_keeps
    | (with_reducible apply keeps_foldl_fst; intro _ _ _; try dsimp only)

theorem State.udVersion_keeps {r s : State} (c : CoreId) (d : BitVec 1536) (step : W64) (h : Keeps r s) : Keeps r (State.udVersion s c d step) := by
  unfold State.udVersion
  try dsimp only
  repeat' first
    | with_reducible assumption
    | with_reducible apply State.writeMerge_keeps
    | with_reducible apply keeps_ite

theorem State.updateRun_keeps {r s : State} (c : CoreId) (x : CtxId) (step : W64) (d : BitVec 1536) (h : Keeps r s) :
    Keeps r (s.updateRun c x step d).1 := by
  have tiles (m : Mem) (bad : List Nat) (l : List (Nat × Nat)) (a : State × UdAcc) (ha : Keeps r a.1) :
      Keeps r (l.foldl (udTileGo c x d m bad step) a).1 := keeps_foldl_fst (fun q i hq => udTileGo_keeps _ _ _ _ _ _ _ _ hq) _ _ ha
  unfold State.updateRun
  dsimp only
  repeat' first
    | with_reducible assumption
    | with_reducible apply State.modCtx_keeps
    | with_reducible apply State.modPart_keeps
    | with_reducible apply State.raiseRead_keeps
    | with_reducible apply State.udVersion_keeps
    | with_reducible apply State.freshRanges_keeps
    | with_reducible apply State.checkEach_keeps
    | with_reducible apply State.partFault_keeps
    | with_reducible apply State.refuse_keeps
    | with_reducible apply tiles
    | split

theorem State.elemGo_keeps {r s : State} (c : CoreId) (x : CtxId) (op : Nat) (w : W32) (h : Keeps r s) : Keeps r (State.elemGo s c x op w) := by
  unfold State.elemGo
  try dsimp only
  repeat' first
    | with_reducible assumption
    | with_reducible apply State.modCtx_keeps

theorem State.vecLeave_keeps {r s : State} (c : CoreId) (x : CtxId) (id : Nat) (status : Byte) (h : Keeps r s) : Keeps r (State.vecLeave s c x id status) := by
  unfold State.vecLeave
  try dsimp only
  repeat' first
    | with_reducible assumption
    | with_reducible apply State.setStatus_keeps
    | with_reducible apply State.modCtx_keeps

theorem State.vecRefuse_keeps {r s : State} (c : CoreId) (x : CtxId) (id : Nat) (h : Keeps r s) : Keeps r (State.vecRefuse s c x id) := by
  unfold State.vecRefuse
  try dsimp only
  repeat' first
    | with_reducible assumption
    | with_reducible apply State.vecLeave_keeps
    | with_reducible apply State.modCtx_keeps

theorem State.vecDenied_keeps {r s : State} (c : CoreId) (x : CtxId) (j : VecJob) (k : Chk) (h : Keeps r s) : Keeps r (State.vecDenied s c x j k) := by
  unfold State.vecDenied
  try dsimp only
  repeat' first
    | with_reducible assumption
    | with_reducible apply State.vecLeave_keeps
    | with_reducible apply State.partFault_keeps
    | with_reducible apply State.refuse_keeps
    | with_reducible apply keeps_ite

theorem State.modVec_keeps {r s : State} (c : CoreId) (x : CtxId) (id : Nat) (f : VecJob → VecJob) (h : Keeps r s) : Keeps r (State.modVec s c x id f) := by
  unfold State.modVec
  try dsimp only
  repeat' first
    | with_reducible assumption
    | with_reducible apply State.modCtx_keeps

theorem State.vecStart_keeps {r s : State} (c : CoreId) (x : CtxId) (j : VecJob) (h : Keeps r s) : Keeps r (State.vecStart s c x j) := by
  unfold State.vecStart
  try dsimp only
  repeat' first
    | with_reducible assumption
    | with_reducible apply State.modCtx_keeps
    | with_reducible apply State.vecRefuse_keeps
    | with_reducible apply State.vecDenied_keeps
    | with_reducible apply State.modVec_keeps
    | with_reducible apply keeps_ite

theorem State.nextTile_keeps {r s : State} (c : CoreId) (x : CtxId) (h : Keeps r s) {t : State × FTile} (e : s.nextTile c x = some t) :
    Keeps r t.1 := by
  unfold State.nextTile at e
  split at e
  · obtain rfl := Option.some.inj e
    dsimp only
    exact State.modCore_keeps _ _ h
  · split at e
    · split at e
      · cases e
      · obtain rfl := Option.some.inj e
        dsimp only
        exact State.modCtx_keeps _ _ _ (State.tenLeave_keeps _ _ _ h)
    · cases e

theorem State.tensorIn_keeps {r s : State} (c : CoreId) (x : CtxId) (j : VecJob) (h : Keeps r s) {t : State × VecIn}
    (e : s.tensorIn c x j = some t) : Keeps r t.1 := by
  unfold State.tensorIn at e
  dsimp only at e
  split at e
  · split at e
    · cases e
    · rename_i hn
      have hs := State.nextTile_keeps c x h hn
      cases e
      exact keeps_ite hs (State.writeMerge_keeps _ _ _ _ hs)
  · split at e
    · cases e
    · obtain rfl := Option.some.inj e
      dsimp only
      exact State.modCtx_keeps _ _ _ h

theorem State.rowOut_keeps {r s : State} (v : W128) (key : Nat) (x3 : Nat) (bad : Bool) (scale : List Byte) (row : List Byte × Bool) (h : Keeps r s) : Keeps r (State.rowOut s v key x3 bad scale row) := by
  unfold State.rowOut
  try dsimp only
  repeat' first
    | with_reducible assumption
    | with_reducible apply State.writeMem_keeps
    | with_reducible apply keeps_ite

theorem State.outRest_keeps {r s : State} (c : CoreId) (p : QCtl) (v : W128) (key : Nat) (rows : Nat) (cols : Nat) (bad : Bool) (a : OutAcc) (h : Keeps r s) : Keeps r (State.outRest s c p v key rows cols bad a).1 := by
  unfold State.outRest
  try dsimp only
  repeat' first
    | with_reducible assumption
    | with_reducible apply State.rowOut_keeps
    | with_reducible apply State.writeMem_keeps
    | with_reducible apply State.freshHeaders_keeps
    | with_reducible apply State.freshRanges_keeps
    | (with_reducible apply keeps_foldl; intro _ _ _; try dsimp only)
    | split

theorem State.outEnd_keeps {r s : State} (c : CoreId) (p : QCtl) (v : W128) (key : Nat) (rows : Nat) (cols : Nat) (bad : Bool) (olap : Bool) (a : OutAcc) (h : Keeps r s) : Keeps r (State.outEnd s c p v key rows cols bad olap a).1 := by
  unfold State.outEnd
  try dsimp only
  repeat' first
    | with_reducible assumption
    | with_reducible apply State.outRest_keeps
    | with_reducible apply State.writeFresh_keeps
    | with_reducible apply State.writeMem_keeps
    | with_reducible apply State.freshRanges_keeps
    | (with_reducible apply keeps_foldl; intro _ _ _; try dsimp only)
    | split

theorem State.outFin_keeps {r s : State} (c : CoreId) (x : CtxId) (j : VecJob) (n : Nat) (tensor : W32) (rows cols : Nat) (bad olap : Bool)
    (sr : W64) (a : OutAcc) (h : Keeps r s) : Keeps r (s.outFin c x j n tensor rows cols bad olap sr a) := by
  unfold State.outFin
  extract_lets
  split
  · exact State.modCtx_keeps _ _ _ (State.outEnd_keeps _ _ _ _ _ _ _ _ _ h)
  · exact h

theorem rowGo_keeps_st {r : State} (c : CoreId) (x : CtxId) (j : VecJob) (words : List W32) (ins : Nat → State → RowIn)
    (bad ov : Bool) (cols : Nat) (run : TileRun) (n : Nat) (h : Keeps r run.st) : Keeps r (rowGo c x j words ins bad ov cols run n).st := by
  have put (v : Bool) (t t' : State) (a a' : OutAcc) (ht : Keeps r t) (hm : Keeps r t → Keeps r t') :
      Keeps r (if v = true then ((if ov then t' else t), a) else (t, a')).1 := by
    split
    · exact keeps_ite (hm ht) ht
    · exact ht
  unfold rowGo
  dsimp only
  exact put _ _ _ _ _ (put _ _ _ _ _ (State.modCtx_keeps _ _ _ h) (fun q => State.rowOut_keeps _ _ _ _ _ _ q))
    (fun q => State.rowOut_keeps _ _ _ _ _ _ q)

theorem State.tileRows_keeps {r s : State} (c : CoreId) (x : CtxId) (j : VecJob) (in0 in1 : Option VecIn) (rows cols : Nat)
    (h : Keeps r s) : Keeps r (s.tileRows c x j in0 in1 rows cols) := by
  have runs (ws : List W32) (g : Nat → Nat → State → RowIn) (b o : Bool) (l : List Nat) (q : TileRun) (hq : Keeps r q.st) :
      Keeps r (l.foldl (fun q n => rowGo c x j ws (g n) b o cols q n) q).st := by
    induction l generalizing q with
    | nil => exact hq
    | cons e t ih => exact ih _ (rowGo_keeps_st _ _ _ _ _ _ _ _ _ _ hq)
  unfold State.tileRows
  extract_lets d words bad again g0 g1 olap line s1 run sr s2 s3 s4
  have h1 : Keeps r s1 := State.modCtx_keeps _ _ _ h
  have hr : Keeps r run.st := runs _ (fun n k s => if k = 0 then line 0 in0 g0 n s else line 1 in1 g1 n s) _ _ _ _ h1
  have h2 : Keeps r s2 := State.outFin_keeps _ _ _ _ _ _ _ _ _ _ _ hr
  have h3 : Keeps r s3 := State.outFin_keeps _ _ _ _ _ _ _ _ _ _ _ h2
  exact State.modVec_keeps _ _ _ _ (State.raiseRead_keeps _ _ _ _ _ h3)

theorem State.memIn_keeps {r s : State} (v : W128) (t : Nat) (rows : Nat) (cols : Nat) (h : Keeps r s) : Keeps r (State.memIn s v t rows cols).1 := by
  unfold State.memIn
  try dsimp only
  repeat' first
    | with_reducible assumption
    | with_reducible apply State.checkRanges_keeps

theorem State.vecFirst_keeps {r s : State} (c : CoreId) (x : CtxId) (j : VecJob) (h : Keeps r s) {t : State × Option VecIn}
    (e : s.vecFirst c x j = some t) : Keeps r t.1 := by
  unfold State.vecFirst at e
  split at e
  · obtain ⟨q, hq, rfl⟩ := Option.map_eq_some_iff.1 e
    exact State.tensorIn_keeps c x j h hq
  · obtain rfl := Option.some.inj e
    exact h

theorem State.memIns_keeps {r s : State} (mems : List (W128 × Nat)) (t rows cols : Nat) (h : Keeps r s) :
    Keeps r (s.memIns mems t rows cols).1 :=
  keeps_foldl_fst (fun s e hs => State.memIn_keeps e.1 t rows cols hs) mems _ h

theorem State.vecTile_keeps {r s : State} (c : CoreId) (x : CtxId) (j : VecJob) (h : Keeps r s) {t : State}
    (e : s.vecTile c x j = some t) : Keeps r t := by
  unfold State.vecTile at e
  extract_lets d ws kw at e
  split at e
  · obtain rfl := Option.some.inj e
    exact State.vecDenied_keeps _ _ _ _ h
  · split at e
    · exact (none_some e).elim
    · rename_i s1 t0 hf
      have h1 : Keeps r s1 := State.vecFirst_keeps c x j h hf
      extract_lets at e
      split at e
      · obtain rfl := Option.some.inj e
        exact State.vecRefuse_keeps _ _ _ h
      · split at e
        · obtain rfl := Option.some.inj e
          exact State.vecDenied_keeps _ _ _ _ h
        · split at e
          rename_i hfold
          have h2 := keeps_fst hfold (State.memIns_keeps _ _ _ _ h1)
          obtain rfl := Option.some.inj e
          refine State.tileRows_keeps _ _ _ _ _ _ _ (State.modVec_keeps _ _ _ _ (State.raiseRead_keeps _ _ _ _ _ ?_))
          exact keeps_ite (State.raiseCtx_keeps _ _ _ _ _ h2) h2

theorem State.writeRowState_keeps {r s : State} (c : CoreId) (x : CtxId) (d : BitVec 1024) (h : Keeps r s) : Keeps r (State.writeRowState s c x d).1 := by
  unfold State.writeRowState
  try dsimp only
  repeat' first
    | with_reducible assumption
    | with_reducible apply State.writeFresh_keeps

theorem State.vecEnd_keeps {r s : State} (c : CoreId) (x : CtxId) (j : VecJob) (h : Keeps r s) : Keeps r (State.vecEnd s c x j) := by
  unfold State.vecEnd
  try dsimp only
  repeat' first
    | with_reducible assumption
    | with_reducible apply State.vecDenied_keeps
    | with_reducible apply State.writeRowState_keeps
    | with_reducible apply State.vecLeave_keeps
    | with_reducible apply keeps_ite
    | split

theorem State.vecStep_keeps {r s : State} (c : CoreId) (x : CtxId) (h : Keeps r s) {t : State} (e : State.vecStep s c x = some t) : Keeps r t := by
  unfold State.vecStep at e
  try dsimp only at e
  repeat' (split at e)
  all_goals first
    | (exfalso; exact none_some e)
    | (obtain rfl := Option.some.inj e)
    | skip
  all_goals try dsimp only
  all_goals repeat' first
    | with_reducible assumption
    | with_reducible apply State.updateRun_keeps
    | with_reducible apply State.vecLeave_keeps
    | with_reducible apply State.vecStart_keeps
    | with_reducible apply State.vecEnd_keeps
    | with_reducible refine State.vecTile_keeps (h := ?_) (e := by assumption)

theorem vecGo_keeps {r : State} (c : CoreId) (x : CtxId) (x2 : Nat) {x3 : State} (h : Keeps r x3) : Keeps r (vecGo c x x2 x3) := by
  induction x2 generalizing x3 with
  | zero => simp only [vecGo]; repeat' first
    | with_reducible assumption
  | succ n ih => simp only [vecGo]; repeat' first
    | with_reducible assumption
    | with_reducible apply ih
    | with_reducible refine State.vecStep_keeps (h := ?_) (e := by assumption)
    | split

theorem State.vecPump_keeps {r s : State} (c : CoreId) (x : CtxId) (h : Keeps r s) : Keeps r (State.vecPump s c x) := by
  unfold State.vecPump
  try dsimp only
  repeat' first
    | with_reducible assumption
    | with_reducible apply vecGo_keeps

theorem State.vecPost_keeps {r s : State} (i : Issued) (desc : BitVec 1024) (upd : Option (BitVec 1536)) (h : Keeps r s) : Keeps r (State.vecPost s i desc upd) := by
  unfold State.vecPost
  try dsimp only
  repeat' first
    | with_reducible assumption
    | with_reducible apply State.vecPump_keeps
    | with_reducible apply State.modCtx_keeps

theorem vecCmd_keeps {r : State} (i : Issued) {s : State} (h : Keeps r s) : Keeps r (vecCmd i s) := by
  unfold vecCmd
  try dsimp only
  repeat' first
    | with_reducible assumption
    | with_reducible apply State.vecPost_keeps

theorem updateCmd_keeps {r : State} (i : Issued) {s : State} (h : Keeps r s) : Keeps r (updateCmd i s) := by
  unfold updateCmd
  try dsimp only
  repeat' first
    | with_reducible assumption
    | with_reducible apply State.vecPost_keeps

theorem State.resumeFiller_keeps {r s : State} (c : CoreId) (h : Keeps r s) : Keeps r (State.resumeFiller s c) := by
  unfold State.resumeFiller
  try dsimp only
  repeat' first
    | with_reducible assumption
    | with_reducible apply State.pumpAll_keeps
    | with_reducible apply State.rqStep_keeps
    | with_reducible apply keeps_ite
    | (with_reducible apply keeps_foldl; intro _ _ _; try dsimp only)
    | split

end Sys2Proof.Machine
end

