-- ==== Sys2Proof/Laws/KeepsF.lean ====
section
/-!
SUPPORT. What each operation keeps (F): one lemma per operation, in the order of use.
-/
namespace Sys2Proof.Machine

structure KeepsX (r : State) (o : Host.Outcome State Fault Refusal) : Prop where
  next : ∀ t, o = .next t → Keeps r t
theorem keepsX_next {r t : State} (h : Keeps r t) : KeepsX r (.next t) := ⟨fun u e => by cases e; exact h⟩
theorem keepsX_refused {r : State} {x : Refusal} : KeepsX r (.refused x) := ⟨fun u e => by cases e⟩
theorem keepsX_ite {r : State} {c : Prop} [Decidable c] {o q : Host.Outcome State Fault Refusal} (h : KeepsX r o) (g : KeepsX r q) : KeepsX r (if c then o else q) := by split <;> assumption

theorem State.arrive_keeps {r s : State} (p : Packet) (mine : Bool) (f : State → State) (hf : ∀  s, Keeps r s → Keeps r (f  s)) (h : Keeps r s) : KeepsX r (State.arrive s p mine f) := by
  unfold State.arrive
  try dsimp only
  repeat' first
    | with_reducible apply keepsX_next
    | with_reducible apply keepsX_ite
    | with_reducible apply hf
    | with_reducible assumption
    | with_reducible apply State.incD_keeps
    | with_reducible apply State.freeBuffer_keeps
    | with_reducible apply State.unsupported_keeps

theorem execRdq_keeps {r : State} (p : Packet) (e : ReadErrors) {s : State} (h : Keeps r s) : KeepsX r (execRdq p e s) := by
  unfold execRdq
  try dsimp only
  repeat' first
    | with_reducible apply State.arrive_keeps
    | (intro _; try dsimp only)
    | with_reducible assumption
    | with_reducible apply State.takeRead_keeps

theorem execHeaderWrite_keeps {r s : State} (p : Packet) (h : Keeps r s) : KeepsX r (execHeaderWrite p s) := by
  unfold execHeaderWrite
  refine State.arrive_keeps _ _ _ (fun s hs => ?_) h
  split
  · exact State.sendAck_keeps _ (keeps_mem hs (Mem.wf_setHeader _ _ _))
  · exact State.sendErr_keeps _ _ hs

theorem execHeaderRead_keeps {r : State} (p : Packet) {s : State} (h : Keeps r s) : KeepsX r (execHeaderRead p s) := by
  unfold execHeaderRead
  try dsimp only
  repeat' first
    | with_reducible apply State.arrive_keeps
    | (intro _; try dsimp only)
    | with_reducible assumption
    | with_reducible apply State.respond_keeps
    | with_reducible apply State.sendErr_keeps
    | split

theorem execSadd_keeps {r : State} (p : Packet) {s : State} (h : Keeps r s) : KeepsX r (execSadd p s) := by
  unfold execSadd
  try dsimp only
  repeat' first
    | with_reducible apply State.arrive_keeps
    | (intro _; try dsimp only)
    | with_reducible assumption
    | with_reducible apply State.takeSync_keeps

theorem execSset_keeps {r : State} (p : Packet) {s : State} (h : Keeps r s) : KeepsX r (execSset p s) := by
  unfold execSset
  try dsimp only
  repeat' first
    | with_reducible apply State.arrive_keeps
    | (intro _; try dsimp only)
    | with_reducible assumption
    | with_reducible apply State.takeSync_keeps
    | with_reducible apply State.unsupported_keeps
    | split

theorem execLossNotice_keeps {r : State} (p : Packet) {s : State} (h : Keeps r s) : KeepsX r (execLossNotice p s) := by
  unfold execLossNotice
  try dsimp only
  repeat' first
    | with_reducible apply State.arrive_keeps
    | (intro _; try dsimp only)
    | with_reducible assumption
    | with_reducible apply State.settle_keeps
    | with_reducible apply State.lossNotice_keeps
    | with_reducible apply keeps_ite

theorem State.runBlock_keeps {r s : State} (win : Fin 64) (seq : W32) (kind : Nat) (f : Win → Block → State → State) (hf : ∀ v0 v1 s, Keeps r s → Keeps r (f v0 v1 s)) (h : Keeps r s) : KeepsX r (State.runBlock s win seq kind f) := by
  unfold State.runBlock
  try dsimp only
  repeat' first
    | with_reducible apply keepsX_next
    | with_reducible apply keepsX_ite
    | with_reducible apply hf
    | with_reducible assumption
    | with_reducible apply State.settle_keeps
    | with_reducible apply State.blkEnd_keeps
    | with_reducible apply State.modBlk_keeps
    | with_reducible apply State.mgmtRefuse_keeps
    | split

theorem execBlockNop_keeps {r : State} (win : Fin 64) (seq : W32) {s : State} (h : Keeps r s) : KeepsX r (execBlockNop win seq s) := by
  unfold execBlockNop
  try dsimp only
  repeat' first
    | with_reducible apply State.runBlock_keeps
    | (intro _; try dsimp only)
    | with_reducible assumption
    | with_reducible apply State.blkEnd_keeps

theorem execWrite_keeps {r : State} (win : Fin 64) (seq : W32) {s : State} (h : Keeps r s) : KeepsX r (execWrite win seq s) := by
  unfold execWrite
  try dsimp only
  repeat' first
    | with_reducible apply State.runBlock_keeps
    | (intro _; try dsimp only)
    | with_reducible assumption
    | with_reducible apply State.blkPump_keeps

theorem execRead_keeps {r : State} (win : Fin 64) (seq : W32) {s : State} (h : Keeps r s) : KeepsX r (execRead win seq s) := by
  unfold execRead
  try dsimp only
  repeat' first
    | with_reducible apply State.runBlock_keeps
    | (intro _; try dsimp only)
    | with_reducible assumption
    | with_reducible apply State.blkPump_keeps

theorem execAppend_keeps {r : State} (win : Fin 64) (seq : W32) {s : State} (h : Keeps r s) : KeepsX r (execAppend win seq s) := by
  unfold execAppend
  try dsimp only
  repeat' first
    | with_reducible apply State.runBlock_keeps
    | (intro _; try dsimp only)
    | with_reducible assumption
    | with_reducible apply State.blkPump_keeps

theorem execBlockSignal_keeps {r : State} (win : Fin 64) (seq : W32) {s : State} (h : Keeps r s) : KeepsX r (execBlockSignal win seq s) := by
  unfold execBlockSignal
  try dsimp only
  repeat' first
    | with_reducible apply State.runBlock_keeps
    | (intro _; try dsimp only)
    | with_reducible assumption
    | with_reducible apply State.blkEnd_keeps
    | with_reducible apply State.applySync_keeps

theorem execDict_keeps {r : State} (win : Fin 64) (seq : W32) {s : State} (h : Keeps r s) : KeepsX r (execDict win seq s) := by
  unfold execDict
  try dsimp only
  repeat' first
    | with_reducible apply State.runBlock_keeps
    | (intro _; try dsimp only)
    | with_reducible assumption
    | with_reducible apply State.dictWrite_keeps
    | with_reducible apply State.dictRead_keeps
    | with_reducible apply State.blkEnd_keeps
    | split

theorem execBlockComplete_keeps {r : State} (win : Fin 64) (seq : W32) {s : State} (h : Keeps r s) : KeepsX r (execBlockComplete win seq s) := by
  unfold execBlockComplete
  try dsimp only
  repeat' first
    | with_reducible apply keepsX_next
    | with_reducible apply keepsX_ite
    | with_reducible assumption
    | with_reducible apply State.settle_keeps
    | with_reducible apply State.completeBlk_keeps
    | split

theorem execIrqHoldoffEnd_keeps {r : State} (win : Fin 64) {s : State} (h : Keeps r s) : KeepsX r (execIrqHoldoffEnd win s) := by
  unfold execIrqHoldoffEnd
  try dsimp only
  repeat' first
    | with_reducible apply keepsX_next
    | with_reducible assumption
    | with_reducible apply State.msi_keeps
    | (fail_if_no_progress (with_reducible apply keeps_mk))
    | split

theorem execUndervoltageLockout_keeps {r : State} (mv : W16) {s : State} (h : Keeps r s) : KeepsX r (execUndervoltageLockout mv s) := by
  unfold execUndervoltageLockout
  try dsimp only
  repeat' first
    | with_reducible apply keepsX_next
    | with_reducible assumption
    | with_reducible apply State.lockOut_keeps
    | with_reducible apply keeps_ite

theorem execOvervoltageLockout_keeps {r : State} (mv : W16) {s : State} (h : Keeps r s) : KeepsX r (execOvervoltageLockout mv s) := by
  unfold execOvervoltageLockout
  try dsimp only
  repeat' first
    | with_reducible apply keepsX_next
    | with_reducible assumption
    | with_reducible apply State.lockOut_keeps
    | with_reducible apply keeps_ite

theorem execEnAssert_keeps {r s : State} (h : Keeps r s) : KeepsX r (execEnAssert s) := by
  unfold execEnAssert
  try dsimp only
  repeat' first
    | with_reducible apply keepsX_next
    | with_reducible assumption
    | with_reducible apply State.modBoard_keeps

theorem execEnDeassert_keeps {r s : State} (h : Keeps r s) : KeepsX r (execEnDeassert s) := by
  unfold execEnDeassert
  try dsimp only
  repeat' first
    | with_reducible apply keepsX_next
    | with_reducible assumption
    | with_reducible apply State.powerOff_keeps

theorem execPowerGood_keeps {r s : State} (h : Keeps r s) : KeepsX r (execPowerGood s) := by
  unfold execPowerGood
  try dsimp only
  repeat' first
    | with_reducible apply keepsX_next
    | with_reducible assumption
    | with_reducible apply State.modBoard_keeps
    | with_reducible apply keeps_ite

theorem execResetAssert_keeps {r s : State} (h : Keeps r s) : KeepsX r (execResetAssert s) := by
  unfold execResetAssert
  try dsimp only
  repeat' first
    | with_reducible apply keepsX_next
    | with_reducible apply keepsX_ite
    | with_reducible assumption
    | with_reducible apply State.coldState_keeps

theorem execResetRelease_keeps {r : State} (slotId : BitVec 6) {s : State} (h : Keeps r s) : KeepsX r (execResetRelease slotId s) := by
  unfold execResetRelease
  try dsimp only
  repeat' first
    | with_reducible apply keepsX_next
    | with_reducible apply keepsX_ite
    | with_reducible assumption
    | with_reducible apply State.modBoard_keeps
    | with_reducible apply State.coldReset_keeps

theorem State.psb_keeps {r s : State} (pecOk : Bool) (f : State → State) (hf : ∀  s, Keeps r s → Keeps r (f  s)) (h : Keeps r s) : KeepsX r (State.psb s pecOk f) := by
  unfold State.psb
  try dsimp only
  repeat' first
    | with_reducible apply keepsX_next
    | with_reducible apply hf
    | with_reducible assumption
    | with_reducible apply keeps_ite

theorem State.psbKernel_keeps {r s : State} (pecOk : Bool) (f : State → State) (hf : ∀  s, Keeps r s → Keeps r (f  s)) (h : Keeps r s) : KeepsX r (State.psbKernel s pecOk f) := by
  unfold State.psbKernel
  try dsimp only
  repeat' first
    | with_reducible apply State.psb_keeps
    | (intro _; try dsimp only)
    | with_reducible apply hf
    | with_reducible assumption
    | with_reducible apply keeps_ite

theorem execConfigBufferWrite_keeps {r : State} (pecOk : Bool) (bytes : List Byte) {s : State} (h : Keeps r s) : KeepsX r (execConfigBufferWrite pecOk bytes s) := by
  unfold execConfigBufferWrite
  try dsimp only
  repeat' first
    | with_reducible apply State.psbKernel_keeps
    | (intro _; try dsimp only)
    | (fail_if_no_progress (with_reducible refine keeps_sec ?_ (Fuses.Le.refl _)))
    | with_reducible assumption

theorem execConfigInstall_keeps {r : State} (pecOk : Bool) {s : State} (h : Keeps r s) : KeepsX r (execConfigInstall pecOk s) := by
  unfold execConfigInstall
  try dsimp only
  repeat' first
    | with_reducible apply State.psbKernel_keeps
    | (intro _; try dsimp only)
    | (fail_if_no_progress (with_reducible refine keeps_sec ?_ (Fuses.Le.refl _)))
    | with_reducible assumption
    | with_reducible apply State.useShadow_keeps
    | with_reducible apply State.settle_keeps
    | with_reducible apply State.install_keeps
    | with_reducible apply keeps_ite

theorem execConfigResultRead_keeps {r : State} (pecOk : Bool) {s : State} (h : Keeps r s) : KeepsX r (execConfigResultRead pecOk s) := by
  unfold execConfigResultRead
  try dsimp only
  repeat' first
    | with_reducible apply State.psbKernel_keeps
    | (intro _; try dsimp only)
    | with_reducible assumption
    | with_reducible apply State.emit_keeps

theorem execBootStatusRead_keeps {r : State} (pecOk : Bool) {s : State} (h : Keeps r s) : KeepsX r (execBootStatusRead pecOk s) := by
  unfold execBootStatusRead
  try dsimp only
  repeat' first
    | with_reducible apply State.psb_keeps
    | (intro _; try dsimp only)
    | with_reducible assumption
    | with_reducible apply State.emit_keeps

theorem execConfigBufferEmpty_keeps {r : State} (pecOk : Bool) {s : State} (h : Keeps r s) : KeepsX r (execConfigBufferEmpty pecOk s) := by
  unfold execConfigBufferEmpty
  try dsimp only
  repeat' first
    | with_reducible apply State.psbKernel_keeps
    | (intro _; try dsimp only)
    | (fail_if_no_progress (with_reducible refine keeps_sec ?_ (Fuses.Le.refl _)))
    | with_reducible assumption

theorem execWarmResetCommand_keeps {r : State} (pecOk : Bool) {s : State} (h : Keeps r s) : KeepsX r (execWarmResetCommand pecOk s) := by
  unfold execWarmResetCommand
  try dsimp only
  repeat' first
    | with_reducible apply State.psb_keeps
    | (intro _; try dsimp only)
    | with_reducible assumption
    | with_reducible apply State.requestWarm_keeps

theorem execColdResetCommand_keeps {r : State} (pecOk : Bool) {s : State} (h : Keeps r s) : KeepsX r (execColdResetCommand pecOk s) := by
  unfold execColdResetCommand
  try dsimp only
  repeat' first
    | with_reducible apply State.psb_keeps
    | (intro _; try dsimp only)
    | with_reducible assumption
    | with_reducible apply State.coldReset_keeps
    | with_reducible apply keeps_ite

theorem execReadinessRead_keeps {r : State} (pecOk : Bool) {s : State} (h : Keeps r s) : KeepsX r (execReadinessRead pecOk s) := by
  unfold execReadinessRead
  try dsimp only
  repeat' first
    | with_reducible apply State.psb_keeps
    | (intro _; try dsimp only)
    | with_reducible assumption
    | with_reducible apply State.emit_keeps

theorem execResetCauseRead_keeps {r : State} (pecOk : Bool) {s : State} (h : Keeps r s) : KeepsX r (execResetCauseRead pecOk s) := by
  unfold execResetCauseRead
  try dsimp only
  repeat' first
    | with_reducible apply State.psb_keeps
    | (intro _; try dsimp only)
    | with_reducible assumption
    | with_reducible apply State.emit_keeps

theorem execJtagInstruction_keeps {r : State} (ir : JtagIr) {s : State} (h : Keeps r s) : KeepsX r (execJtagInstruction ir s) := by
  unfold execJtagInstruction
  try dsimp only
  repeat' first
    | with_reducible apply keepsX_next
    | with_reducible exact keepsX_refused
    | with_reducible apply keepsX_ite
    | (fail_if_no_progress (with_reducible refine keeps_sec ?_ (Fuses.Le.refl _)))
    | with_reducible assumption
    | with_reducible apply State.emit_keeps
    | split

theorem execTrustedKernelStart_keeps {r s : State} (h : Keeps r s) : KeepsX r (execTrustedKernelStart s) := by
  unfold execTrustedKernelStart
  try dsimp only
  repeat' first
    | with_reducible apply keepsX_next
    | with_reducible apply keepsX_ite
    | with_reducible assumption
    | with_reducible apply State.useShadow_keeps
    | with_reducible apply State.setBoot_keeps
    | with_reducible apply State.startKernel_keeps
    | with_reducible apply State.install_keeps
    | with_reducible apply State.applyUpdate_keeps
    | (fail_if_no_progress (with_reducible apply keeps_mk))
    | with_reducible apply keeps_ite
    | split

theorem execServiceFirmwareStart_keeps {r s : State} (h : Keeps r s) : KeepsX r (execServiceFirmwareStart s) := by
  unfold execServiceFirmwareStart
  try dsimp only
  repeat' first
    | with_reducible apply keepsX_next
    | with_reducible apply keepsX_ite
    | with_reducible assumption
    | with_reducible apply State.useShadow_keeps
    | with_reducible apply State.setBoot_keeps
    | with_reducible apply State.startFirmware_keeps
    | (fail_if_no_progress (with_reducible apply keeps_mk))
    | split

theorem execDramTrainingDone_keeps {r : State} (failed : W16) {s : State} (h : Keeps r s) : KeepsX r (execDramTrainingDone failed s) := by
  unfold execDramTrainingDone
  try dsimp only
  repeat' first
    | with_reducible apply keepsX_next
    | with_reducible apply keepsX_ite
    | with_reducible assumption
    | with_reducible apply State.degrade_keeps
    | (fail_if_no_progress (with_reducible apply keeps_mk))
    | with_reducible apply keeps_ite
    | (with_reducible apply keeps_foldl; intro _ _ _; try dsimp only)

theorem execSelfTestDone_keeps {r : State} (failed : List (Fin 272)) {s : State} (h : Keeps r s) : KeepsX r (execSelfTestDone failed s) := by
  unfold execSelfTestDone
  try dsimp only
  repeat' first
    | with_reducible apply keepsX_next
    | with_reducible apply keepsX_ite
    | with_reducible assumption
    | with_reducible apply State.nominate_keeps
    | with_reducible apply State.retargetAll_keeps
    | with_reducible apply State.showOffer_keeps
    | (fail_if_no_progress (with_reducible apply keeps_mk))
    | (with_reducible apply keeps_foldl; intro _ _ _; try dsimp only)

theorem execUsdoDownload_keeps {r : State} (idx : W16) (sub : Byte) (len : Nat) (v : W64) {s : State} (h : Keeps r s) : KeepsX r (execUsdoDownload idx sub len v s) := by
  unfold execUsdoDownload
  try dsimp only
  repeat' first
    | with_reducible apply keepsX_next
    | with_reducible assumption
    | with_reducible apply State.usdoWrite_keeps

theorem execFuseStage_keeps {r : State} (sub : Byte) (len : Nat) (v : W64) {s : State} (h : Keeps r s) : KeepsX r (execFuseStage sub len v s) := by
  unfold execFuseStage
  try dsimp only
  repeat' first
    | with_reducible apply keepsX_next
    | with_reducible assumption
    | with_reducible apply State.usdoWrite_keeps

theorem execUsdoUpload_keeps {r : State} (idx : W16) (sub : Byte) {s : State} (h : Keeps r s) : KeepsX r (execUsdoUpload idx sub s) := by
  unfold execUsdoUpload
  try dsimp only
  repeat' first
    | with_reducible apply keepsX_next
    | with_reducible apply keepsX_ite
    | with_reducible assumption
    | with_reducible apply State.dictRead_keeps
    | with_reducible apply State.emit_keeps

theorem execNmtResetNode_keeps {r s : State} (h : Keeps r s) : KeepsX r (execNmtResetNode s) := by
  unfold execNmtResetNode
  try dsimp only
  repeat' first
    | with_reducible apply keepsX_next
    | with_reducible assumption
    | with_reducible apply State.canRestart_keeps
    | with_reducible apply keeps_ite

theorem execNmtResetCommunication_keeps {r s : State} (h : Keeps r s) : KeepsX r (execNmtResetCommunication s) := by
  unfold execNmtResetCommunication
  try dsimp only
  repeat' first
    | with_reducible apply keepsX_next
    | with_reducible assumption
    | with_reducible apply State.canRestart_keeps
    | with_reducible apply keeps_ite

theorem execNmtStateCommand_keeps {r : State} (c : NmtCmd) {s : State} (h : Keeps r s) : KeepsX r (execNmtStateCommand c s) := by
  unfold execNmtStateCommand
  try dsimp only
  repeat' first
    | with_reducible apply keepsX_next
    | with_reducible assumption
    | (fail_if_no_progress (with_reducible apply keeps_mk))
    | with_reducible apply keeps_ite

theorem execHeartbeat_keeps {r s : State} (h : Keeps r s) : KeepsX r (execHeartbeat s) := by
  unfold execHeartbeat
  try dsimp only
  repeat' first
    | with_reducible apply keepsX_next
    | with_reducible apply keepsX_ite
    | with_reducible assumption
    | with_reducible apply State.emit_keeps

theorem execCheckpointCopyDone_keeps {r : State} (p : PartId) {s : State} (h : Keeps r s) : KeepsX r (execCheckpointCopyDone p s) := by
  unfold execCheckpointCopyDone
  try dsimp only
  repeat' first
    | with_reducible apply keepsX_next
    | with_reducible apply keepsX_ite
    | with_reducible assumption
    | with_reducible apply State.modPart_keeps
    | with_reducible apply State.settle_keeps
    | with_reducible apply State.ckptValid_keeps
    | with_reducible apply State.setDN_keeps
    | split

theorem State.dispatch_keeps {r s : State} (sl : Slot) (w : W256) (op : Nat) (f : Issued → State → State) (hf : ∀ v0 s, Keeps r s → Keeps r (f v0 s)) (h : Keeps r s) : KeepsX r (State.dispatch s sl w op f) := by
  unfold State.dispatch
  try dsimp only
  repeat' first
    | with_reducible apply keepsX_next
    | with_reducible apply keepsX_ite
    | with_reducible apply hf
    | with_reducible assumption
    | with_reducible apply State.issue_keeps
    | with_reducible apply State.settle_keeps
    | with_reducible apply State.fetchHead_keeps
    | with_reducible apply State.done_keeps
    | with_reducible apply State.notFiller_keeps
    | split

theorem execColl_keeps {r : State} (sl : Slot) (w : W256) {s : State} (h : Keeps r s) : KeepsX r (execColl sl w s) := by
  unfold execColl
  try dsimp only
  repeat' first
    | with_reducible apply State.dispatch_keeps
    | (intro _; try dsimp only)
    | with_reducible assumption
    | with_reducible apply withDesc_keeps
    | with_reducible apply State.collCmd_keeps

theorem execReady_keeps {r : State} (m : Packet × CollReady) {s : State} (h : Keeps r s) : KeepsX r (execReady m s) := by
  unfold execReady
  try dsimp only
  repeat' first
    | with_reducible apply State.arrive_keeps
    | (intro _; try dsimp only)
    | with_reducible assumption
    | with_reducible apply State.takeReady_keeps
    | with_reducible apply State.settle_keeps
    | with_reducible apply State.collPump_keeps
    | with_reducible apply State.respond_keeps

theorem execReadyRetry_keeps {r : State} (m : CollReady) {s : State} (h : Keeps r s) : KeepsX r (execReadyRetry m s) := by
  unfold execReadyRetry
  try dsimp only
  repeat' first
    | with_reducible apply keepsX_next
    | with_reducible apply keepsX_ite
    | with_reducible assumption
    | with_reducible apply State.modPart_keeps
    | with_reducible apply State.incD_keeps
    | with_reducible apply State.takeReady_keeps
    | with_reducible apply State.settle_keeps
    | with_reducible apply State.collPump_keeps
    | with_reducible apply State.sendMail_keeps
    | with_reducible apply keeps_ite
    | split

theorem execSegmentEnd_keeps {r : State} (m : Packet × CollSegEnd) {s : State} (h : Keeps r s) : KeepsX r (execSegmentEnd m s) := by
  unfold execSegmentEnd
  try dsimp only
  repeat' first
    | with_reducible apply State.arrive_keeps
    | (intro _; try dsimp only)
    | with_reducible assumption
    | with_reducible apply State.settle_keeps
    | with_reducible apply State.collPump_keeps
    | with_reducible apply State.sendAck_keeps
    | with_reducible apply State.takeSegEnd_keeps

theorem execWr_keeps {r : State} (p : Packet) {s : State} (h : Keeps r s) : KeepsX r (execWr p s) := by
  unfold execWr
  try dsimp only
  repeat' first
    | with_reducible apply State.arrive_keeps
    | (intro _; try dsimp only)
    | with_reducible assumption
    | with_reducible apply State.sendAck_keeps
    | with_reducible apply State.incD_keeps
    | with_reducible apply State.takeWrite_keeps
    | with_reducible apply State.hearData_keeps
    | with_reducible apply keeps_ite

theorem execCollTimeout_keeps {r : State} (core : CoreId) (ctx : CtxId) (gid : W16) {s : State} (h : Keeps r s) : KeepsX r (execCollTimeout core ctx gid s) := by
  unfold execCollTimeout
  try dsimp only
  repeat' first
    | with_reducible apply keepsX_next
    | with_reducible assumption
    | with_reducible apply State.settle_keeps
    | with_reducible apply State.collPump_keeps
    | with_reducible apply State.callTimeout_keeps
    | split

theorem execRedr_keeps {r : State} (p : Packet) {s : State} (h : Keeps r s) : KeepsX r (execRedr p s) := by
  unfold execRedr
  try dsimp only
  repeat' first
    | with_reducible apply keepsX_next
    | with_reducible apply keepsX_ite
    | with_reducible assumption
    | with_reducible apply State.incD_keeps
    | with_reducible apply State.freeBuffer_keeps
    | with_reducible apply State.settle_keeps
    | with_reducible apply State.collPump_keeps
    | with_reducible apply State.takeRedr_keeps

theorem execTailWrite_keeps {r : State} (core : CoreId) (st : StreamId) (part : PartId) (v : W32) {s : State} (h : Keeps r s) : KeepsX r (execTailWrite core st part v s) := by
  unfold execTailWrite
  try dsimp only
  repeat' first
    | with_reducible apply keepsX_next
    | with_reducible assumption
    | with_reducible apply State.winStore_keeps

theorem execStreamEnable_keeps {r : State} (core : CoreId) (st : StreamId) (part : PartId) (v : W32) {s : State} (h : Keeps r s) : KeepsX r (execStreamEnable core st part v s) := by
  unfold execStreamEnable
  try dsimp only
  repeat' first
    | with_reducible apply keepsX_next
    | with_reducible assumption
    | with_reducible apply State.winStore_keeps

theorem execContextEnable_keeps {r : State} (core : CoreId) (ctx : CtxId) (part : PartId) (v : W32) {s : State} (h : Keeps r s) : KeepsX r (execContextEnable core ctx part v s) := by
  unfold execContextEnable
  try dsimp only
  repeat' first
    | with_reducible apply keepsX_next
    | with_reducible assumption
    | with_reducible apply State.winStore_keeps

theorem execResume_keeps {r : State} (core : CoreId) (ctx : CtxId) (part : PartId) (v : W32) {s : State} (h : Keeps r s) : KeepsX r (execResume core ctx part v s) := by
  unfold execResume
  try dsimp only
  repeat' first
    | with_reducible apply keepsX_next
    | with_reducible assumption
    | with_reducible apply State.winStore_keeps

theorem execStaCfgWrite_keeps {r : State} (core : CoreId) (ctx : CtxId) (part : PartId) (slot : Fin 64) (span : CfgSpan) (v : W64) {s : State} (h : Keeps r s) : KeepsX r (execStaCfgWrite core ctx part slot span v s) := by
  unfold execStaCfgWrite
  try dsimp only
  repeat' first
    | with_reducible apply keepsX_next
    | with_reducible assumption
    | with_reducible apply State.winStore_keeps
    | split

theorem execStashConfigWrite_keeps {r : State} (core : CoreId) (part : PartId) (off : BitVec 22) (v : W64) {s : State} (h : Keeps r s) : KeepsX r (execStashConfigWrite core part off v s) := by
  unfold execStashConfigWrite
  try dsimp only
  repeat' first
    | with_reducible apply keepsX_next
    | with_reducible apply keepsX_ite
    | with_reducible assumption
    | with_reducible apply State.winStore_keeps

theorem execRegisterWrite_keeps {r : State} (core : CoreId) (part : PartId) (off : BitVec 22) (v : W32) {s : State} (h : Keeps r s) : KeepsX r (execRegisterWrite core part off v s) := by
  unfold execRegisterWrite
  try dsimp only
  repeat' first
    | with_reducible apply keepsX_next
    | with_reducible assumption
    | with_reducible apply State.winStore_keeps

theorem State.dictCmd_keeps {r s : State} (x1 : Route) (idx : Nat) (sub : Nat) (v : W64) (h : Keeps r s) : KeepsX r (State.dictCmd s x1 idx sub v) := by
  unfold State.dictCmd
  try dsimp only
  repeat' first
    | with_reducible apply keepsX_next
    | with_reducible assumption
    | with_reducible apply State.dictWrite_keeps

theorem execPlanLoad_keeps {r : State} (x0 : Route) (p : PartId) (v : Byte) {s : State} (h : Keeps r s) : KeepsX r (execPlanLoad x0 p v s) := by
  unfold execPlanLoad
  try dsimp only
  repeat' first
    | with_reducible apply State.dictCmd_keeps
    | with_reducible assumption

theorem execGroupLoad_keeps {r : State} (x0 : Route) (p : PartId) (v : Byte) {s : State} (h : Keeps r s) : KeepsX r (execGroupLoad x0 p v s) := by
  unfold execGroupLoad
  try dsimp only
  repeat' first
    | with_reducible apply State.dictCmd_keeps
    | with_reducible assumption

theorem execCkptRequest_keeps {r : State} (x0 : Route) (p : PartId) (v : Byte) {s : State} (h : Keeps r s) : KeepsX r (execCkptRequest x0 p v s) := by
  unfold execCkptRequest
  try dsimp only
  repeat' first
    | with_reducible apply State.dictCmd_keeps
    | with_reducible assumption

theorem execQuarNominate_keeps {r : State} (x0 : Route) (v : Byte) {s : State} (h : Keeps r s) : KeepsX r (execQuarNominate x0 v s) := by
  unfold execQuarNominate
  try dsimp only
  repeat' first
    | with_reducible apply State.dictCmd_keeps
    | with_reducible assumption

theorem execFaultClear_keeps {r : State} (x0 : Route) (v : Byte) {s : State} (h : Keeps r s) : KeepsX r (execFaultClear x0 v s) := by
  unfold execFaultClear
  try dsimp only
  repeat' first
    | with_reducible apply State.dictCmd_keeps
    | with_reducible assumption

theorem execInitStart_keeps {r : State} (x0 : Route) (v : Byte) {s : State} (h : Keeps r s) : KeepsX r (execInitStart x0 v s) := by
  unfold execInitStart
  try dsimp only
  repeat' first
    | with_reducible apply State.dictCmd_keeps
    | with_reducible assumption

theorem execLogClear_keeps {r : State} (x0 : Route) (v : Byte) {s : State} (h : Keeps r s) : KeepsX r (execLogClear x0 v s) := by
  unfold execLogClear
  try dsimp only
  repeat' first
    | with_reducible apply State.dictCmd_keeps
    | with_reducible assumption

theorem execRepairNominate_keeps {r : State} (x0 : Route) (v : W64) {s : State} (h : Keeps r s) : KeepsX r (execRepairNominate x0 v s) := by
  unfold execRepairNominate
  try dsimp only
  repeat' first
    | with_reducible apply State.dictCmd_keeps
    | with_reducible assumption

theorem execNop_keeps {r : State} (sl : Slot) (w : W256) {s : State} (h : Keeps r s) : KeepsX r (execNop sl w s) := by
  unfold execNop
  try dsimp only
  repeat' first
    | with_reducible apply State.dispatch_keeps
    | (intro _; try dsimp only)
    | with_reducible assumption
    | with_reducible apply State.done_keeps

theorem execTokset_keeps {r : State} (sl : Slot) (w : W256) {s : State} (h : Keeps r s) : KeepsX r (execTokset sl w s) := by
  unfold execTokset
  try dsimp only
  repeat' first
    | with_reducible apply State.dispatch_keeps
    | (intro _; try dsimp only)
    | with_reducible assumption
    | with_reducible apply State.done_keeps
    | with_reducible apply State.modCtx_keeps

theorem execTokadd_keeps {r : State} (sl : Slot) (w : W256) {s : State} (h : Keeps r s) : KeepsX r (execTokadd sl w s) := by
  unfold execTokadd
  try dsimp only
  repeat' first
    | with_reducible apply State.dispatch_keeps
    | (intro _; try dsimp only)
    | with_reducible assumption
    | with_reducible apply State.done_keeps
    | with_reducible apply State.modCtx_keeps

theorem execCset_keeps {r : State} (sl : Slot) (w : W256) {s : State} (h : Keeps r s) : KeepsX r (execCset sl w s) := by
  unfold execCset
  try dsimp only
  repeat' first
    | with_reducible apply State.dispatch_keeps
    | (intro _; try dsimp only)
    | with_reducible assumption
    | with_reducible apply State.done_keeps
    | with_reducible apply State.onStream_keeps
    | with_reducible apply keeps_ite

theorem execCadd_keeps {r : State} (sl : Slot) (w : W256) {s : State} (h : Keeps r s) : KeepsX r (execCadd sl w s) := by
  unfold execCadd
  try dsimp only
  repeat' first
    | with_reducible apply State.dispatch_keeps
    | (intro _; try dsimp only)
    | with_reducible assumption
    | with_reducible apply State.done_keeps
    | with_reducible apply State.onStream_keeps
    | with_reducible apply keeps_ite

theorem execLoop_keeps {r : State} (sl : Slot) (w : W256) {s : State} (h : Keeps r s) : KeepsX r (execLoop sl w s) := by
  unfold execLoop
  try dsimp only
  repeat' first
    | with_reducible apply State.dispatch_keeps
    | (intro _; try dsimp only)
    | with_reducible assumption
    | with_reducible apply State.done_keeps
    | with_reducible apply State.modStream_keeps
    | with_reducible apply keeps_ite
    | split

theorem execDrain_keeps {r : State} (sl : Slot) (w : W256) {s : State} (h : Keeps r s) : KeepsX r (execDrain sl w s) := by
  unfold execDrain
  try dsimp only
  repeat' first
    | with_reducible apply State.dispatch_keeps
    | (intro _; try dsimp only)
    | with_reducible assumption
    | with_reducible apply State.holdStream_keeps

theorem execHalt_keeps {r : State} (sl : Slot) (w : W256) {s : State} (h : Keeps r s) : KeepsX r (execHalt sl w s) := by
  unfold execHalt
  try dsimp only
  repeat' first
    | with_reducible apply State.dispatch_keeps
    | (intro _; try dsimp only)
    | with_reducible assumption
    | with_reducible apply State.modCtx_keeps
    | with_reducible apply State.done_keeps

theorem execPhase_keeps {r : State} (sl : Slot) (w : W256) {s : State} (h : Keeps r s) : KeepsX r (execPhase sl w s) := by
  unfold execPhase
  try dsimp only
  repeat' first
    | with_reducible apply State.dispatch_keeps
    | (intro _; try dsimp only)
    | with_reducible assumption
    | with_reducible apply State.done_keeps
    | with_reducible apply State.onStream_keeps
    | split

theorem execMark_keeps {r : State} (sl : Slot) (w : W256) {s : State} (h : Keeps r s) : KeepsX r (execMark sl w s) := by
  unfold execMark
  try dsimp only
  repeat' first
    | with_reducible apply State.dispatch_keeps
    | (intro _; try dsimp only)
    | with_reducible assumption
    | with_reducible apply State.done_keeps
    | with_reducible apply State.workChk_keeps
    | with_reducible apply State.refuse_keeps
    | with_reducible apply State.writeMerge_keeps
    | with_reducible apply keeps_ite

theorem execNotify_keeps {r : State} (sl : Slot) (w : W256) {s : State} (h : Keeps r s) : KeepsX r (execNotify sl w s) := by
  unfold execNotify
  try dsimp only
  repeat' first
    | with_reducible apply State.dispatch_keeps
    | (intro _; try dsimp only)
    | with_reducible assumption
    | with_reducible apply State.postRecord_keeps

theorem execDefer_keeps {r : State} (sl : Slot) (w : W256) {s : State} (h : Keeps r s) : KeepsX r (execDefer sl w s) := by
  unfold execDefer
  try dsimp only
  repeat' first
    | with_reducible apply State.dispatch_keeps
    | (intro _; try dsimp only)
    | with_reducible assumption
    | with_reducible apply State.deferFail_keeps
    | with_reducible apply State.done_keeps
    | with_reducible apply State.post_keeps
    | with_reducible apply State.onStream_keeps
    | with_reducible apply keeps_ite

theorem execStepcommit_keeps {r : State} (sl : Slot) (w : W256) {s : State} (h : Keeps r s) : KeepsX r (execStepcommit sl w s) := by
  unfold execStepcommit
  try dsimp only
  repeat' first
    | with_reducible apply State.dispatch_keeps
    | (intro _; try dsimp only)
    | with_reducible assumption
    | with_reducible apply State.holdStream_keeps

theorem execSyncwait_keeps {r : State} (sl : Slot) (w : W256) {s : State} (h : Keeps r s) : KeepsX r (execSyncwait sl w s) := by
  unfold execSyncwait
  try dsimp only
  repeat' first
    | with_reducible apply State.dispatch_keeps
    | (intro _; try dsimp only)
    | with_reducible assumption
    | with_reducible apply State.done_keeps
    | with_reducible apply State.meetWaits_keeps
    | with_reducible apply State.holdStream_keeps
    | with_reducible apply keeps_ite

theorem execDqGroupOpen_keeps {r : State} (c : CoreId) {s : State} (h : Keeps r s) : KeepsX r (execDqGroupOpen c s) := by
  unfold execDqGroupOpen
  try dsimp only
  repeat' first
    | with_reducible apply keepsX_next
    | with_reducible apply keepsX_ite
    | with_reducible assumption
    | with_reducible apply State.modCore_keeps
    | split

theorem execFillerYield_keeps {r : State} (c : CoreId) {s : State} (h : Keeps r s) : KeepsX r (execFillerYield c s) := by
  unfold execFillerYield
  try dsimp only
  repeat' first
    | with_reducible apply keepsX_next
    | with_reducible apply keepsX_ite
    | with_reducible assumption
    | with_reducible apply State.modCore_keeps
    | with_reducible apply State.abandonReads_keeps

theorem execBulkFillDone_keeps {r : State} (d : District) {s : State} (h : Keeps r s) : KeepsX r (execBulkFillDone d s) := by
  unfold execBulkFillDone
  try dsimp only
  repeat' first
    | with_reducible apply keepsX_next
    | with_reducible apply keepsX_ite
    | with_reducible assumption
    | with_reducible apply State.modStack_keeps
    | with_reducible apply State.setDN_keeps

theorem execDramScrub_keeps {r : State} (d : District) (upset : List (Fin 72 × Byte)) {s : State} (h : Keeps r s) : KeepsX r (execDramScrub d upset s) := by
  unfold execDramScrub
  try dsimp only
  repeat' first
    | with_reducible apply keepsX_next
    | with_reducible apply keepsX_ite
    | with_reducible assumption
    | with_reducible apply State.readUpset_keeps
    | with_reducible apply State.nominateRow_keeps
    | with_reducible apply State.modStack_keeps
    | with_reducible apply State.scrubPass_keeps
    | with_reducible apply keeps_ite

theorem execSramScrub_keeps {r : State} (core : CoreId) (unit : W16) (flips : List (Fin 8 × Byte × Byte)) {s : State} (h : Keeps r s) : KeepsX r (execSramScrub core unit flips s) := by
  unfold execSramScrub
  try dsimp only
  repeat' first
    | with_reducible apply keepsX_next
    | with_reducible assumption
    | with_reducible apply State.sramFlips_keeps

theorem execBankRefresh_keeps {r : State} (d : District) (chan : Fin 32) (bank : Fin 32) {s : State} (h : Keeps r s) : KeepsX r (execBankRefresh d chan bank s) := by
  unfold execBankRefresh
  try dsimp only
  repeat' first
    | with_reducible apply keepsX_next
    | with_reducible assumption
    | with_reducible apply State.modStack_keeps

theorem execRefreshSample_keeps {r : State} (d : District) (temp : Int) (below10ms : Bool) {s : State} (h : Keeps r s) : KeepsX r (execRefreshSample d temp below10ms s) := by
  unfold execRefreshSample
  try dsimp only
  repeat' first
    | with_reducible apply keepsX_next
    | with_reducible assumption
    | with_reducible apply State.setD_keeps
    | with_reducible apply State.heat_keeps
    | with_reducible apply State.setRefresh_keeps

theorem execDramTimingTrim_keeps {r : State} (d : District) (chan : Fin 32) {s : State} (h : Keeps r s) : KeepsX r (execDramTimingTrim d chan s) := by
  unfold execDramTimingTrim
  try dsimp only
  repeat' first
    | with_reducible apply keepsX_next
    | with_reducible assumption
    | with_reducible apply State.modStack_keeps

theorem State.response_keeps {r s : State} (p : Packet) (opc : Nat) (f : Req → State → State) (hf : ∀ v0 s, Keeps r s → Keeps r (f v0 s)) (h : Keeps r s) : KeepsX r (State.response s p opc f) := by
  unfold State.response
  try dsimp only
  repeat' first
    | with_reducible apply State.arrive_keeps
    | (intro _; try dsimp only)
    | with_reducible apply hf
    | with_reducible assumption
    | with_reducible apply State.incD_keeps
    | with_reducible apply State.settle_keeps
    | with_reducible apply State.answered_keeps
    | with_reducible apply State.setReq_keeps
    | split

theorem execRdr_keeps {r : State} (p : Packet) {s : State} (h : Keeps r s) : KeepsX r (execRdr p s) := by
  unfold execRdr
  try dsimp only
  repeat' first
    | with_reducible apply State.response_keeps
    | (intro _; try dsimp only)
    | with_reducible assumption
    | with_reducible apply State.takeRsp_keeps

theorem execMrr_keeps {r : State} (p : Packet) {s : State} (h : Keeps r s) : KeepsX r (execMrr p s) := by
  unfold execMrr
  try dsimp only
  repeat' first
    | with_reducible apply State.response_keeps
    | (intro _; try dsimp only)
    | with_reducible assumption
    | with_reducible apply State.takeRsp_keeps

theorem execAck_keeps {r : State} (p : Packet) {s : State} (h : Keeps r s) : KeepsX r (execAck p s) := by
  unfold execAck
  try dsimp only
  repeat' first
    | with_reducible apply State.response_keeps
    | (intro _; try dsimp only)
    | with_reducible assumption
    | with_reducible apply State.modPart_keeps
    | split

theorem execErr_keeps {r : State} (p : Packet) {s : State} (h : Keeps r s) : KeepsX r (execErr p s) := by
  unfold execErr
  try dsimp only
  repeat' first
    | with_reducible apply State.response_keeps
    | (intro _; try dsimp only)
    | with_reducible assumption
    | with_reducible apply State.reqFails_keeps

theorem execResponseTimeout_keeps {r : State} (req : ReqId) {s : State} (h : Keeps r s) : KeepsX r (execResponseTimeout req s) := by
  unfold execResponseTimeout
  try dsimp only
  repeat' first
    | with_reducible apply keepsX_next
    | with_reducible assumption
    | with_reducible apply State.settle_keeps
    | with_reducible apply State.answered_keeps
    | with_reducible apply State.reqTimeout_keeps
    | with_reducible apply State.setReq_keeps
    | split

theorem execMsg_keeps {r : State} (p : Packet) {s : State} (h : Keeps r s) : KeepsX r (execMsg p s) := by
  unfold execMsg
  try dsimp only
  repeat' first
    | with_reducible apply State.arrive_keeps
    | (intro _; try dsimp only)
    | with_reducible assumption
    | with_reducible apply State.settle_keeps
    | with_reducible apply State.reserved_keeps

theorem execLocalClose_keeps {r : State} (p : PartId) {s : State} (h : Keeps r s) : KeepsX r (execLocalClose p s) := by
  unfold execLocalClose
  try dsimp only
  repeat' first
    | with_reducible apply keepsX_next
    | with_reducible assumption
    | with_reducible apply State.setDN_keeps
    | with_reducible apply State.ckptClose_keeps
    | with_reducible apply State.latchSeeds_keeps
    | with_reducible apply State.slowestClose_keeps
    | with_reducible apply State.collectorsClose_keeps
    | with_reducible apply State.modGate_keeps
    | with_reducible apply State.settle_keeps
    | with_reducible apply State.damaskWait_keeps
    | with_reducible apply keeps_ite
    | split

theorem execDamaskReexecute_keeps {r : State} (cap : Nat) {s : State} (h : Keeps r s) : KeepsX r (execDamaskReexecute cap s) := by
  unfold execDamaskReexecute
  try dsimp only
  repeat' first
    | with_reducible apply keepsX_next
    | with_reducible assumption
    | with_reducible apply State.setCap_keeps
    | split

theorem execDamaskCheck_keeps {r : State} (cap : Nat) (x1 : Option W64) {s : State} (h : Keeps r s) : KeepsX r (execDamaskCheck cap x1 s) := by
  unfold execDamaskCheck
  try dsimp only
  repeat' first
    | with_reducible apply keepsX_next
    | with_reducible apply keepsX_ite
    | with_reducible assumption
    | with_reducible apply State.settle_keeps
    | with_reducible apply State.unresolved_keeps
    | with_reducible apply State.dropCap_keeps
    | with_reducible apply State.setCap_keeps
    | with_reducible apply State.incD_keeps
    | split

theorem execDamaskArbitration_keeps {r : State} (cap : Nat) (x1 : Option W64) {s : State} (h : Keeps r s) : KeepsX r (execDamaskArbitration cap x1 s) := by
  unfold execDamaskArbitration
  try dsimp only
  repeat' first
    | with_reducible apply keepsX_next
    | with_reducible apply keepsX_ite
    | with_reducible assumption
    | with_reducible apply State.settle_keeps
    | with_reducible apply State.unresolved_keeps
    | with_reducible apply State.loses_keeps
    | split

theorem execDamaskTimeout_keeps {r : State} (cap : Nat) {s : State} (h : Keeps r s) : KeepsX r (execDamaskTimeout cap s) := by
  unfold execDamaskTimeout
  try dsimp only
  repeat' first
    | with_reducible apply keepsX_next
    | with_reducible apply keepsX_ite
    | with_reducible assumption
    | with_reducible apply State.settle_keeps
    | with_reducible apply State.unresolved_keeps
    | split

theorem execCleanVote_keeps {r : State} (p : PartId) {s : State} (h : Keeps r s) : KeepsX r (execCleanVote p s) := by
  unfold execCleanVote
  try dsimp only
  repeat' first
    | with_reducible apply keepsX_next
    | with_reducible apply keepsX_ite
    | with_reducible assumption
    | with_reducible apply State.settle_keeps
    | with_reducible apply State.voidPart_keeps
    | with_reducible apply State.raiseMgmt_keeps
    | with_reducible apply State.emit_keeps
    | with_reducible apply State.setDN_keeps

theorem execVoteResult_keeps {r : State} (p : PartId) (x1 : VoteEnd) {s : State} (h : Keeps r s) : KeepsX r (execVoteResult p x1 s) := by
  unfold execVoteResult
  try dsimp only
  repeat' first
    | with_reducible apply keepsX_next
    | with_reducible apply keepsX_ite
    | with_reducible assumption
    | with_reducible apply State.commitStep_keeps
    | with_reducible apply State.settle_keeps
    | with_reducible apply State.voidPart_keeps
    | with_reducible apply State.raiseMgmt_keeps
    | with_reducible apply State.modPart_keeps
    | split

theorem execVoid_keeps {r : State} (p : Packet) {s : State} (h : Keeps r s) : KeepsX r (execVoid p s) := by
  unfold execVoid
  try dsimp only
  repeat' first
    | with_reducible apply State.arrive_keeps
    | (intro _; try dsimp only)
    | with_reducible assumption
    | with_reducible apply State.settle_keeps
    | with_reducible apply State.voidPart_keeps
    | with_reducible apply keeps_ite

theorem execLadderSequence_keeps {r : State} (c : CoreId) (x : CtxId) {s : State} (h : Keeps r s) : KeepsX r (execLadderSequence c x s) := by
  unfold execLadderSequence
  try dsimp only
  repeat' first
    | with_reducible apply keepsX_next
    | with_reducible apply keepsX_ite
    | with_reducible assumption
    | with_reducible apply State.ladderCheck_keeps
    | split

theorem execRungComputationDone_keeps {r : State} (c : CoreId) (x : CtxId) {s : State} (h : Keeps r s) : KeepsX r (execRungComputationDone c x s) := by
  unfold execRungComputationDone
  try dsimp only
  repeat' first
    | with_reducible apply keepsX_next
    | with_reducible apply keepsX_ite
    | with_reducible assumption
    | with_reducible apply State.ladderCheck_keeps
    | with_reducible apply State.countRung_keeps
    | split

theorem execPortDown_keeps {r : State} (n : PortId) {s : State} (h : Keeps r s) : KeepsX r (execPortDown n s) := by
  unfold execPortDown
  try dsimp only
  repeat' first
    | with_reducible apply keepsX_next
    | with_reducible apply keepsX_ite
    | with_reducible assumption
    | with_reducible apply State.settle_keeps
    | with_reducible apply State.portGoesDown_keeps

theorem execCodeword_keeps {r : State} (n : PortId) (seq : W16) (errs : List (Fin 544)) (kinds : BitVec 20) (flits : List W256) {s : State} (h : Keeps r s) : KeepsX r (execCodeword n seq errs kinds flits s) := by
  unfold execCodeword
  try dsimp only
  repeat' first
    | with_reducible apply keepsX_next
    | with_reducible apply keepsX_ite
    | with_reducible assumption
    | with_reducible apply State.setPort_keeps
    | with_reducible apply State.incD_keeps
    | with_reducible apply State.emit_keeps
    | with_reducible apply State.addD_keeps
    | with_reducible apply State.settle_keeps
    | with_reducible apply State.laneFails_keeps
    | split

theorem execFlow_keeps {r : State} (n : PortId) (f : W256) {s : State} (h : Keeps r s) : KeepsX r (execFlow n f s) := by
  unfold execFlow
  try dsimp only
  repeat' first
    | with_reducible apply keepsX_next
    | with_reducible apply keepsX_ite
    | with_reducible assumption
    | with_reducible apply State.modPort_keeps
    | with_reducible apply State.incD_keeps
    | with_reducible apply State.settle_keeps
    | with_reducible apply State.portGoesDown_keeps
    | with_reducible apply State.drainPort_keeps
    | with_reducible apply State.emits_keeps

theorem execDisc_keeps {r : State} (n : PortId) (f : W256) {s : State} (h : Keeps r s) : KeepsX r (execDisc n f s) := by
  unfold execDisc
  try dsimp only
  repeat' first
    | with_reducible apply keepsX_next
    | with_reducible apply keepsX_ite
    | with_reducible assumption
    | with_reducible apply State.modPort_keeps
    | with_reducible apply State.settle_keeps
    | with_reducible apply State.portGoesDown_keeps
    | with_reducible apply State.plansAgain_keeps

theorem execDiscSend_keeps {r : State} (n : PortId) {s : State} (h : Keeps r s) : KeepsX r (execDiscSend n s) := by
  unfold execDiscSend
  try dsimp only
  repeat' first
    | with_reducible apply keepsX_next
    | with_reducible apply keepsX_ite
    | with_reducible assumption
    | with_reducible apply State.emit_keeps

theorem execLinkTrainingAttempt_keeps {r : State} (n : PortId) {s : State} (h : Keeps r s) : KeepsX r (execLinkTrainingAttempt n s) := by
  unfold execLinkTrainingAttempt
  try dsimp only
  repeat' first
    | with_reducible apply keepsX_next
    | with_reducible apply keepsX_ite
    | with_reducible assumption
    | with_reducible apply State.modPort_keeps
    | with_reducible apply State.emit_keeps
    | with_reducible apply State.setDN_keeps

theorem execLinkTrained_keeps {r : State} (n : PortId) (f : W256) {s : State} (h : Keeps r s) : KeepsX r (execLinkTrained n f s) := by
  unfold execLinkTrained
  try dsimp only
  repeat' first
    | with_reducible apply keepsX_next
    | with_reducible apply keepsX_ite
    | with_reducible assumption
    | with_reducible apply State.setDN_keeps
    | with_reducible apply State.setPort_keeps
    | with_reducible apply State.modPort_keeps
    | with_reducible apply State.settle_keeps
    | with_reducible apply State.drainPort_keeps
    | with_reducible apply State.plansAgain_keeps
    | with_reducible apply State.portRoles_keeps

theorem execEqualisationUpdate_keeps {r : State} (n : PortId) {s : State} (h : Keeps r s) : KeepsX r (execEqualisationUpdate n s) := by
  unfold execEqualisationUpdate
  try dsimp only
  repeat' first
    | with_reducible apply keepsX_next
    | with_reducible apply keepsX_ite
    | with_reducible assumption
    | with_reducible apply State.incD_keeps

theorem execLaneFailure_keeps {r : State} (n : PortId) (lane : Fin 16) {s : State} (h : Keeps r s) : KeepsX r (execLaneFailure n lane s) := by
  unfold execLaneFailure
  try dsimp only
  repeat' first
    | with_reducible apply keepsX_next
    | with_reducible apply keepsX_ite
    | with_reducible assumption
    | with_reducible apply State.settle_keeps
    | with_reducible apply State.laneFails_keeps

theorem execLane_keeps {r : State} (n : PortId) (f : W256) {s : State} (h : Keeps r s) : KeepsX r (execLane n f s) := by
  unfold execLane
  try dsimp only
  repeat' first
    | with_reducible apply keepsX_next
    | with_reducible apply keepsX_ite
    | with_reducible assumption
    | with_reducible apply State.swapLane_keeps

end Sys2Proof.Machine
end

