-- ==== Sys2Proof/Laws/KeepsG.lean ====
section
/-!
SUPPORT. What each operation keeps (G): one lemma per operation, in the order of use.
-/
namespace Sys2Proof.Machine

theorem execSpareLaneSwapDone_keeps {r : State} (n : PortId) {s : State} (h : Keeps r s) : KeepsX r (execSpareLaneSwapDone n s) := by
  unfold execSpareLaneSwapDone
  try dsimp only
  repeat' first
    | with_reducible apply keepsX_next
    | with_reducible apply keepsX_ite
    | with_reducible assumption
    | with_reducible apply State.drainPort_keeps
    | with_reducible apply State.modPort_keeps

theorem execPacketForward_keeps {r : State} (p : Packet) {s : State} (h : Keeps r s) : KeepsX r (execPacketForward p s) := by
  unfold execPacketForward
  try dsimp only
  repeat' first
    | with_reducible apply keepsX_next
    | with_reducible apply keepsX_ite
    | with_reducible assumption
    | with_reducible apply State.incD_keeps
    | with_reducible apply State.freeBuffer_keeps
    | with_reducible apply State.toPort_keeps
    | (fail_if_no_progress (with_reducible apply keeps_mk))
    | with_reducible apply keeps_ite
    | split

theorem State.mclArrive_keeps {r s : State} (m : MclMsg) (opc : Nat) (f : State → State) (hf : ∀  s, Keeps r s → Keeps r (f  s)) (h : Keeps r s) : KeepsX r (State.mclArrive s m opc f) := by
  unfold State.mclArrive
  try dsimp only
  repeat' first
    | with_reducible apply keepsX_next
    | with_reducible apply keepsX_ite
    | with_reducible apply hf
    | with_reducible assumption
    | with_reducible apply State.mclCmp_keeps
    | with_reducible apply State.settle_keeps

theorem execSnpi_keeps {r : State} (m : MclMsg) {s : State} (h : Keeps r s) : KeepsX r (execSnpi m s) := by
  unfold execSnpi
  try dsimp only
  repeat' first
    | with_reducible apply State.mclArrive_keeps
    | (intro _; try dsimp only)
    | with_reducible assumption
    | with_reducible apply State.notice_keeps
    | with_reducible apply State.mclCmp_keeps

theorem execData_keeps {r : State} (m : MclMsg) {s : State} (h : Keeps r s) : KeepsX r (execData m s) := by
  unfold execData
  try dsimp only
  repeat' first
    | with_reducible apply State.mclArrive_keeps
    | (intro _; try dsimp only)
    | with_reducible assumption
    | with_reducible apply State.mclResponse_keeps

theorem execCmp_keeps {r : State} (m : MclMsg) {s : State} (h : Keeps r s) : KeepsX r (execCmp m s) := by
  unfold execCmp
  try dsimp only
  repeat' first
    | with_reducible apply State.mclArrive_keeps
    | (intro _; try dsimp only)
    | with_reducible assumption
    | with_reducible apply State.mclResponse_keeps

theorem execMclMrd_keeps {r : State} (m : MclMsg) {s : State} (h : Keeps r s) : KeepsX r (execMclMrd m s) := by
  unfold execMclMrd
  try dsimp only
  repeat' first
    | with_reducible apply State.mclArrive_keeps
    | (intro _; try dsimp only)
    | with_reducible assumption
    | with_reducible apply State.mclCmp_keeps
    | with_reducible apply State.mclRefuse_keeps
    | with_reducible apply State.addD_keeps
    | with_reducible apply State.mrdMirror_keeps
    | with_reducible apply State.mrdMemory_keeps
    | with_reducible apply keeps_ite

theorem execMclMwr_keeps {r : State} (m : MclMsg) {s : State} (h : Keeps r s) : KeepsX r (execMclMwr m s) := by
  unfold execMclMwr
  try dsimp only
  repeat' first
    | with_reducible apply State.mclArrive_keeps
    | (intro _; try dsimp only)
    | with_reducible assumption
    | with_reducible apply State.mclCmp_keeps
    | with_reducible apply State.mclRefuse_keeps
    | with_reducible apply State.addD_keeps
    | with_reducible apply State.mirrorWrite_keeps
    | with_reducible apply State.writeMerge_keeps
    | with_reducible apply keeps_ite

theorem execMclMsg_keeps {r : State} (m : MclMsg) {s : State} (h : Keeps r s) : KeepsX r (execMclMsg m s) := by
  unfold execMclMsg
  try dsimp only
  repeat' first
    | with_reducible apply keepsX_next
    | with_reducible apply keepsX_ite
    | with_reducible assumption
    | with_reducible apply State.setDN_keeps
    | with_reducible apply State.settle_keeps
    | with_reducible apply State.mclUp_keeps
    | with_reducible apply State.mclTrainMsg_keeps

theorem execMclRetrain_keeps {r s : State} (h : Keeps r s) : KeepsX r (execMclRetrain s) := by
  unfold execMclRetrain
  try dsimp only
  repeat' first
    | with_reducible apply keepsX_next
    | with_reducible apply keepsX_ite
    | with_reducible assumption
    | with_reducible apply State.settle_keeps
    | with_reducible apply State.mclRetrain_keeps

theorem execMclLaneFailure_keeps {r s : State} (h : Keeps r s) : KeepsX r (execMclLaneFailure s) := by
  unfold execMclLaneFailure
  try dsimp only
  repeat' first
    | with_reducible apply keepsX_next
    | with_reducible apply keepsX_ite
    | with_reducible assumption
    | with_reducible apply State.setDN_keeps
    | with_reducible apply State.settle_keeps
    | with_reducible apply State.mclRetrain_keeps

theorem execMclFlit_keeps {r : State} (hdr : W64) (slots : List W128) (crc : W64) {s : State} (h : Keeps r s) : KeepsX r (execMclFlit hdr slots crc s) := by
  unfold execMclFlit
  try dsimp only
  repeat' first
    | with_reducible apply keepsX_next
    | with_reducible apply keepsX_ite
    | with_reducible assumption
    | with_reducible apply State.incD_keeps
    | with_reducible apply State.settle_keeps
    | with_reducible apply State.mclRetrain_keeps
    | with_reducible apply State.emits_keeps
    | (fail_if_no_progress (with_reducible apply keeps_mk))

theorem execAttestationRequest_keeps {r : State} (m : MclMsg) {s : State} (h : Keeps r s) : KeepsX r (execAttestationRequest m s) := by
  unfold execAttestationRequest
  try dsimp only
  repeat' first
    | with_reducible apply State.mclArrive_keeps
    | (intro _; try dsimp only)
    | (fail_if_no_progress (with_reducible refine keeps_sec ?_ (Fuses.Le.refl _)))
    | with_reducible assumption
    | with_reducible apply State.attestStatus_keeps
    | with_reducible apply keeps_ite

theorem execAttestationReport_keeps {r s : State} (h : Keeps r s) : KeepsX r (execAttestationReport s) := by
  unfold execAttestationReport
  try dsimp only
  repeat' first
    | with_reducible apply keepsX_next
    | with_reducible apply keepsX_ite
    | (fail_if_no_progress (with_reducible refine keeps_sec ?_ (Fuses.Le.refl _)))
    | with_reducible assumption
    | with_reducible apply State.attestStatus_keeps
    | with_reducible apply State.streamWrite_keeps
    | split

theorem execMrd_keeps {r : State} (p : Packet) {s : State} (h : Keeps r s) : KeepsX r (execMrd p s) := by
  unfold execMrd
  try dsimp only
  repeat' first
    | with_reducible apply State.arrive_keeps
    | (intro _; try dsimp only)
    | with_reducible assumption
    | with_reducible apply State.mgtRead_keeps
    | with_reducible apply State.respond_keeps
    | with_reducible apply State.sendErr_keeps
    | with_reducible apply State.unsupported_keeps
    | with_reducible refine keeps_fst (by with_reducible assumption) ?_
    | split

theorem execMwr_keeps {r : State} (p : Packet) {s : State} (h : Keeps r s) : KeepsX r (execMwr p s) := by
  unfold execMwr
  try dsimp only
  repeat' first
    | with_reducible apply State.arrive_keeps
    | (intro _; try dsimp only)
    | with_reducible assumption
    | with_reducible apply State.unsupported_keeps
    | with_reducible apply State.mgtWrite_keeps
    | with_reducible apply State.sendAck_keeps
    | with_reducible apply State.sendErr_keeps
    | with_reducible apply keeps_ite
    | with_reducible refine keeps_fst (by with_reducible assumption) ?_
    | split

theorem execReservationTimeout_keeps {r : State} (p : PartId) (gid : W16) (plane : Fin 8) {s : State} (h : Keeps r s) : KeepsX r (execReservationTimeout p gid plane s) := by
  unfold execReservationTimeout
  try dsimp only
  repeat' first
    | with_reducible apply keepsX_next
    | with_reducible assumption
    | with_reducible apply State.settle_keeps
    | with_reducible apply State.resOutcome_keeps
    | with_reducible apply State.reserved_keeps
    | with_reducible apply keeps_ite
    | (with_reducible apply keeps_foldl; intro _ _ _; try dsimp only)
    | split

theorem execPlanCheckTimeout_keeps {r : State} (p : PartId) {s : State} (h : Keeps r s) : KeepsX r (execPlanCheckTimeout p s) := by
  unfold execPlanCheckTimeout
  try dsimp only
  repeat' first
    | with_reducible apply keepsX_next
    | with_reducible assumption
    | with_reducible apply State.settle_keeps
    | with_reducible apply State.regroup_keeps
    | with_reducible apply State.planDecide_keeps

theorem execInputLow_keeps {r : State} (mv : W16) {s : State} (h : Keeps r s) : KeepsX r (execInputLow mv s) := by
  unfold execInputLow
  try dsimp only
  repeat' first
    | with_reducible apply keepsX_next
    | with_reducible assumption
    | with_reducible apply State.setDN_keeps
    | with_reducible apply State.condition_keeps
    | with_reducible apply keeps_ite

theorem execInputHigh_keeps {r : State} (mv : W16) {s : State} (h : Keeps r s) : KeepsX r (execInputHigh mv s) := by
  unfold execInputHigh
  try dsimp only
  repeat' first
    | with_reducible apply keepsX_next
    | with_reducible assumption
    | with_reducible apply State.setDN_keeps
    | with_reducible apply State.condition_keeps
    | with_reducible apply keeps_ite

theorem execInputInRange_keeps {r : State} (mv : W16) {s : State} (h : Keeps r s) : KeepsX r (execInputInRange mv s) := by
  unfold execInputInRange
  try dsimp only
  repeat' first
    | with_reducible apply keepsX_next
    | with_reducible assumption
    | with_reducible apply State.setDN_keeps
    | with_reducible apply State.condition_keeps
    | with_reducible apply keeps_ite

theorem execReferenceLoss_keeps {r s : State} (h : Keeps r s) : KeepsX r (execReferenceLoss s) := by
  unfold execReferenceLoss
  try dsimp only
  repeat' first
    | with_reducible apply keepsX_next
    | with_reducible assumption
    | with_reducible apply State.condition_keeps
    | with_reducible apply State.modBoard_keeps

theorem execReferenceRestore_keeps {r s : State} (h : Keeps r s) : KeepsX r (execReferenceRestore s) := by
  unfold execReferenceRestore
  try dsimp only
  repeat' first
    | with_reducible apply keepsX_next
    | with_reducible assumption
    | with_reducible apply State.condition_keeps
    | with_reducible apply State.modBoard_keeps

theorem execReferenceLossTimeout_keeps {r s : State} (h : Keeps r s) : KeepsX r (execReferenceLossTimeout s) := by
  unfold execReferenceLossTimeout
  try dsimp only
  repeat' first
    | with_reducible apply keepsX_next
    | with_reducible assumption
    | with_reducible apply State.trip_keeps
    | with_reducible apply keeps_ite

theorem execInletHigh_keeps {r : State} (temp : Int) {s : State} (h : Keeps r s) : KeepsX r (execInletHigh temp s) := by
  unfold execInletHigh
  try dsimp only
  repeat' first
    | with_reducible apply keepsX_next
    | with_reducible assumption
    | with_reducible apply State.setD_keeps
    | with_reducible apply State.condition_keeps
    | with_reducible apply keeps_ite

theorem execInletNormal_keeps {r : State} (temp : Int) {s : State} (h : Keeps r s) : KeepsX r (execInletNormal temp s) := by
  unfold execInletNormal
  try dsimp only
  repeat' first
    | with_reducible apply keepsX_next
    | with_reducible assumption
    | with_reducible apply State.setD_keeps
    | with_reducible apply State.condition_keeps
    | with_reducible apply keeps_ite

theorem execOpTransitionDone_keeps {r : State} (d : District) {s : State} (h : Keeps r s) : KeepsX r (execOpTransitionDone d s) := by
  unfold execOpTransitionDone
  try dsimp only
  repeat' first
    | with_reducible apply keepsX_next
    | with_reducible apply keepsX_ite
    | with_reducible assumption
    | with_reducible apply State.retarget_keeps
    | with_reducible apply State.showVdd_keeps
    | with_reducible apply State.modDist_keeps

theorem execPowerEvaluation_keeps {r : State} (avgW : Nat) (all95 : Bool) {s : State} (h : Keeps r s) : KeepsX r (execPowerEvaluation avgW all95 s) := by
  unfold execPowerEvaluation
  try dsimp only
  repeat' first
    | with_reducible apply keepsX_next
    | with_reducible apply keepsX_ite
    | with_reducible assumption
    | with_reducible apply State.setDN_keeps
    | with_reducible apply State.powerAdvance_keeps
    | with_reducible apply State.powerWithdraw_keeps
    | with_reducible apply State.showThrottle_keeps
    | with_reducible apply State.retargetAll_keeps
    | with_reducible apply keeps_ite

theorem execThermalEvaluation_keeps {r : State} (d : District) (logic : Int) (dram : Int) (logicRel : Bool) (dramRel : Bool) {s : State} (h : Keeps r s) : KeepsX r (execThermalEvaluation d logic dram logicRel dramRel s) := by
  unfold execThermalEvaluation
  try dsimp only
  repeat' first
    | with_reducible apply keepsX_next
    | with_reducible assumption
    | with_reducible apply State.setD_keeps
    | with_reducible apply State.heat_keeps
    | with_reducible apply State.trip_keeps
    | with_reducible apply State.thermalReading_keeps
    | with_reducible apply State.showThrottle_keeps
    | with_reducible apply State.retarget_keeps
    | with_reducible apply keeps_ite

theorem execAvsAdjust_keeps {r : State} (d : District) (m : AvsMargin) {s : State} (h : Keeps r s) : KeepsX r (execAvsAdjust d m s) := by
  unfold execAvsAdjust
  try dsimp only
  repeat' first
    | with_reducible apply keepsX_next
    | with_reducible apply keepsX_ite
    | with_reducible assumption
    | with_reducible apply State.showVdd_keeps
    | with_reducible apply State.modDist_keeps
    | with_reducible apply State.showThrottle_keeps
    | with_reducible apply State.retarget_keeps
    | with_reducible apply State.thermalOp_keeps
    | with_reducible apply keeps_ite
    | split

theorem execDroopStretch_keeps {r : State} (d : District) {s : State} (h : Keeps r s) : KeepsX r (execDroopStretch d s) := by
  unfold execDroopStretch
  try dsimp only
  repeat' first
    | with_reducible apply keepsX_next
    | with_reducible assumption
    | with_reducible apply State.incD_keeps
    | with_reducible apply State.modDist_keeps

theorem execDroopRecovery_keeps {r : State} (d : District) {s : State} (h : Keeps r s) : KeepsX r (execDroopRecovery d s) := by
  unfold execDroopRecovery
  try dsimp only
  repeat' first
    | with_reducible apply keepsX_next
    | with_reducible assumption
    | with_reducible apply State.modDist_keeps

theorem execQuant_keeps {r : State} (sl : Slot) (w : W256) {s : State} (h : Keeps r s) : KeepsX r (execQuant sl w s) := by
  unfold execQuant
  try dsimp only
  repeat' first
    | with_reducible apply State.dispatch_keeps
    | (intro _; try dsimp only)
    | with_reducible assumption
    | with_reducible apply withDesc_keeps
    | with_reducible apply State.quantCmd_keeps

theorem execRestart_keeps {r : State} (p : Packet) {s : State} (h : Keeps r s) : KeepsX r (execRestart p s) := by
  unfold execRestart
  try dsimp only
  repeat' first
    | with_reducible apply State.arrive_keeps
    | (intro _; try dsimp only)
    | with_reducible assumption
    | with_reducible apply State.settle_keeps
    | with_reducible apply State.leadStep_keeps
    | with_reducible apply State.modRestartOf_keeps
    | with_reducible apply State.setDN_keeps
    | with_reducible apply State.sendReplies_keeps
    | with_reducible apply State.memberPhase_keeps
    | with_reducible apply keeps_ite

theorem execCkptStatus_keeps {r : State} (p : Packet) {s : State} (h : Keeps r s) : KeepsX r (execCkptStatus p s) := by
  unfold execCkptStatus
  try dsimp only
  repeat' first
    | with_reducible apply State.arrive_keeps
    | (intro _; try dsimp only)
    | with_reducible assumption
    | with_reducible apply State.settle_keeps
    | with_reducible apply State.leadStep_keeps
    | with_reducible apply State.beginOther_keeps
    | with_reducible apply State.modRestartOf_keeps
    | with_reducible apply keeps_ite

theorem execLease_keeps {r : State} (p : Packet) {s : State} (h : Keeps r s) : KeepsX r (execLease p s) := by
  unfold execLease
  try dsimp only
  repeat' first
    | with_reducible apply State.arrive_keeps
    | (intro _; try dsimp only)
    | with_reducible assumption
    | with_reducible apply State.modLead_keeps
    | with_reducible apply State.setDN_keeps
    | with_reducible apply State.sendMsg_keeps
    | with_reducible apply State.sendReplies_keeps
    | with_reducible apply State.memberPhase_keeps
    | with_reducible apply State.settle_keeps
    | with_reducible apply keeps_ite
    | (with_reducible apply keeps_foldl; intro _ _ _; try dsimp only)

theorem execLeaseSend_keeps {r s : State} (h : Keeps r s) : KeepsX r (execLeaseSend s) := by
  unfold execLeaseSend
  try dsimp only
  repeat' first
    | with_reducible apply keepsX_next
    | with_reducible apply keepsX_ite
    | with_reducible assumption
    | with_reducible apply State.modLead_keeps
    | with_reducible apply State.settle_keeps
    | with_reducible apply State.setDN_keeps
    | with_reducible apply State.newState_keeps
    | with_reducible apply State.replicate_keeps
    | with_reducible apply State.leadStep_keeps
    | with_reducible apply State.sendLease_keeps
    | with_reducible apply keeps_ite

theorem execLeaseAck_keeps {r : State} (p : Packet) {s : State} (h : Keeps r s) : KeepsX r (execLeaseAck p s) := by
  unfold execLeaseAck
  try dsimp only
  repeat' first
    | with_reducible apply State.arrive_keeps
    | (intro _; try dsimp only)
    | with_reducible assumption
    | with_reducible apply State.settle_keeps
    | with_reducible apply State.newState_keeps
    | with_reducible apply State.modLead_keeps
    | with_reducible apply keeps_ite

theorem execRepl_keeps {r : State} (p : Packet) {s : State} (h : Keeps r s) : KeepsX r (execRepl p s) := by
  unfold execRepl
  try dsimp only
  repeat' first
    | with_reducible apply State.arrive_keeps
    | (intro _; try dsimp only)
    | with_reducible assumption
    | with_reducible apply State.modLead_keeps
    | with_reducible apply State.setDN_keeps
    | with_reducible apply State.sendMsg_keeps
    | with_reducible apply State.dropReplica_keeps
    | with_reducible apply keeps_ite

theorem execReplAck_keeps {r : State} (p : Packet) {s : State} (h : Keeps r s) : KeepsX r (execReplAck p s) := by
  unfold execReplAck
  try dsimp only
  repeat' first
    | with_reducible apply State.arrive_keeps
    | (intro _; try dsimp only)
    | with_reducible assumption
    | with_reducible apply State.settle_keeps
    | with_reducible apply State.actOn_keeps
    | with_reducible apply State.modLead_keeps
    | with_reducible apply keeps_ite

theorem execLeaseLapse_keeps {r s : State} (h : Keeps r s) : KeepsX r (execLeaseLapse s) := by
  unfold execLeaseLapse
  try dsimp only
  repeat' first
    | with_reducible apply keepsX_next
    | with_reducible apply keepsX_ite
    | with_reducible assumption
    | with_reducible apply State.settle_keeps
    | with_reducible apply State.startTerm_keeps
    | with_reducible apply State.setDN_keeps
    | with_reducible apply State.dropReplica_keeps

theorem execLeaderAckExpiry_keeps {r s : State} (h : Keeps r s) : KeepsX r (execLeaderAckExpiry s) := by
  unfold execLeaderAckExpiry
  try dsimp only
  repeat' first
    | with_reducible apply keepsX_next
    | with_reducible apply keepsX_ite
    | with_reducible assumption
    | with_reducible apply State.setDN_keeps

theorem execSfWatchdogExpiry_keeps {r : State} (unhealthy : Bool) {s : State} (h : Keeps r s) : KeepsX r (execSfWatchdogExpiry unhealthy s) := by
  unfold execSfWatchdogExpiry
  try dsimp only
  repeat' first
    | with_reducible apply keepsX_next
    | with_reducible apply keepsX_ite
    | with_reducible assumption
    | with_reducible apply State.setDN_keeps
    | with_reducible apply State.incD_keeps
    | with_reducible apply State.modLead_keeps
    | with_reducible apply State.voidPart_keeps
    | with_reducible apply State.settle_keeps
    | with_reducible apply State.abandonCopies_keeps
    | (with_reducible apply keeps_foldl; intro _ _ _; try dsimp only)

theorem execStwrite_keeps {r : State} (sl : Slot) (w : W256) {s : State} (h : Keeps r s) : KeepsX r (execStwrite sl w s) := by
  unfold execStwrite
  try dsimp only
  repeat' first
    | with_reducible apply State.dispatch_keeps
    | (intro _; try dsimp only)
    | with_reducible assumption
    | with_reducible apply State.enter_keeps
    | with_reducible apply State.stwriteCmd_keeps

theorem execStread_keeps {r : State} (sl : Slot) (w : W256) {s : State} (h : Keeps r s) : KeepsX r (execStread sl w s) := by
  unfold execStread
  try dsimp only
  repeat' first
    | with_reducible apply State.dispatch_keeps
    | (intro _; try dsimp only)
    | with_reducible assumption
    | with_reducible apply State.enter_keeps
    | with_reducible apply State.streadCmd_keeps

theorem execStpref_keeps {r : State} (sl : Slot) (w : W256) {s : State} (h : Keeps r s) : KeepsX r (execStpref sl w s) := by
  unfold execStpref
  try dsimp only
  repeat' first
    | with_reducible apply State.dispatch_keeps
    | (intro _; try dsimp only)
    | with_reducible assumption
    | with_reducible apply State.stWait_keeps
    | with_reducible apply State.modStash_keeps

theorem execStpin_keeps {r : State} (sl : Slot) (w : W256) {s : State} (h : Keeps r s) : KeepsX r (execStpin sl w s) := by
  unfold execStpin
  try dsimp only
  repeat' first
    | with_reducible apply State.dispatch_keeps
    | (intro _; try dsimp only)
    | with_reducible assumption
    | with_reducible apply State.done_keeps
    | with_reducible apply State.modStash_keeps
    | with_reducible apply keeps_ite

theorem execStunpin_keeps {r : State} (sl : Slot) (w : W256) {s : State} (h : Keeps r s) : KeepsX r (execStunpin sl w s) := by
  unfold execStunpin
  try dsimp only
  repeat' first
    | with_reducible apply State.dispatch_keeps
    | (intro _; try dsimp only)
    | with_reducible assumption
    | with_reducible apply State.done_keeps
    | with_reducible apply State.stServe_keeps
    | with_reducible apply State.modStash_keeps
    | with_reducible apply keeps_ite
    | split

theorem execStfree_keeps {r : State} (sl : Slot) (w : W256) {s : State} (h : Keeps r s) : KeepsX r (execStfree sl w s) := by
  unfold execStfree
  try dsimp only
  repeat' first
    | with_reducible apply State.dispatch_keeps
    | (intro _; try dsimp only)
    | with_reducible assumption
    | with_reducible apply State.done_keeps
    | with_reducible apply State.stServe_keeps
    | with_reducible apply State.modStash_keeps
    | with_reducible apply keeps_ite

theorem execStashSpill_keeps {r : State} (c : CoreId) {s : State} (h : Keeps r s) : KeepsX r (execStashSpill c s) := by
  unfold execStashSpill
  try dsimp only
  repeat' first
    | with_reducible apply keepsX_next
    | with_reducible apply keepsX_ite
    | with_reducible assumption
    | with_reducible apply State.settle_keeps
    | with_reducible apply State.stRefused_keeps
    | with_reducible apply State.refuse_keeps
    | with_reducible apply State.modStash_keeps
    | split

theorem execSpillDone_keeps {r : State} (c : CoreId) (layer : BitVec 12) (entry : W16) {s : State} (h : Keeps r s) : KeepsX r (execSpillDone c layer entry s) := by
  unfold execSpillDone
  try dsimp only
  repeat' first
    | with_reducible apply keepsX_next
    | with_reducible apply keepsX_ite
    | with_reducible assumption
    | with_reducible apply State.move_keeps_st
    | with_reducible apply State.settle_keeps
    | with_reducible apply State.stRefused_keeps
    | with_reducible apply State.modStash_keeps
    | with_reducible apply State.stServe_keeps
    | split

theorem execRefillDone_keeps {r : State} (c : CoreId) (layer : BitVec 12) (entry : W16) {s : State} (h : Keeps r s) : KeepsX r (execRefillDone c layer entry s) := by
  unfold execRefillDone
  try dsimp only
  repeat' first
    | with_reducible apply keepsX_next
    | with_reducible apply keepsX_ite
    | with_reducible assumption
    | with_reducible apply State.move_keeps_st
    | with_reducible apply State.partFault_keeps
    | with_reducible apply State.settle_keeps
    | with_reducible apply State.stServe_keeps
    | with_reducible apply State.modStash_keeps
    | split

theorem execRq_keeps {r : State} (sl : Slot) (w : W256) {s : State} (h : Keeps r s) : KeepsX r (execRq sl w s) := by
  unfold execRq
  try dsimp only
  repeat' first
    | with_reducible apply State.dispatch_keeps
    | (intro _; try dsimp only)
    | with_reducible assumption
    | with_reducible apply withDesc_keeps
    | with_reducible apply State.enter_keeps
    | with_reducible apply State.rqCmd_keeps

theorem execCommandComplete_keeps {r : State} (c : CoreId) (x : CtxId) (id : Nat) {s : State} (h : Keeps r s) : KeepsX r (execCommandComplete c x id s) := by
  unfold execCommandComplete
  try dsimp only
  repeat' first
    | with_reducible apply keepsX_next
    | with_reducible assumption
    | with_reducible apply State.settle_keeps
    | with_reducible apply State.stServeAny_keeps
    | with_reducible apply State.finish_keeps
    | with_reducible apply State.writeEnds_keeps
    | split

theorem execSyncWatchdogExpiry_keeps {r : State} (c : CoreId) (st : StreamId) {s : State} (h : Keeps r s) : KeepsX r (execSyncWatchdogExpiry c st s) := by
  unfold execSyncWatchdogExpiry
  try dsimp only
  repeat' first
    | with_reducible apply keepsX_next
    | with_reducible apply keepsX_ite
    | with_reducible assumption
    | with_reducible apply State.modStream_keeps
    | with_reducible apply State.incD_keeps
    | with_reducible apply State.raiseCtx_keeps
    | with_reducible apply State.syncDump_keeps
    | with_reducible apply State.settle_keeps
    | with_reducible apply keeps_ite
    | split

theorem execTensor_keeps {r : State} (sl : Slot) (w : W256) {s : State} (h : Keeps r s) : KeepsX r (execTensor sl w s) := by
  unfold execTensor
  try dsimp only
  repeat' first
    | with_reducible apply State.dispatch_keeps
    | (intro _; try dsimp only)
    | with_reducible assumption
    | with_reducible apply withDesc_keeps
    | with_reducible apply State.tensorCmd_keeps

theorem execCopy_keeps {r : State} (sl : Slot) (w : W256) {s : State} (h : Keeps r s) : KeepsX r (execCopy sl w s) := by
  unfold execCopy
  try dsimp only
  repeat' first
    | with_reducible apply State.dispatch_keeps
    | (intro _; try dsimp only)
    | with_reducible assumption
    | with_reducible apply xStart_keeps

theorem execPut_keeps {r : State} (sl : Slot) (w : W256) {s : State} (h : Keeps r s) : KeepsX r (execPut sl w s) := by
  unfold execPut
  try dsimp only
  repeat' first
    | with_reducible apply State.dispatch_keeps
    | (intro _; try dsimp only)
    | with_reducible assumption
    | with_reducible apply xStart_keeps

theorem execGet_keeps {r : State} (sl : Slot) (w : W256) {s : State} (h : Keeps r s) : KeepsX r (execGet sl w s) := by
  unfold execGet
  try dsimp only
  repeat' first
    | with_reducible apply State.dispatch_keeps
    | (intro _; try dsimp only)
    | with_reducible assumption
    | with_reducible apply xStart_keeps

theorem execPutsig_keeps {r : State} (sl : Slot) (w : W256) {s : State} (h : Keeps r s) : KeepsX r (execPutsig sl w s) := by
  unfold execPutsig
  try dsimp only
  repeat' first
    | with_reducible apply State.dispatch_keeps
    | (intro _; try dsimp only)
    | with_reducible assumption
    | with_reducible apply xStart_keeps

theorem execFill_keeps {r : State} (sl : Slot) (w : W256) {s : State} (h : Keeps r s) : KeepsX r (execFill sl w s) := by
  unfold execFill
  try dsimp only
  repeat' first
    | with_reducible apply State.dispatch_keeps
    | (intro _; try dsimp only)
    | with_reducible assumption
    | with_reducible apply xStart_keeps

theorem execXd_keeps {r : State} (sl : Slot) (w : W256) {s : State} (h : Keeps r s) : KeepsX r (execXd sl w s) := by
  unfold execXd
  try dsimp only
  repeat' first
    | with_reducible apply State.dispatch_keeps
    | (intro _; try dsimp only)
    | with_reducible assumption
    | with_reducible apply withDesc_keeps
    | with_reducible apply State.enter_keeps
    | with_reducible apply State.xdCmd_keeps

theorem execFence_keeps {r : State} (sl : Slot) (w : W256) {s : State} (h : Keeps r s) : KeepsX r (execFence sl w s) := by
  unfold execFence
  try dsimp only
  repeat' first
    | with_reducible apply State.dispatch_keeps
    | (intro _; try dsimp only)
    | with_reducible assumption
    | with_reducible apply State.modCtx_keeps

theorem execPuti_keeps {r : State} (sl : Slot) (w : W256) {s : State} (h : Keeps r s) : KeepsX r (execPuti sl w s) := by
  unfold execPuti
  try dsimp only
  repeat' first
    | with_reducible apply State.dispatch_keeps
    | (intro _; try dsimp only)
    | with_reducible assumption
    | with_reducible apply State.enter_keeps
    | with_reducible apply State.putiCmd_keeps

theorem execSignal_keeps {r : State} (sl : Slot) (w : W256) {s : State} (h : Keeps r s) : KeepsX r (execSignal sl w s) := by
  unfold execSignal
  try dsimp only
  repeat' first
    | with_reducible apply State.dispatch_keeps
    | (intro _; try dsimp only)
    | with_reducible assumption
    | with_reducible apply State.enter_keeps
    | with_reducible apply State.signalCmd_keeps

theorem execSyncadd_keeps {r : State} (sl : Slot) (w : W256) {s : State} (h : Keeps r s) : KeepsX r (execSyncadd sl w s) := by
  unfold execSyncadd
  try dsimp only
  repeat' first
    | with_reducible apply State.dispatch_keeps
    | (intro _; try dsimp only)
    | with_reducible assumption
    | with_reducible apply State.enter_keeps
    | with_reducible apply State.syncaddCmd_keeps

theorem execSyncset_keeps {r : State} (sl : Slot) (w : W256) {s : State} (h : Keeps r s) : KeepsX r (execSyncset sl w s) := by
  unfold execSyncset
  try dsimp only
  repeat' first
    | with_reducible apply State.dispatch_keeps
    | (intro _; try dsimp only)
    | with_reducible assumption
    | with_reducible apply State.enter_keeps
    | with_reducible apply State.syncsetCmd_keeps

theorem execSyncsetClaim_keeps {r : State} (sl : Slot) (w : W256) {s : State} (h : Keeps r s) : KeepsX r (execSyncsetClaim sl w s) := by
  unfold execSyncsetClaim
  try dsimp only
  repeat' first
    | with_reducible apply State.dispatch_keeps
    | (intro _; try dsimp only)
    | with_reducible assumption
    | with_reducible apply State.enter_keeps
    | with_reducible apply State.syncsetCmd_keeps

theorem execSyncsetRelease_keeps {r : State} (sl : Slot) (w : W256) {s : State} (h : Keeps r s) : KeepsX r (execSyncsetRelease sl w s) := by
  unfold execSyncsetRelease
  try dsimp only
  repeat' first
    | with_reducible apply State.dispatch_keeps
    | (intro _; try dsimp only)
    | with_reducible assumption
    | with_reducible apply State.enter_keeps
    | with_reducible apply State.syncsetCmd_keeps

theorem execSyncread_keeps {r : State} (sl : Slot) (w : W256) {s : State} (h : Keeps r s) : KeepsX r (execSyncread sl w s) := by
  unfold execSyncread
  try dsimp only
  repeat' first
    | with_reducible apply State.dispatch_keeps
    | (intro _; try dsimp only)
    | with_reducible assumption
    | with_reducible apply State.enter_keeps
    | with_reducible apply State.syncreadCmd_keeps

theorem execSyncdump_keeps {r : State} (sl : Slot) (w : W256) {s : State} (h : Keeps r s) : KeepsX r (execSyncdump sl w s) := by
  unfold execSyncdump
  try dsimp only
  repeat' first
    | with_reducible apply State.dispatch_keeps
    | (intro _; try dsimp only)
    | with_reducible assumption
    | with_reducible apply withDesc_keeps
    | with_reducible apply State.sdRsv_keeps
    | with_reducible apply State.done_keeps
    | with_reducible apply State.work_keeps
    | with_reducible apply State.syncDump_keeps
    | with_reducible apply keeps_ite

theorem execVec_keeps {r : State} (sl : Slot) (w : W256) {s : State} (h : Keeps r s) : KeepsX r (execVec sl w s) := by
  unfold execVec
  try dsimp only
  repeat' first
    | with_reducible apply State.dispatch_keeps
    | (intro _; try dsimp only)
    | with_reducible assumption
    | with_reducible apply withDesc_keeps
    | with_reducible apply vecCmd_keeps

theorem execUpdate_keeps {r : State} (sl : Slot) (w : W256) {s : State} (h : Keeps r s) : KeepsX r (execUpdate sl w s) := by
  unfold execUpdate
  try dsimp only
  repeat' first
    | with_reducible apply State.dispatch_keeps
    | (intro _; try dsimp only)
    | with_reducible assumption
    | with_reducible apply withDesc_keeps
    | with_reducible apply updateCmd_keeps

theorem execKTile_keeps {r : State} (c : CoreId) (x : CtxId) {s : State} (h : Keeps r s) : KeepsX r (execKTile c x s) := by
  unfold execKTile
  try dsimp only
  repeat' first
    | with_reducible apply keepsX_next
    | with_reducible assumption
    | with_reducible apply State.vecPump_keeps
    | with_reducible apply State.kTileGo_keeps

theorem execFinishedTileQueueEntry_keeps {r : State} (c : CoreId) (x : CtxId) {s : State} (h : Keeps r s) : KeepsX r (execFinishedTileQueueEntry c x s) := by
  unfold execFinishedTileQueueEntry
  try dsimp only
  repeat' first
    | with_reducible apply keepsX_next
    | with_reducible assumption
    | with_reducible apply State.vecPump_keeps
    | with_reducible apply State.ftqEntry_keeps

theorem execFillerAdmit_keeps {r : State} (c : CoreId) {s : State} (h : Keeps r s) : KeepsX r (execFillerAdmit c s) := by
  unfold execFillerAdmit
  try dsimp only
  repeat' first
    | with_reducible apply keepsX_next
    | with_reducible apply keepsX_ite
    | with_reducible assumption
    | with_reducible apply State.vecPump_keeps
    | with_reducible apply State.resumeFiller_keeps
    | with_reducible apply State.modCore_keeps

theorem execVectorNop_keeps {r : State} (c : CoreId) (x : CtxId) (w : W32) {s : State} (h : Keeps r s) : KeepsX r (execVectorNop c x w s) := by
  unfold execVectorNop
  try dsimp only
  repeat' first
    | with_reducible apply keepsX_next
    | with_reducible assumption
    | with_reducible apply State.elemGo_keeps

theorem execMov_keeps {r : State} (c : CoreId) (x : CtxId) (w : W32) {s : State} (h : Keeps r s) : KeepsX r (execMov c x w s) := by
  unfold execMov
  try dsimp only
  repeat' first
    | with_reducible apply keepsX_next
    | with_reducible assumption
    | with_reducible apply State.elemGo_keeps

theorem execAdd_keeps {r : State} (c : CoreId) (x : CtxId) (w : W32) {s : State} (h : Keeps r s) : KeepsX r (execAdd c x w s) := by
  unfold execAdd
  try dsimp only
  repeat' first
    | with_reducible apply keepsX_next
    | with_reducible assumption
    | with_reducible apply State.elemGo_keeps

theorem execSub_keeps {r : State} (c : CoreId) (x : CtxId) (w : W32) {s : State} (h : Keeps r s) : KeepsX r (execSub c x w s) := by
  unfold execSub
  try dsimp only
  repeat' first
    | with_reducible apply keepsX_next
    | with_reducible assumption
    | with_reducible apply State.elemGo_keeps

theorem execMul_keeps {r : State} (c : CoreId) (x : CtxId) (w : W32) {s : State} (h : Keeps r s) : KeepsX r (execMul c x w s) := by
  unfold execMul
  try dsimp only
  repeat' first
    | with_reducible apply keepsX_next
    | with_reducible assumption
    | with_reducible apply State.elemGo_keeps

theorem execFma_keeps {r : State} (c : CoreId) (x : CtxId) (w : W32) {s : State} (h : Keeps r s) : KeepsX r (execFma c x w s) := by
  unfold execFma
  try dsimp only
  repeat' first
    | with_reducible apply keepsX_next
    | with_reducible assumption
    | with_reducible apply State.elemGo_keeps

theorem execFnma_keeps {r : State} (c : CoreId) (x : CtxId) (w : W32) {s : State} (h : Keeps r s) : KeepsX r (execFnma c x w s) := by
  unfold execFnma
  try dsimp only
  repeat' first
    | with_reducible apply keepsX_next
    | with_reducible assumption
    | with_reducible apply State.elemGo_keeps

theorem execDiv_keeps {r : State} (c : CoreId) (x : CtxId) (w : W32) {s : State} (h : Keeps r s) : KeepsX r (execDiv c x w s) := by
  unfold execDiv
  try dsimp only
  repeat' first
    | with_reducible apply keepsX_next
    | with_reducible assumption
    | with_reducible apply State.elemGo_keeps

theorem execSqrt_keeps {r : State} (c : CoreId) (x : CtxId) (w : W32) {s : State} (h : Keeps r s) : KeepsX r (execSqrt c x w s) := by
  unfold execSqrt
  try dsimp only
  repeat' first
    | with_reducible apply keepsX_next
    | with_reducible assumption
    | with_reducible apply State.elemGo_keeps

theorem execMax_keeps {r : State} (c : CoreId) (x : CtxId) (w : W32) {s : State} (h : Keeps r s) : KeepsX r (execMax c x w s) := by
  unfold execMax
  try dsimp only
  repeat' first
    | with_reducible apply keepsX_next
    | with_reducible assumption
    | with_reducible apply State.elemGo_keeps

theorem execMin_keeps {r : State} (c : CoreId) (x : CtxId) (w : W32) {s : State} (h : Keeps r s) : KeepsX r (execMin c x w s) := by
  unfold execMin
  try dsimp only
  repeat' first
    | with_reducible apply keepsX_next
    | with_reducible assumption
    | with_reducible apply State.elemGo_keeps

theorem execAbs_keeps {r : State} (c : CoreId) (x : CtxId) (w : W32) {s : State} (h : Keeps r s) : KeepsX r (execAbs c x w s) := by
  unfold execAbs
  try dsimp only
  repeat' first
    | with_reducible apply keepsX_next
    | with_reducible assumption
    | with_reducible apply State.elemGo_keeps

theorem execNeg_keeps {r : State} (c : CoreId) (x : CtxId) (w : W32) {s : State} (h : Keeps r s) : KeepsX r (execNeg c x w s) := by
  unfold execNeg
  try dsimp only
  repeat' first
    | with_reducible apply keepsX_next
    | with_reducible assumption
    | with_reducible apply State.elemGo_keeps

theorem execSel_keeps {r : State} (c : CoreId) (x : CtxId) (w : W32) {s : State} (h : Keeps r s) : KeepsX r (execSel c x w s) := by
  unfold execSel
  try dsimp only
  repeat' first
    | with_reducible apply keepsX_next
    | with_reducible assumption
    | with_reducible apply State.elemGo_keeps

theorem execRndi_keeps {r : State} (c : CoreId) (x : CtxId) (w : W32) {s : State} (h : Keeps r s) : KeepsX r (execRndi c x w s) := by
  unfold execRndi
  try dsimp only
  repeat' first
    | with_reducible apply keepsX_next
    | with_reducible assumption
    | with_reducible apply State.elemGo_keeps

theorem execXadd_keeps {r : State} (c : CoreId) (x : CtxId) (w : W32) {s : State} (h : Keeps r s) : KeepsX r (execXadd c x w s) := by
  unfold execXadd
  try dsimp only
  repeat' first
    | with_reducible apply keepsX_next
    | with_reducible assumption
    | with_reducible apply State.elemGo_keeps

theorem execExp2_keeps {r : State} (c : CoreId) (x : CtxId) (w : W32) {s : State} (h : Keeps r s) : KeepsX r (execExp2 c x w s) := by
  unfold execExp2
  try dsimp only
  repeat' first
    | with_reducible apply keepsX_next
    | with_reducible assumption
    | with_reducible apply State.elemGo_keeps

theorem execLog2_keeps {r : State} (c : CoreId) (x : CtxId) (w : W32) {s : State} (h : Keeps r s) : KeepsX r (execLog2 c x w s) := by
  unfold execLog2
  try dsimp only
  repeat' first
    | with_reducible apply keepsX_next
    | with_reducible assumption
    | with_reducible apply State.elemGo_keeps

theorem execRsqrt_keeps {r : State} (c : CoreId) (x : CtxId) (w : W32) {s : State} (h : Keeps r s) : KeepsX r (execRsqrt c x w s) := by
  unfold execRsqrt
  try dsimp only
  repeat' first
    | with_reducible apply keepsX_next
    | with_reducible assumption
    | with_reducible apply State.elemGo_keeps

theorem execSigm_keeps {r : State} (c : CoreId) (x : CtxId) (w : W32) {s : State} (h : Keeps r s) : KeepsX r (execSigm c x w s) := by
  unfold execSigm
  try dsimp only
  repeat' first
    | with_reducible apply keepsX_next
    | with_reducible assumption
    | with_reducible apply State.elemGo_keeps

theorem execTanh_keeps {r : State} (c : CoreId) (x : CtxId) (w : W32) {s : State} (h : Keeps r s) : KeepsX r (execTanh c x w s) := by
  unfold execTanh
  try dsimp only
  repeat' first
    | with_reducible apply keepsX_next
    | with_reducible assumption
    | with_reducible apply State.elemGo_keeps

theorem execCmpeq_keeps {r : State} (c : CoreId) (x : CtxId) (w : W32) {s : State} (h : Keeps r s) : KeepsX r (execCmpeq c x w s) := by
  unfold execCmpeq
  try dsimp only
  repeat' first
    | with_reducible apply keepsX_next
    | with_reducible assumption
    | with_reducible apply State.elemGo_keeps

theorem execCmpne_keeps {r : State} (c : CoreId) (x : CtxId) (w : W32) {s : State} (h : Keeps r s) : KeepsX r (execCmpne c x w s) := by
  unfold execCmpne
  try dsimp only
  repeat' first
    | with_reducible apply keepsX_next
    | with_reducible assumption
    | with_reducible apply State.elemGo_keeps

theorem execCmplt_keeps {r : State} (c : CoreId) (x : CtxId) (w : W32) {s : State} (h : Keeps r s) : KeepsX r (execCmplt c x w s) := by
  unfold execCmplt
  try dsimp only
  repeat' first
    | with_reducible apply keepsX_next
    | with_reducible assumption
    | with_reducible apply State.elemGo_keeps

theorem execCmple_keeps {r : State} (c : CoreId) (x : CtxId) (w : W32) {s : State} (h : Keeps r s) : KeepsX r (execCmple c x w s) := by
  unfold execCmple
  try dsimp only
  repeat' first
    | with_reducible apply keepsX_next
    | with_reducible assumption
    | with_reducible apply State.elemGo_keeps

theorem execCmpun_keeps {r : State} (c : CoreId) (x : CtxId) (w : W32) {s : State} (h : Keeps r s) : KeepsX r (execCmpun c x w s) := by
  unfold execCmpun
  try dsimp only
  repeat' first
    | with_reducible apply keepsX_next
    | with_reducible assumption
    | with_reducible apply State.elemGo_keeps

theorem execIdxc_keeps {r : State} (c : CoreId) (x : CtxId) (w : W32) {s : State} (h : Keeps r s) : KeepsX r (execIdxc c x w s) := by
  unfold execIdxc
  try dsimp only
  repeat' first
    | with_reducible apply keepsX_next
    | with_reducible assumption
    | with_reducible apply State.elemGo_keeps

theorem execIdxr_keeps {r : State} (c : CoreId) (x : CtxId) (w : W32) {s : State} (h : Keeps r s) : KeepsX r (execIdxr c x w s) := by
  unfold execIdxr
  try dsimp only
  repeat' first
    | with_reducible apply keepsX_next
    | with_reducible assumption
    | with_reducible apply State.elemGo_keeps

theorem execLd_keeps {r : State} (c : CoreId) (x : CtxId) (w : W32) {s : State} (h : Keeps r s) : KeepsX r (execLd c x w s) := by
  unfold execLd
  try dsimp only
  repeat' first
    | with_reducible apply keepsX_next
    | with_reducible assumption
    | with_reducible apply State.elemGo_keeps

theorem execSt_keeps {r : State} (c : CoreId) (x : CtxId) (w : W32) {s : State} (h : Keeps r s) : KeepsX r (execSt c x w s) := by
  unfold execSt
  try dsimp only
  repeat' first
    | with_reducible apply keepsX_next
    | with_reducible assumption
    | with_reducible apply State.elemGo_keeps

theorem execRsum_keeps {r : State} (c : CoreId) (x : CtxId) (w : W32) {s : State} (h : Keeps r s) : KeepsX r (execRsum c x w s) := by
  unfold execRsum
  try dsimp only
  repeat' first
    | with_reducible apply keepsX_next
    | with_reducible assumption
    | with_reducible apply State.elemGo_keeps

theorem execRssq_keeps {r : State} (c : CoreId) (x : CtxId) (w : W32) {s : State} (h : Keeps r s) : KeepsX r (execRssq c x w s) := by
  unfold execRssq
  try dsimp only
  repeat' first
    | with_reducible apply keepsX_next
    | with_reducible assumption
    | with_reducible apply State.elemGo_keeps

theorem execRmax_keeps {r : State} (c : CoreId) (x : CtxId) (w : W32) {s : State} (h : Keeps r s) : KeepsX r (execRmax c x w s) := by
  unfold execRmax
  try dsimp only
  repeat' first
    | with_reducible apply keepsX_next
    | with_reducible assumption
    | with_reducible apply State.elemGo_keeps

theorem execRmin_keeps {r : State} (c : CoreId) (x : CtxId) (w : W32) {s : State} (h : Keeps r s) : KeepsX r (execRmin c x w s) := by
  unfold execRmin
  try dsimp only
  repeat' first
    | with_reducible apply keepsX_next
    | with_reducible assumption
    | with_reducible apply State.elemGo_keeps

theorem execRamax_keeps {r : State} (c : CoreId) (x : CtxId) (w : W32) {s : State} (h : Keeps r s) : KeepsX r (execRamax c x w s) := by
  unfold execRamax
  try dsimp only
  repeat' first
    | with_reducible apply keepsX_next
    | with_reducible assumption
    | with_reducible apply State.elemGo_keeps

theorem execRargmax_keeps {r : State} (c : CoreId) (x : CtxId) (w : W32) {s : State} (h : Keeps r s) : KeepsX r (execRargmax c x w s) := by
  unfold execRargmax
  try dsimp only
  repeat' first
    | with_reducible apply keepsX_next
    | with_reducible assumption
    | with_reducible apply State.elemGo_keeps

theorem execRargmin_keeps {r : State} (c : CoreId) (x : CtxId) (w : W32) {s : State} (h : Keeps r s) : KeepsX r (execRargmin c x w s) := by
  unfold execRargmin
  try dsimp only
  repeat' first
    | with_reducible apply keepsX_next
    | with_reducible assumption
    | with_reducible apply State.elemGo_keeps

theorem execRmean_keeps {r : State} (c : CoreId) (x : CtxId) (w : W32) {s : State} (h : Keeps r s) : KeepsX r (execRmean c x w s) := by
  unfold execRmean
  try dsimp only
  repeat' first
    | with_reducible apply keepsX_next
    | with_reducible assumption
    | with_reducible apply State.elemGo_keeps

theorem execRcnt_keeps {r : State} (c : CoreId) (x : CtxId) (w : W32) {s : State} (h : Keeps r s) : KeepsX r (execRcnt c x w s) := by
  unfold execRcnt
  try dsimp only
  repeat' first
    | with_reducible apply keepsX_next
    | with_reducible assumption
    | with_reducible apply State.elemGo_keeps

theorem execStadd_keeps {r : State} (c : CoreId) (x : CtxId) (w : W32) {s : State} (h : Keeps r s) : KeepsX r (execStadd c x w s) := by
  unfold execStadd
  try dsimp only
  repeat' first
    | with_reducible apply keepsX_next
    | with_reducible assumption
    | with_reducible apply State.elemGo_keeps

theorem execStmax_keeps {r : State} (c : CoreId) (x : CtxId) (w : W32) {s : State} (h : Keeps r s) : KeepsX r (execStmax c x w s) := by
  unfold execStmax
  try dsimp only
  repeat' first
    | with_reducible apply keepsX_next
    | with_reducible assumption
    | with_reducible apply State.elemGo_keeps

end Sys2Proof.Machine
end

