-- ==== Sys2Proof/Laws/KeepsH.lean ====
section
/-!
SUPPORT. What every command and every step keeps.
-/
namespace Sys2Proof.Machine

/-- Every command keeps what `Keeps` says. -/
theorem exec_keeps (i : Instr) (s : State) : KeepsX s (exec i s) :=
  match i with
  | .nop _ _ => execNop_keeps _ _ (Keeps.refl s)
  | .tokset _ _ => execTokset_keeps _ _ (Keeps.refl s)
  | .tokadd _ _ => execTokadd_keeps _ _ (Keeps.refl s)
  | .cset _ _ => execCset_keeps _ _ (Keeps.refl s)
  | .cadd _ _ => execCadd_keeps _ _ (Keeps.refl s)
  | .loop _ _ => execLoop_keeps _ _ (Keeps.refl s)
  | .drain _ _ => execDrain_keeps _ _ (Keeps.refl s)
  | .halt _ _ => execHalt_keeps _ _ (Keeps.refl s)
  | .phase _ _ => execPhase_keeps _ _ (Keeps.refl s)
  | .mark _ _ => execMark_keeps _ _ (Keeps.refl s)
  | .notify _ _ => execNotify_keeps _ _ (Keeps.refl s)
  | .defer _ _ => execDefer_keeps _ _ (Keeps.refl s)
  | .stepcommit _ _ => execStepcommit_keeps _ _ (Keeps.refl s)
  | .tensor _ _ => execTensor_keeps _ _ (Keeps.refl s)
  | .quant _ _ => execQuant_keeps _ _ (Keeps.refl s)
  | .rq _ _ => execRq_keeps _ _ (Keeps.refl s)
  | .vec _ _ => execVec_keeps _ _ (Keeps.refl s)
  | .update _ _ => execUpdate_keeps _ _ (Keeps.refl s)
  | .coll _ _ => execColl_keeps _ _ (Keeps.refl s)
  | .xd _ _ => execXd_keeps _ _ (Keeps.refl s)
  | .syncdump _ _ => execSyncdump_keeps _ _ (Keeps.refl s)
  | .copy _ _ => execCopy_keeps _ _ (Keeps.refl s)
  | .put _ _ => execPut_keeps _ _ (Keeps.refl s)
  | .get _ _ => execGet_keeps _ _ (Keeps.refl s)
  | .putsig _ _ => execPutsig_keeps _ _ (Keeps.refl s)
  | .fill _ _ => execFill_keeps _ _ (Keeps.refl s)
  | .fence _ _ => execFence_keeps _ _ (Keeps.refl s)
  | .puti _ _ => execPuti_keeps _ _ (Keeps.refl s)
  | .signal _ _ => execSignal_keeps _ _ (Keeps.refl s)
  | .syncadd _ _ => execSyncadd_keeps _ _ (Keeps.refl s)
  | .syncset _ _ => execSyncset_keeps _ _ (Keeps.refl s)
  | .syncsetClaim _ _ => execSyncsetClaim_keeps _ _ (Keeps.refl s)
  | .syncsetRelease _ _ => execSyncsetRelease_keeps _ _ (Keeps.refl s)
  | .syncwait _ _ => execSyncwait_keeps _ _ (Keeps.refl s)
  | .syncread _ _ => execSyncread_keeps _ _ (Keeps.refl s)
  | .stwrite _ _ => execStwrite_keeps _ _ (Keeps.refl s)
  | .stread _ _ => execStread_keeps _ _ (Keeps.refl s)
  | .stpref _ _ => execStpref_keeps _ _ (Keeps.refl s)
  | .stpin _ _ => execStpin_keeps _ _ (Keeps.refl s)
  | .stunpin _ _ => execStunpin_keeps _ _ (Keeps.refl s)
  | .stfree _ _ => execStfree_keeps _ _ (Keeps.refl s)
  | .commandComplete _ _ _ => execCommandComplete_keeps _ _ _ (Keeps.refl s)
  | .dqGroupOpen _ => execDqGroupOpen_keeps _ (Keeps.refl s)
  | .fillerAdmit _ => execFillerAdmit_keeps _ (Keeps.refl s)
  | .fillerYield _ => execFillerYield_keeps _ (Keeps.refl s)
  | .kTile _ _ => execKTile_keeps _ _ (Keeps.refl s)
  | .ladderSequence _ _ => execLadderSequence_keeps _ _ (Keeps.refl s)
  | .rungComputationDone _ _ => execRungComputationDone_keeps _ _ (Keeps.refl s)
  | .finishedTileQueueEntry _ _ => execFinishedTileQueueEntry_keeps _ _ (Keeps.refl s)
  | .vectorNop _ _ _ => execVectorNop_keeps _ _ _ (Keeps.refl s)
  | .mov _ _ _ => execMov_keeps _ _ _ (Keeps.refl s)
  | .add _ _ _ => execAdd_keeps _ _ _ (Keeps.refl s)
  | .sub _ _ _ => execSub_keeps _ _ _ (Keeps.refl s)
  | .mul _ _ _ => execMul_keeps _ _ _ (Keeps.refl s)
  | .fma _ _ _ => execFma_keeps _ _ _ (Keeps.refl s)
  | .fnma _ _ _ => execFnma_keeps _ _ _ (Keeps.refl s)
  | .div _ _ _ => execDiv_keeps _ _ _ (Keeps.refl s)
  | .sqrt _ _ _ => execSqrt_keeps _ _ _ (Keeps.refl s)
  | .max _ _ _ => execMax_keeps _ _ _ (Keeps.refl s)
  | .min _ _ _ => execMin_keeps _ _ _ (Keeps.refl s)
  | .abs _ _ _ => execAbs_keeps _ _ _ (Keeps.refl s)
  | .neg _ _ _ => execNeg_keeps _ _ _ (Keeps.refl s)
  | .sel _ _ _ => execSel_keeps _ _ _ (Keeps.refl s)
  | .rndi _ _ _ => execRndi_keeps _ _ _ (Keeps.refl s)
  | .xadd _ _ _ => execXadd_keeps _ _ _ (Keeps.refl s)
  | .exp2 _ _ _ => execExp2_keeps _ _ _ (Keeps.refl s)
  | .log2 _ _ _ => execLog2_keeps _ _ _ (Keeps.refl s)
  | .rsqrt _ _ _ => execRsqrt_keeps _ _ _ (Keeps.refl s)
  | .sigm _ _ _ => execSigm_keeps _ _ _ (Keeps.refl s)
  | .tanh _ _ _ => execTanh_keeps _ _ _ (Keeps.refl s)
  | .cmpeq _ _ _ => execCmpeq_keeps _ _ _ (Keeps.refl s)
  | .cmpne _ _ _ => execCmpne_keeps _ _ _ (Keeps.refl s)
  | .cmplt _ _ _ => execCmplt_keeps _ _ _ (Keeps.refl s)
  | .cmple _ _ _ => execCmple_keeps _ _ _ (Keeps.refl s)
  | .cmpun _ _ _ => execCmpun_keeps _ _ _ (Keeps.refl s)
  | .idxc _ _ _ => execIdxc_keeps _ _ _ (Keeps.refl s)
  | .idxr _ _ _ => execIdxr_keeps _ _ _ (Keeps.refl s)
  | .ld _ _ _ => execLd_keeps _ _ _ (Keeps.refl s)
  | .st _ _ _ => execSt_keeps _ _ _ (Keeps.refl s)
  | .rsum _ _ _ => execRsum_keeps _ _ _ (Keeps.refl s)
  | .rssq _ _ _ => execRssq_keeps _ _ _ (Keeps.refl s)
  | .rmax _ _ _ => execRmax_keeps _ _ _ (Keeps.refl s)
  | .rmin _ _ _ => execRmin_keeps _ _ _ (Keeps.refl s)
  | .ramax _ _ _ => execRamax_keeps _ _ _ (Keeps.refl s)
  | .rargmax _ _ _ => execRargmax_keeps _ _ _ (Keeps.refl s)
  | .rargmin _ _ _ => execRargmin_keeps _ _ _ (Keeps.refl s)
  | .rmean _ _ _ => execRmean_keeps _ _ _ (Keeps.refl s)
  | .rcnt _ _ _ => execRcnt_keeps _ _ _ (Keeps.refl s)
  | .stadd _ _ _ => execStadd_keeps _ _ _ (Keeps.refl s)
  | .stmax _ _ _ => execStmax_keeps _ _ _ (Keeps.refl s)
  | .stashSpill _ => execStashSpill_keeps _ (Keeps.refl s)
  | .spillDone _ _ _ => execSpillDone_keeps _ _ _ (Keeps.refl s)
  | .refillDone _ _ _ => execRefillDone_keeps _ _ _ (Keeps.refl s)
  | .tailWrite _ _ _ _ => execTailWrite_keeps _ _ _ _ (Keeps.refl s)
  | .streamEnable _ _ _ _ => execStreamEnable_keeps _ _ _ _ (Keeps.refl s)
  | .contextEnable _ _ _ _ => execContextEnable_keeps _ _ _ _ (Keeps.refl s)
  | .resume _ _ _ _ => execResume_keeps _ _ _ _ (Keeps.refl s)
  | .staCfgWrite _ _ _ _ _ _ => execStaCfgWrite_keeps _ _ _ _ _ _ (Keeps.refl s)
  | .stashConfigWrite _ _ _ _ => execStashConfigWrite_keeps _ _ _ _ (Keeps.refl s)
  | .registerWrite _ _ _ _ => execRegisterWrite_keeps _ _ _ _ (Keeps.refl s)
  | .sadd _ => execSadd_keeps _ (Keeps.refl s)
  | .sset _ => execSset_keeps _ (Keeps.refl s)
  | .lossNotice _ => execLossNotice_keeps _ (Keeps.refl s)
  | .syncWatchdogExpiry _ _ => execSyncWatchdogExpiry_keeps _ _ (Keeps.refl s)
  | .wr _ => execWr_keeps _ (Keeps.refl s)
  | .rdq _ _ => execRdq_keeps _ _ (Keeps.refl s)
  | .rdr _ => execRdr_keeps _ (Keeps.refl s)
  | .ack _ => execAck_keeps _ (Keeps.refl s)
  | .err _ => execErr_keeps _ (Keeps.refl s)
  | .headerWrite _ => execHeaderWrite_keeps _ (Keeps.refl s)
  | .headerRead _ => execHeaderRead_keeps _ (Keeps.refl s)
  | .mrd _ => execMrd_keeps _ (Keeps.refl s)
  | .mwr _ => execMwr_keeps _ (Keeps.refl s)
  | .mrr _ => execMrr_keeps _ (Keeps.refl s)
  | .msg _ => execMsg_keeps _ (Keeps.refl s)
  | .redr _ => execRedr_keeps _ (Keeps.refl s)
  | .packetForward _ => execPacketForward_keeps _ (Keeps.refl s)
  | .responseTimeout _ => execResponseTimeout_keeps _ (Keeps.refl s)
  | .codeword _ _ _ _ _ => execCodeword_keeps _ _ _ _ _ (Keeps.refl s)
  | .flow _ _ => execFlow_keeps _ _ (Keeps.refl s)
  | .disc _ _ => execDisc_keeps _ _ (Keeps.refl s)
  | .lane _ _ => execLane_keeps _ _ (Keeps.refl s)
  | .discSend _ => execDiscSend_keeps _ (Keeps.refl s)
  | .laneFailure _ _ => execLaneFailure_keeps _ _ (Keeps.refl s)
  | .spareLaneSwapDone _ => execSpareLaneSwapDone_keeps _ (Keeps.refl s)
  | .portDown _ => execPortDown_keeps _ (Keeps.refl s)
  | .linkTrainingAttempt _ => execLinkTrainingAttempt_keeps _ (Keeps.refl s)
  | .linkTrained _ _ => execLinkTrained_keeps _ _ (Keeps.refl s)
  | .equalisationUpdate _ => execEqualisationUpdate_keeps _ (Keeps.refl s)
  | .planLoad _ _ _ => execPlanLoad_keeps _ _ _ (Keeps.refl s)
  | .planCheckTimeout _ => execPlanCheckTimeout_keeps _ (Keeps.refl s)
  | .groupLoad _ _ _ => execGroupLoad_keeps _ _ _ (Keeps.refl s)
  | .reservationTimeout _ _ _ => execReservationTimeout_keeps _ _ _ (Keeps.refl s)
  | .ready _ => execReady_keeps _ (Keeps.refl s)
  | .readyRetry _ => execReadyRetry_keeps _ (Keeps.refl s)
  | .segmentEnd _ => execSegmentEnd_keeps _ (Keeps.refl s)
  | .collTimeout _ _ _ => execCollTimeout_keeps _ _ _ (Keeps.refl s)
  | .localClose _ => execLocalClose_keeps _ (Keeps.refl s)
  | .cleanVote _ => execCleanVote_keeps _ (Keeps.refl s)
  | .voteResult _ _ => execVoteResult_keeps _ _ (Keeps.refl s)
  | .void _ => execVoid_keeps _ (Keeps.refl s)
  | .damaskReexecute _ => execDamaskReexecute_keeps _ (Keeps.refl s)
  | .damaskCheck _ _ => execDamaskCheck_keeps _ _ (Keeps.refl s)
  | .damaskArbitration _ _ => execDamaskArbitration_keeps _ _ (Keeps.refl s)
  | .damaskTimeout _ => execDamaskTimeout_keeps _ (Keeps.refl s)
  | .ckptRequest _ _ _ => execCkptRequest_keeps _ _ _ (Keeps.refl s)
  | .checkpointCopyDone _ => execCheckpointCopyDone_keeps _ (Keeps.refl s)
  | .restart _ => execRestart_keeps _ (Keeps.refl s)
  | .ckptStatus _ => execCkptStatus_keeps _ (Keeps.refl s)
  | .lease _ => execLease_keeps _ (Keeps.refl s)
  | .leaseSend => execLeaseSend_keeps (Keeps.refl s)
  | .leaseAck _ => execLeaseAck_keeps _ (Keeps.refl s)
  | .repl _ => execRepl_keeps _ (Keeps.refl s)
  | .replAck _ => execReplAck_keeps _ (Keeps.refl s)
  | .leaseLapse => execLeaseLapse_keeps (Keeps.refl s)
  | .leaderAckExpiry => execLeaderAckExpiry_keeps (Keeps.refl s)
  | .sfWatchdogExpiry _ => execSfWatchdogExpiry_keeps _ (Keeps.refl s)
  | .quarNominate _ _ => execQuarNominate_keeps _ _ (Keeps.refl s)
  | .faultClear _ _ => execFaultClear_keeps _ _ (Keeps.refl s)
  | .initStart _ _ => execInitStart_keeps _ _ (Keeps.refl s)
  | .bulkFillDone _ => execBulkFillDone_keeps _ (Keeps.refl s)
  | .logClear _ _ => execLogClear_keeps _ _ (Keeps.refl s)
  | .repairNominate _ _ => execRepairNominate_keeps _ _ (Keeps.refl s)
  | .dramScrub _ _ => execDramScrub_keeps _ _ (Keeps.refl s)
  | .sramScrub _ _ _ => execSramScrub_keeps _ _ _ (Keeps.refl s)
  | .bankRefresh _ _ _ => execBankRefresh_keeps _ _ _ (Keeps.refl s)
  | .refreshSample _ _ _ => execRefreshSample_keeps _ _ _ (Keeps.refl s)
  | .dramTimingTrim _ _ => execDramTimingTrim_keeps _ _ (Keeps.refl s)
  | .snpi _ => execSnpi_keeps _ (Keeps.refl s)
  | .data _ => execData_keeps _ (Keeps.refl s)
  | .cmp _ => execCmp_keeps _ (Keeps.refl s)
  | .mclMrd _ => execMclMrd_keeps _ (Keeps.refl s)
  | .mclMwr _ => execMclMwr_keeps _ (Keeps.refl s)
  | .mclMsg _ => execMclMsg_keeps _ (Keeps.refl s)
  | .mclFlit _ _ _ => execMclFlit_keeps _ _ _ (Keeps.refl s)
  | .mclRetrain => execMclRetrain_keeps (Keeps.refl s)
  | .blockNop _ _ => execBlockNop_keeps _ _ (Keeps.refl s)
  | .write _ _ => execWrite_keeps _ _ (Keeps.refl s)
  | .read _ _ => execRead_keeps _ _ (Keeps.refl s)
  | .append _ _ => execAppend_keeps _ _ (Keeps.refl s)
  | .blockSignal _ _ => execBlockSignal_keeps _ _ (Keeps.refl s)
  | .dict _ _ => execDict_keeps _ _ (Keeps.refl s)
  | .blockComplete _ _ => execBlockComplete_keeps _ _ (Keeps.refl s)
  | .irqHoldoffEnd _ => execIrqHoldoffEnd_keeps _ (Keeps.refl s)
  | .attestationRequest _ => execAttestationRequest_keeps _ (Keeps.refl s)
  | .attestationReport => execAttestationReport_keeps (Keeps.refl s)
  | .usdoDownload _ _ _ _ => execUsdoDownload_keeps _ _ _ _ (Keeps.refl s)
  | .usdoUpload _ _ => execUsdoUpload_keeps _ _ (Keeps.refl s)
  | .fuseStage _ _ _ => execFuseStage_keeps _ _ _ (Keeps.refl s)
  | .nmtResetNode => execNmtResetNode_keeps (Keeps.refl s)
  | .nmtResetCommunication => execNmtResetCommunication_keeps (Keeps.refl s)
  | .nmtStateCommand _ => execNmtStateCommand_keeps _ (Keeps.refl s)
  | .heartbeat => execHeartbeat_keeps (Keeps.refl s)
  | .configBufferWrite _ _ => execConfigBufferWrite_keeps _ _ (Keeps.refl s)
  | .configInstall _ => execConfigInstall_keeps _ (Keeps.refl s)
  | .configResultRead _ => execConfigResultRead_keeps _ (Keeps.refl s)
  | .bootStatusRead _ => execBootStatusRead_keeps _ (Keeps.refl s)
  | .configBufferEmpty _ => execConfigBufferEmpty_keeps _ (Keeps.refl s)
  | .warmResetCommand _ => execWarmResetCommand_keeps _ (Keeps.refl s)
  | .coldResetCommand _ => execColdResetCommand_keeps _ (Keeps.refl s)
  | .readinessRead _ => execReadinessRead_keeps _ (Keeps.refl s)
  | .resetCauseRead _ => execResetCauseRead_keeps _ (Keeps.refl s)
  | .enAssert => execEnAssert_keeps (Keeps.refl s)
  | .enDeassert => execEnDeassert_keeps (Keeps.refl s)
  | .powerGood => execPowerGood_keeps (Keeps.refl s)
  | .resetAssert => execResetAssert_keeps (Keeps.refl s)
  | .resetRelease _ => execResetRelease_keeps _ (Keeps.refl s)
  | .trustedKernelStart => execTrustedKernelStart_keeps (Keeps.refl s)
  | .serviceFirmwareStart => execServiceFirmwareStart_keeps (Keeps.refl s)
  | .dramTrainingDone _ => execDramTrainingDone_keeps _ (Keeps.refl s)
  | .selfTestDone _ => execSelfTestDone_keeps _ (Keeps.refl s)
  | .inputLow _ => execInputLow_keeps _ (Keeps.refl s)
  | .inputHigh _ => execInputHigh_keeps _ (Keeps.refl s)
  | .undervoltageLockout _ => execUndervoltageLockout_keeps _ (Keeps.refl s)
  | .overvoltageLockout _ => execOvervoltageLockout_keeps _ (Keeps.refl s)
  | .referenceLoss => execReferenceLoss_keeps (Keeps.refl s)
  | .referenceRestore => execReferenceRestore_keeps (Keeps.refl s)
  | .referenceLossTimeout => execReferenceLossTimeout_keeps (Keeps.refl s)
  | .inletHigh _ => execInletHigh_keeps _ (Keeps.refl s)
  | .powerEvaluation _ _ => execPowerEvaluation_keeps _ _ (Keeps.refl s)
  | .thermalEvaluation _ _ _ _ _ => execThermalEvaluation_keeps _ _ _ _ _ (Keeps.refl s)
  | .avsAdjust _ _ => execAvsAdjust_keeps _ _ (Keeps.refl s)
  | .droopStretch _ => execDroopStretch_keeps _ (Keeps.refl s)
  | .droopRecovery _ => execDroopRecovery_keeps _ (Keeps.refl s)
  | .opTransitionDone _ => execOpTransitionDone_keeps _ (Keeps.refl s)
  | .mclLaneFailure => execMclLaneFailure_keeps (Keeps.refl s)
  | .inputInRange _ => execInputInRange_keeps _ (Keeps.refl s)
  | .inletNormal _ => execInletNormal_keeps _ (Keeps.refl s)
  | .jtagInstruction _ => execJtagInstruction_keeps _ (Keeps.refl s)

theorem exec_next_keeps {i : Instr} {s t : State} (h : exec i s = .next t) : Keeps s t := (exec_keeps i s).next t h

/-- A step runs the front command on the queue's rest; with no command waiting, time passes. -/
theorem step_keeps {s t : State} (h : step s = .next t) :
    (s.pending = [] ∧ Keeps s t) ∨ ∃ c rest, s.pending = c :: rest ∧ Keeps { s with pending := rest } t := by
  unfold step at h
  split at h
  · rename_i hp
    cases h
    exact .inl ⟨hp, State.tick_keeps (Keeps.refl s)⟩
  · rename_i c rest hp
    exact .inr ⟨c, rest, hp, exec_next_keeps h⟩

end Sys2Proof.Machine
end

