-- ==== Sys2Proof/WellFormed.lean ====
section
/-!
DEFINITION. Well-formed commands: a dispatched command carries the opcode of its row (Table 7-2) and the deferred queue holds only
the commands R169 allows; packets and messages have the lengths their headers give (R235, R340); upset patterns name distinct
symbols.
-/
namespace Sys2Proof

/-- Opcodes a deferred group may hold (R169). -/
def opDeferrable (op : Nat) : Bool := (decide (0x10 ≤ op) && decide (op ≤ 0x1C)) || (decide (0x20 ≤ op) && decide (op ≤ 0x22))

/-- Opcodes of Table 7-2. -/
def opAssigned (op : Nat) : Bool :=
  decide (op ≤ 0x0C) || (decide (0x10 ≤ op) && decide (op ≤ 0x1C)) || (decide (0x1E ≤ op) && decide (op ≤ 0x24)) ||
    (decide (0x28 ≤ op) && decide (op ≤ 0x2D))

/-- The unit read from the slot begins with this opcode or with one that no row has (R163), and its source can hold it. -/
def slotWf (op : Nat) (sl : Slot) (w : W256) : Bool :=
  (decide (w.toNat % 256 = op) || !opAssigned (w.toNat % 256)) && (sl.src != .dq || opDeferrable op)

/-- A packet has at most 32 data units (R235), and HCHK of its header is the receiver's to check (R236). -/
def packetWf (p : Packet) : Bool := decide (p.data.length ≤ 32)

/-- A message has at most 8 data lines (Table 14-1). -/
def mclWf (m : MclMsg) : Bool := decide (m.lines.length ≤ 8)

/-- Flipped bits of a unit of core memory: each word once, bits 0 to 71 of its code word (R207). -/
def flipsWf (l : List (Fin 8 × Byte × Byte)) : Bool :=
  decide (l.map (fun e => e.1)).Nodup && l.all (fun e => decide (e.2.1.toNat < 72 ∧ e.2.2.toNat < 72))

/-- Distinct symbols with nonzero patterns. -/
def upsetWf (u : List (Fin 72 × Byte)) : Bool :=
  decide (u.map (fun e => e.1)).Nodup && u.all (fun e => decide (e.2 ≠ 0))

/-- An element instruction word carries the opcode of its row in bits [31:26] (R136). -/
def elemWf (op : Nat) (w : W32) : Bool := decide (w.toNat / 2 ^ 26 = op)

/-- Entry types are 1, 2, 4 or 8 bytes long. -/
def lenWf (n : Nat) : Bool := n == 1 || n == 2 || n == 4 || n == 8

/-- Well-formed commands. -/
def Instr.wf : Instr → Bool
  | .nop sl w => slotWf 0x00 sl w
  | .tokset sl w => slotWf 0x01 sl w
  | .tokadd sl w => slotWf 0x02 sl w
  | .cset sl w => slotWf 0x03 sl w
  | .cadd sl w => slotWf 0x04 sl w
  | .loop sl w => slotWf 0x05 sl w
  | .drain sl w => slotWf 0x06 sl w
  | .halt sl w => slotWf 0x07 sl w
  | .phase sl w => slotWf 0x08 sl w
  | .mark sl w => slotWf 0x09 sl w
  | .notify sl w => slotWf 0x0A sl w
  | .defer sl w => slotWf 0x0B sl w
  | .stepcommit sl w => slotWf 0x0C sl w
  | .tensor sl w => slotWf 0x10 sl w
  | .quant sl w => slotWf 0x11 sl w
  | .rq sl w => slotWf 0x12 sl w
  | .vec sl w => slotWf 0x13 sl w
  | .update sl w => slotWf 0x14 sl w
  | .coll sl w => slotWf 0x15 sl w
  | .xd sl w => slotWf 0x16 sl w
  | .syncdump sl w => slotWf 0x17 sl w
  | .copy sl w => slotWf 0x18 sl w
  | .put sl w => slotWf 0x19 sl w
  | .get sl w => slotWf 0x1A sl w
  | .putsig sl w => slotWf 0x1B sl w
  | .fill sl w => slotWf 0x1C sl w
  | .fence sl w => slotWf 0x1E sl w
  | .puti sl w => slotWf 0x1F sl w
  | .signal sl w => slotWf 0x20 sl w
  | .syncadd sl w => slotWf 0x21 sl w
  | .syncset sl w => slotWf 0x22 sl w && decide (w.toNat / 2 ^ 214 % 4 ≠ 1) && decide (w.toNat / 2 ^ 214 % 4 ≠ 2)
  | .syncsetClaim sl w => slotWf 0x22 sl w && decide (w.toNat / 2 ^ 214 % 4 = 1)
  | .syncsetRelease sl w => slotWf 0x22 sl w && decide (w.toNat / 2 ^ 214 % 4 = 2)
  | .syncwait sl w => slotWf 0x23 sl w
  | .syncread sl w => slotWf 0x24 sl w
  | .stwrite sl w => slotWf 0x28 sl w
  | .stread sl w => slotWf 0x29 sl w
  | .stpref sl w => slotWf 0x2A sl w
  | .stpin sl w => slotWf 0x2B sl w
  | .stunpin sl w => slotWf 0x2C sl w
  | .stfree sl w => slotWf 0x2D sl w
  | .vectorNop _ _ w => elemWf 0x00 w
  | .mov _ _ w => elemWf 0x01 w
  | .add _ _ w => elemWf 0x02 w
  | .sub _ _ w => elemWf 0x03 w
  | .mul _ _ w => elemWf 0x04 w
  | .fma _ _ w => elemWf 0x05 w
  | .fnma _ _ w => elemWf 0x06 w
  | .div _ _ w => elemWf 0x07 w
  | .sqrt _ _ w => elemWf 0x08 w
  | .max _ _ w => elemWf 0x09 w
  | .min _ _ w => elemWf 0x0A w
  | .abs _ _ w => elemWf 0x0B w
  | .neg _ _ w => elemWf 0x0C w
  | .sel _ _ w => elemWf 0x0D w
  | .rndi _ _ w => elemWf 0x0E w
  | .xadd _ _ w => elemWf 0x0F w
  | .exp2 _ _ w => elemWf 0x10 w
  | .log2 _ _ w => elemWf 0x11 w
  | .rsqrt _ _ w => elemWf 0x12 w
  | .sigm _ _ w => elemWf 0x13 w
  | .tanh _ _ w => elemWf 0x14 w
  | .cmpeq _ _ w => elemWf 0x18 w
  | .cmpne _ _ w => elemWf 0x19 w
  | .cmplt _ _ w => elemWf 0x1A w
  | .cmple _ _ w => elemWf 0x1B w
  | .cmpun _ _ w => elemWf 0x1C w
  | .idxc _ _ w => elemWf 0x1E w
  | .idxr _ _ w => elemWf 0x1F w
  | .ld _ _ w => elemWf 0x20 w
  | .st _ _ w => elemWf 0x21 w
  | .rsum _ _ w => elemWf 0x28 w
  | .rssq _ _ w => elemWf 0x29 w
  | .rmax _ _ w => elemWf 0x2A w
  | .rmin _ _ w => elemWf 0x2B w
  | .ramax _ _ w => elemWf 0x2C w
  | .rargmax _ _ w => elemWf 0x2D w
  | .rargmin _ _ w => elemWf 0x2E w
  | .rmean _ _ w => elemWf 0x2F w
  | .rcnt _ _ w => elemWf 0x30 w
  | .stadd _ _ w => elemWf 0x38 w
  | .stmax _ _ w => elemWf 0x39 w
  | .sadd p => packetWf p
  | .sset p => packetWf p
  | .lossNotice p => packetWf p
  | .wr p => packetWf p
  | .rdq p e => packetWf p && upsetWf e.symbols && flipsWf e.flips
  | .rdr p => packetWf p
  | .ack p => packetWf p
  | .err p => packetWf p
  | .headerWrite p => packetWf p
  | .headerRead p => packetWf p
  | .mrd p => packetWf p
  | .mwr p => packetWf p
  | .mrr p => packetWf p
  | .msg p => packetWf p
  | .redr p => packetWf p
  | .packetForward p => packetWf p
  | .void p => packetWf p
  | .restart p => packetWf p
  | .ckptStatus p => packetWf p
  | .lease p => packetWf p
  | .leaseAck p => packetWf p
  | .repl p => packetWf p
  | .replAck p => packetWf p
  | .dramScrub _ u => upsetWf u
  | .snpi m => mclWf m
  | .data m => mclWf m
  | .cmp m => mclWf m
  | .mclMrd m => mclWf m
  | .mclMwr m => mclWf m
  | .mclMsg m => mclWf m
  | .attestationRequest m => mclWf m
  | .mclFlit _ slots _ => decide (slots.length ≤ 15)
  | .usdoDownload _ _ len _ => lenWf len
  | .fuseStage _ len _ => lenWf len
  | .selfTestDone l => decide l.Nodup
  | .commandComplete _ _ _ => true
  | .dqGroupOpen _ => true
  | .fillerAdmit _ => true
  | .fillerYield _ => true
  | .kTile _ _ => true
  | .ladderSequence _ _ => true
  | .rungComputationDone _ _ => true
  | .finishedTileQueueEntry _ _ => true
  | .stashSpill _ => true
  | .spillDone _ _ _ => true
  | .refillDone _ _ _ => true
  | .tailWrite _ _ _ _ => true
  | .streamEnable _ _ _ _ => true
  | .contextEnable _ _ _ _ => true
  | .resume _ _ _ _ => true
  | .staCfgWrite _ _ _ _ _ _ => true
  | .stashConfigWrite _ _ _ _ => true
  | .registerWrite _ _ _ _ => true
  | .syncWatchdogExpiry _ _ => true
  | .responseTimeout _ => true
  | .codeword _ seq errs kinds flits => decide errs.Nodup && decide (flits.length = 20) && (seq.getLsbD 0 || kinds.getLsbD 0)
  | .flow _ _ => true
  | .disc _ _ => true
  | .lane _ _ => true
  | .discSend _ => true
  | .laneFailure _ _ => true
  | .spareLaneSwapDone _ => true
  | .portDown _ => true
  | .linkTrainingAttempt _ => true
  | .linkTrained _ _ => true
  | .equalisationUpdate _ => true
  | .planLoad _ _ _ => true
  | .planCheckTimeout _ => true
  | .groupLoad _ _ _ => true
  | .reservationTimeout _ _ _ => true
  | .ready m => packetWf m.1
  | .readyRetry _ => true
  | .segmentEnd m => packetWf m.1 && decide (m.2.len ≤ 65536) && decide (m.2.psn.length ≤ 65536)
  | .collTimeout _ _ _ => true
  | .localClose _ => true
  | .cleanVote _ => true
  | .voteResult _ _ => true
  | .damaskReexecute _ => true
  | .damaskCheck _ _ => true
  | .damaskArbitration _ _ => true
  | .damaskTimeout _ => true
  | .ckptRequest _ _ _ => true
  | .checkpointCopyDone _ => true
  | .leaseSend => true
  | .leaseLapse => true
  | .leaderAckExpiry => true
  | .sfWatchdogExpiry _ => true
  | .quarNominate _ _ => true
  | .faultClear _ _ => true
  | .initStart _ _ => true
  | .bulkFillDone _ => true
  | .logClear _ _ => true
  | .repairNominate _ _ => true
  | .sramScrub _ _ flips => flipsWf flips
  | .bankRefresh _ _ _ => true
  | .refreshSample _ _ _ => true
  | .dramTimingTrim _ _ => true
  | .mclRetrain => true
  | .blockNop _ _ => true
  | .write _ _ => true
  | .read _ _ => true
  | .append _ _ => true
  | .blockSignal _ _ => true
  | .dict _ _ => true
  | .blockComplete _ _ => true
  | .irqHoldoffEnd _ => true
  | .attestationReport => true
  | .usdoUpload _ _ => true
  | .nmtResetNode => true
  | .nmtResetCommunication => true
  | .nmtStateCommand _ => true
  | .heartbeat => true
  | .configBufferWrite _ _ => true
  | .configInstall _ => true
  | .configResultRead _ => true
  | .bootStatusRead _ => true
  | .configBufferEmpty _ => true
  | .warmResetCommand _ => true
  | .coldResetCommand _ => true
  | .readinessRead _ => true
  | .resetCauseRead _ => true
  | .enAssert => true
  | .enDeassert => true
  | .powerGood => true
  | .resetAssert => true
  | .resetRelease _ => true
  | .trustedKernelStart => true
  | .serviceFirmwareStart => true
  | .dramTrainingDone _ => true
  | .inputLow _ => true
  | .inputHigh _ => true
  | .undervoltageLockout _ => true
  | .overvoltageLockout _ => true
  | .referenceLoss => true
  | .referenceRestore => true
  | .referenceLossTimeout => true
  | .inletHigh _ => true
  | .powerEvaluation _ _ => true
  | .thermalEvaluation _ _ _ _ _ => true
  | .avsAdjust _ _ => true
  | .droopStretch _ => true
  | .droopRecovery _ => true
  | .opTransitionDone _ => true
  | .mclLaneFailure => true
  | .inputInRange _ => true
  | .inletNormal _ => true
  | .jtagInstruction _ => true

end Sys2Proof
end

