-- ==== Sys2Proof/Tests/Slice0.lean ====
section
/-!
SUPPORT. Witnesses and tests. For every obligation with hypotheses a theorem witness_<its name> shows concrete states and operands that
meet all of them, clause by clause and at the ends of their ranges; theorems test_<what> check one command, or one step, on a small state
against a value of the manual; theorems test_wf_<what> show an ill-formed command that each check of WellFormed.lean refuses. What the
manual leaves open has no value here, so commands whose outcome turns on it are tested in other fields, or not at all.
-/
open Sys2Proof Sys2Proof.Machine
namespace Sys2Proof.Tests
set_option Elab.async false
/-! ## States that the tests and witnesses start from -/

/-- A word from fields: (lowest bit, value). -/
def word (n : Nat) (l : List (Nat × Nat)) : BitVec n := BitVec.ofNat n (l.foldl (fun a e => a + e.2 * 2 ^ e.1) 0)

/-- A command with its opcode, which raises token 5 (Table 7-1). -/
def cmd (op : Nat) (l : List (Nat × Nat)) : W256 := word 256 ((0, op) :: (25, 1) :: (20, 5) :: l)

def slot0 : Slot := ⟨0, .s0⟩

/-- Core 0 with its primary context in partition 0, enabled, and two commands waiting in S0. -/
def core0 : Core :=
  { Core.reset with
    prim := { Ctx.reset with
      en := true
      part := some 0 }
    s0 := { Stream.reset .fwd with
      en := true
      tail := 2
      base := 0x1000 } }

/-- A module that runs partition 0: firmware up, ID 1, region 0 of stack 0 and core 0 assigned, stack 0 filled with zeros. -/
def base : State :=
  { (((State.reset.setDN ownDevKey 1).setCrit (dk 0x2600 6) 1).setCrit (dkx 0x2620 0 1) 1).setDN (dkx 0x2330 0 3) 0 with
    board := { Board.reset with
      booting := false
      tkUp := true
      sfUp := true
      coresDone := true
      dramTrained := true }
    mem := { Mem.reset with fill := [(0, some 0)] }
    cores := [(0, core0)] }

/-- A command in the slot at HEAD of a stream of core 0; of S0. -/
def placed (s : State) (st : StreamId) (w : W256) : State :=
  { s with mem := s.mem.put (ckey 0 ((s.stream 0 st).slotOff (s.stream 0 st).head)) (leBytes 32 w.toNat) }
def at0 (s : State) (w : W256) : State := placed s .s0 w

/-- The next state of an outcome. -/
def nx : Host.Outcome State Fault Refusal → State
  | .next t => t
  | _ => State.reset

/-- The state after the command that stands at HEAD of S0. -/
def run (i : Slot → W256 → Instr) (w : W256) (s : State) : State := nx (exec (i slot0 w) (at0 s w))

/-- All of the tests listed hold. -/
def every : List Bool → Bool
  | [] => true
  | b :: l => b && every l

theorem every_cons_ok {b : Bool} {l : List Bool} : every (b :: l) = true ↔ b = true ∧ every l = true := Bool.and_eq_true_iff
theorem every_nil_ok : every [] = true ↔ True := iff_true_intro rfl

/-- Issues, as a test of its parts. -/
def issues (s : State) (sl : Slot) (w : W256) (op : Nat) : Bool :=
  every [s.ready sl w == .go, (cOp w).toNat == op, !(srcCtx sl.src == .filler && primaryOnly w),
    decide ((s.cx sl).moving (s.taken sl w).id < 16), !(s.cx sl).jobs.any Job.isQueued]

theorem issues_ok {s : State} {sl : Slot} {w : W256} {op : Nat} (h : issues s sl w op = true) : s.Issues sl w op := by
  simp only [issues, every_cons_ok, every_nil_ok, and_true, beq_iff_eq, decide_eq_true_eq, Bool.not_eq_true'] at h
  exact { go := h.1, op := h.2.1, own := fun a => by simp [a.1, a.2] at h, enters := fun _ => h.2.2.2 }

/-- An outcome that is a next state. -/
def answers : Host.Outcome State Fault Refusal → Bool
  | .next _ => true
  | _ => false

theorem nx_ok {o : Host.Outcome State Fault Refusal} (h : answers o = true) : o = .next (nx o) := by
  cases o <;> simp [answers] at h
  rfl

theorem all_ok {α : Type} {l : List α} {p : α → Prop} [DecidablePred p] (h : (l.all fun v => decide (p v)) = true) : ∀ v ∈ l, p v := by
  simpa using h

/-! ## The block and the dispatcher -/

theorem witness_StepRunsFront : ({ base with pending := [.nop slot0 (cmd 0 [])] } : State).pending = .nop slot0 (cmd 0 []) :: [] := rfl

theorem witness_IdleStep :
    State.reset.pending = [] ∧ ({ State.reset with board := { Board.reset with pg := false } } : State).running = false ∧
    base.pending = [] ∧ base.running = true ∧ ({ base with board := { base.board with sfUp := false } } : State).board.sfUp = false ∧
    ∀ c x, ∀ j ∈ (base.ctx c x).jobs, j.queue = [] := by
  refine ⟨rfl, by decide +kernel, rfl, by decide +kernel, rfl, fun c x => ?_⟩
  cases x <;> revert c <;> decide +kernel

theorem witness_CommandsAnswer : exec (.nop slot0 (cmd 0 [])) (at0 base (cmd 0 [])) = .next (run .nop (cmd 0 []) base) := nx_ok (by decide +kernel)

theorem witness_StepKeepsInvariant : State.reset.Inv ∧ step State.reset = .next (nx (step State.reset)) := by
  refine ⟨⟨by decide +kernel, fun e h => ?_⟩, nx_ok (by decide +kernel)⟩
  cases h

theorem witness_FusesOnlySet : step State.reset = .next (nx (step State.reset)) := witness_StepKeepsInvariant.2

/-- A source with nothing to offer, and one that waits for its token. -/
theorem witness_NotReadyWaits :
    (Instr.nop slot0 (cmd 0 []), 0) ∈ slotRows slot0 (cmd 0 []) ∧ State.reset.ready slot0 (cmd 0 []) = .idle ∧
    (at0 base (cmd 0 [(13, 1), (32, 1)])).ready slot0 (cmd 0 [(13, 1), (32, 1)]) = .hold .waits := by
  decide +kernel

def noisy : State := base.modCtx 0 .primary (fun k => { k with errcont := true })

/-- The filler context of core 0 is admitted, and two commands wait in S2. -/
def filling : State :=
  base.modCore 0 (fun k => { k with
    admitted := true
    fill := { Ctx.reset with
      en := true
      part := some 0 }
    s0 := { k.s0 with tail := 0 }
    s2 := { Stream.reset .fwd with
      en := true
      tail := 2
      base := 0x7000 } })

/-- A TOKSET is no NOP; an unassigned opcode, with ERRCONT clear and set; and a DEFER of the filler. -/
theorem witness_OpcodeError :
    (Instr.nop slot0 (cmd 1 []), 0) ∈ slotRows slot0 (cmd 1 []) ∧ (cOp (cmd 1 [])).toNat ≠ 0 ∧ assigned (cOp (cmd 1 [])).toNat = true ∧
    (at0 base (cmd 0x0D [])).ready slot0 (cmd 0x0D []) = .go ∧ assigned (cOp (cmd 0x0D [])).toNat = false ∧
    ((at0 base (cmd 0x0D [])).cx slot0).errcont = false ∧ ((at0 base (cmd 0x0D [])).cx slot0).errSet = false ∧
    (at0 noisy (cmd 0x0D [])).ready slot0 (cmd 0x0D []) = .go ∧ ((at0 noisy (cmd 0x0D [])).cx slot0).errcont = true ∧
    (Instr.defer ⟨0, .s2⟩ (cmd 0x0B []), 0x0B) ∈ slotRows ⟨0, .s2⟩ (cmd 0x0B []) ∧
    ((placed filling .s2 (cmd 0x0B [])).ready ⟨0, .s2⟩ (cmd 0x0B []) = .go ∧ srcCtx .s2 = .filler ∧ primaryOnly (cmd 0x0B []) = true) := by
  decide +kernel

theorem no_waits (s : State) (h : ∀ c, (s.stream c .s0).wait = none ∧ (s.stream c .s1).wait = none ∧ (s.stream c .s2).wait = none) :
    ∀ c st, (s.stream c st).wait = none := by
  intro c st
  cases st
  · exact (h c).1
  · exact (h c).2.1
  · exact (h c).2.2

theorem witness_DispatchSettle :
    base.OwnersOk ∧ (∀ c st, (base.stream c st).wait = none) ∧ (∀ c x, (base.ctx c x).fences = []) := by
  refine ⟨fun e h => (by cases h), no_waits _ (by decide +kernel), fun c x => ?_⟩
  cases x <;> revert c <;> decide +kernel

/-- Counters at the ends of their range. -/
theorem witness_SimpleCommands :
    [(cmd 0x00 [], 0x00), (cmd 0x01 [(96, 31), (64, 9)], 0x01), (cmd 0x02 [(96, 31), (64, 9)], 0x02), (cmd 0x03 [(96, 7)], 0x03),
      (cmd 0x04 [(96, 7)], 0x04), (cmd 0x05 [(96, 7), (112, 63)], 0x05), (cmd 0x08 [(96, 2)], 0x08), (cmd 0x07 [(64, 77)], 0x07)].all
      (fun (e : W256 × Nat) => issues (at0 base e.1) slot0 e.1 e.2) = true ∧
    srcStream slot0.src = some .s0 ∧ cIdx (cmd 0x03 [(96, 7)]) ≤ 7 ∧ cIdx (cmd 0x04 [(96, 7)]) ≤ 7 ∧ cIdx (cmd 0x05 [(96, 7), (112, 63)]) ≤ 7 ∧
    0 < cOff (cmd 0x05 [(96, 7), (112, 63)]) ∧ cOff (cmd 0x05 [(96, 7), (112, 63)]) < (base.stream 0 .s0).slots ∧
    phaseCode (cIdx (cmd 0x08 [(96, 2)])) = some .bwdW := by
  decide +kernel

def counting : State := base.modStream 0 .s0 (fun t => t.setCounter 7 2)

/-- LOOP with its counter at 0 falls through; with 2 it goes back and leaves 1 (R168). -/
theorem test_loop :
    ((run .loop (cmd 5 [(96, 7), (112, 3)]) base).stream 0 .s0).head = 1 ∧
    ((run .loop (cmd 5 [(96, 7), (112, 3)]) counting).stream 0 .s0).head = 61 ∧
    ((run .loop (cmd 5 [(96, 7), (112, 3)]) counting).stream 0 .s0).counter 7 = 1 := by
  decide +kernel

theorem test_nop_signals : ((run .nop (cmd 0 []) base).cx slot0).tok 5 = 1 := by decide +kernel
theorem test_tokset : ((run .tokset (cmd 1 [(96, 31), (64, 9)]) base).cx slot0).tok 31 = 9 := by decide +kernel
theorem test_tokadd : ((run .tokadd (cmd 2 [(96, 5), (64, 9)]) base).cx slot0).tok 5 = 10 := by decide +kernel
theorem test_cset : ((run .cset (cmd 3 [(96, 7), (64, 9)]) base).stream 0 .s0).counter 7 = 9 := by decide +kernel
theorem test_cadd_wraps :
    ((run .cadd (cmd 4 [(96, 7), (64, 0xFFFFFFFF)]) counting).stream 0 .s0).counter 7 = 1 := by decide +kernel
theorem test_halt :
    ((run .halt (cmd 7 [(64, 77)]) base).cx slot0).haltcode = 77 ∧
    ((run .halt (cmd 7 [(64, 77)]) base).cx slot0).halted = true := by decide +kernel
theorem test_phase : ((run .phase (cmd 8 [(96, 2)]) base).stream 0 .s0).phase = .bwdW := by decide +kernel
theorem test_opcode_error_halts : ((run .nop (cmd 0x0D []) base).cx slot0).err = 0x040D0000 := by decide +kernel

/-- The address of object k of core c of this module. -/
def objAddr (c k : Nat) : Nat := 0xFFFE * 2 ^ 48 + 2 * 2 ^ 44 + c * 2 ^ 15 + 8 * k

/-- Objects at the ends of a core's range; one holds 7. -/
def objs7 : State := base.setObj 0 4095 { base.obj 0 4095 with count := 7 }

theorem not_waiting (s : State) (c : CoreId) (k : Nat) (h : (∀ st ∈ [StreamId.s0, .s1, .s2], waitOn (s.stream c st) k = none)) :
    ∀ st, waitOn (s.stream c st) k = none := by
  intro st
  cases st <;> simp at h
  · exact h.1
  · exact h.2.1
  · exact h.2.2

/-- A wait that object 4095 of core 0 meets, with TAKE, and one that it does not. -/
theorem witness_HoldingCommands :
    srcStream slot0.src = some .s0 ∧
    [0x06, 0x0C, 0x1E].all (fun op => issues (at0 base (cmd op [])) slot0 (cmd op []) op) = true ∧
    (∀ e ∈ [(2, 7), (2, 8)], let w := cmd 0x23 [(64, objAddr 0 4095), (128, e.2), (214, e.1)]
      issues (at0 objs7 w) slot0 w 0x23 = true ∧ objs7.isOwn (sObj w) = true ∧ aSpace (sObj w) = 2 ∧ aRsvd (sObj w) = 0 ∧
      aOff (sObj w) = (0 : CoreId).val * 2 ^ 15 + 8 * 4095 ∧ sCond w ≠ 3 ∧
      (objs7.ctx 0 (objs7.objCtx 0 4095)).part = (objs7.cx slot0).part ∧
      condMet (sCond w) (objs7.obj 0 4095).count (fld (sVal w) 0 48) = decide (e.2 = 7)) ∧
    ∀ st', st' ≠ .s0 → waitOn (objs7.stream 0 st') 4095 = none :=
  ⟨rfl, by decide +kernel, by decide +kernel,
    fun st' _ => not_waiting objs7 0 4095 (by decide +kernel) st'⟩

theorem test_drain_completes : ((run .drain (cmd 6 []) base).stream 0 .s0).wait = none := by decide +kernel
theorem test_fence_completes : ((run .fence (cmd 0x1E []) base).cx slot0).fences = [] := by decide +kernel
theorem test_stepcommit_advances : ((run .stepcommit (cmd 0xC []) base).cx slot0).step = 1 := by decide +kernel
theorem test_syncwait_take :
    ((run .syncwait (cmd 0x23 [(64, objAddr 0 4095), (128, 7), (214, 2)]) objs7).obj 0 4095).count = 0 := by decide +kernel
theorem test_syncwait_holds :
    ((run .syncwait (cmd 0x23 [(64, objAddr 0 4095), (128, 8), (214, 2)]) objs7).stream 0 .s0).wait ≠ none := by decide +kernel

/-- A context of core 0 that holds a STEPCOMMIT which has drained, in step 0. -/
def committing : State :=
  let j := base.newJob slot0 (cmd 0xC [])
  (base.modCtx 0 .primary (fun k => { k with jobs := [j] })).modStream 0 .s0 (fun t => { t with wait := some (.commit j.id false 0) })

theorem witness_StepcommitCompletes :
    let s := committing
    let j := base.newJob slot0 (cmd 0xC [])
    (s.ctx 0 .primary).part = some 0 ∧ s.heldCommit 0 .primary = some (.s0, j.id, false) ∧ (s.ctx 0 .primary).job j.id = some j ∧
    (∀ st' ∈ streamsOf .primary, ∀ d b, (s.stream 0 st').wait ≠ some (.drain d b)) ∧ (s.ctx 0 .primary).fences = [] ∧
    (∀ st' k, waitOn (s.stream 0 st') k = none) ∧ s.commitDrained 0 .primary j.id = true ∧ (s.ctx 0 .primary).step = 0 ∧
    (s.part 0).gate.voidFrom = none ∧ s.OwnersOk := by
  refine ⟨by decide +kernel, by decide +kernel, by decide +kernel, ?_, by decide +kernel, ?_, by decide +kernel, by decide +kernel, by decide +kernel,
    fun e h => by cases h⟩
  · have h : ∀ st' ∈ streamsOf .primary, (committing.stream 0 st').wait = none ∨
        (committing.stream 0 st').wait = some (.commit (base.newJob slot0 (cmd 0xC [])).id false 0) := by decide +kernel
    intro st' hs d b e
    rcases h st' hs with h | h <;> rw [h] at e <;> cases e
  · have h : ∀ st' ∈ [StreamId.s0, .s1, .s2], (committing.stream 0 st').wait = none ∨
        (committing.stream 0 st').wait = some (.commit (base.newJob slot0 (cmd 0xC [])).id false 0) := by decide +kernel
    intro st' k
    have hs : st' ∈ [StreamId.s0, .s1, .s2] := by cases st' <;> decide
    rcases h st' hs with h | h <;> simp [waitOn, h]

/-- SYNCAT of an object, from its parts. -/
theorem syncAt_ok {s : State} {sl : Slot} {a : W64} {c : CoreId} {k : Nat}
    (h : s.isOwn a = true ∧ aSpace a = 2 ∧ aOff a = c.val * 2 ^ 15 + 8 * k ∧ k < 4096 ∧ s.check (s.pt sl) a 8 = .ok ∧
      (s.obj c k).ownerOk = true ∧ ∀ st ∈ [StreamId.s0, .s1, .s2], waitOn (s.stream c st) k = none) : s.SyncAt sl a c k :=
  ⟨h.1, h.2.1, h.2.2.1, h.2.2.2.1, h.2.2.2.2.1, h.2.2.2.2.2.1, not_waiting s c k h.2.2.2.2.2.2⟩

/-! ## Records, errors and data movement -/

/-- A window of the companion link, written and in force. -/
def withWin (s : State) (w : Fin 64) (base pages kind : Nat) : State :=
  [(1, base), (2, pages), (3, 16 * kind), (4, 0xFEE0), (5, 7)].foldl (fun s e =>
    (s.setCrit (winKey w e.1) (BitVec.ofNat 64 e.2)).setDf (winKey w e.1) (BitVec.ofNat 64 e.2)) s

/-- The companion link active under 2.0, partition 0 with a command ring, a completion ring, a data window and a telemetry ring. -/
def linked : State :=
  ((withWin (withWin (withWin (withWin base 0 0x10000 1 1) 1 0x20000 2 2) 2 0x40000 64 3) 3 0x30000 2 4).setDN mclStateKey 2).setDN mclVerKey 3
    |>.setCrit (dk 0x2A00 9) 1 |>.setDN (dk 0x2A00 4) 16

def compWin : Win := ⟨1, 0x20000, 0x2000, 0, 2, false⟩

/-- The second slot of S0 holds an add to object 3, which DEFER posts. -/
def posting : State :=
  { at0 base (cmd 0x0B []) with mem := (at0 base (cmd 0x0B [])).mem.put (ckey 0 0x1020) (leBytes 32 (cmd 0x21 [(64, objAddr 0 3), (128, 4)]).toNat) }

theorem witness_RecordsAndDeferral_mark : ∀ a ∈ [0, 0x3FFFF0], let w := cmd 0x09 [(128, a), (64, 0xAABBCCDD)]
    issues (at0 base w) slot0 w 0x09 = true ∧ cAddr w % 16 = 0 ∧ cAddr w + 16 ≤ 0x400000 ∧ (at0 base w).check ((at0 base w).pt slot0) (coreAddr 0 (cAddr w)) 16 = .ok := by
  decide +kernel

def readCmd : W256 := cmd 0x24 [(64, objAddr 0 4095), (192, 0x3FFFF8)]

def readObjs : State := at0 objs7 readCmd

theorem witness_RecordsAndDeferral_syncread :
    readObjs.Issues slot0 readCmd 0x24 ∧ readObjs.SyncAt slot0 (sObj readCmd) 0 4095 ∧ sAddr readCmd % 8 = 0 ∧
      readObjs.check (readObjs.pt slot0) (coreAddr 0 (sAddr readCmd)) 8 = .ok :=
  ⟨issues_ok (by decide +kernel), syncAt_ok (by decide +kernel), by decide +kernel, by decide +kernel⟩

def notifyCmd : W256 := cmd 0x0A [(64, 5), (160, 6)]

theorem witness_RecordsAndDeferral_notify :
    (at0 base notifyCmd).Issues slot0 notifyCmd 0x0A ∧ (at0 base notifyCmd).mclActive = false ∧
      (let s := at0 linked notifyCmd
       s.Issues slot0 notifyCmd 0x0A ∧ s.mclActive = true ∧ s.mcl.queue = [] ∧ s.winOf (s.pt slot0) 2 = some compWin ∧ compWin.nirq = false ∧
         s.recordRoom (s.pt slot0) compWin = true ∧ s.mcl.freeTag = some 0) :=
  ⟨issues_ok (by decide +kernel), by decide +kernel, issues_ok (by decide +kernel), by decide +kernel, by decide +kernel, by decide +kernel,
    by decide +kernel, by decide +kernel, by decide +kernel⟩

theorem witness_RecordsAndDeferral_defer :
    srcStream slot0.src = some .s0 ∧ posting.Issues slot0 (cmd 0x0B []) 0x0B ∧ posting.deferHold 0 .s0 (cNcmd (cmd 0x0B [])) = none ∧
      (∀ v ∈ posting.groupWords 0 .s0 (cNcmd (cmd 0x0B [])), deferrable (cOp v).toNat = true) ∧
      ((posting.groupWords 0 .s0 (cNcmd (cmd 0x0B []))).map
        (fun v => (posting.guardsOf 0 v (descOff (posting.stream 0 .s0) v)).length)).sum ≤ 128 :=
  ⟨rfl, issues_ok (by decide +kernel), by decide +kernel, all_ok (by decide +kernel), by decide +kernel⟩

theorem test_mark :
    (run .mark (cmd 0x09 [(128, 0x3FFFF0), (64, 0xAABBCCDD)]) base).mem.bytes (ckey 0 0x3FFFF0) 16 =
      [0, 0, 0, 0, 0, 0, 0, 0, 0xDD, 0xCC, 0xBB, 0xAA, 0, 0, 0, 0] := by decide +kernel
theorem test_syncread :
    (run .syncread (cmd 0x24 [(64, objAddr 0 4095), (192, 0x3FFFF8)]) objs7).mem.bytes (ckey 0 0x3FFFF8) 8 =
      [7, 0, 0, 0, 0, 0, 0, 0] := by decide +kernel
/-- A record goes to byte 4,096 of its completion ring, at 128 KiB (R348). -/
theorem test_notify :
    (run .notify (cmd 0x0A [(64, 5), (160, 6)]) linked).out.map (fun o => match o with
      | .mcl m => ((mAddr m.hdr).toNat, mOpc m.hdr, m.lines.map (fun l => fldN l 192 64))
      | _ => (0, 0, [])) = [(0x21000, 3, [6 * 2 ^ 32 + 5])] := by decide +kernel
theorem test_defer :
    ((run .defer (cmd 0x0B []) posting).core 0).dq.groups.map (·.map DCmd.w) = [[cmd 0x21 [(64, objAddr 0 3), (128, 4)]]] ∧
    ((run .defer (cmd 0x0B []) posting).stream 0 .s0).head = 2 := by decide +kernel

/-- The address of a byte of core memory of this module, and of DRAM. -/
def coreA (c off : Nat) : Nat := 0xFFFE * 2 ^ 48 + 2 ^ 44 + c * 2 ^ 22 + off
def dramA (off : Nat) : Nat := 0xFFFE * 2 ^ 48 + off
/-- An address of device d. -/
def devA (d sp off : Nat) : Nat := d * 2 ^ 48 + sp * 2 ^ 44 + off

/-- Commands of the partition may wait and signal nothing: a command that breaks its format. The first index past the counters; an address
that is not a multiple of its unit; a length of 0; the reserved condition. -/
theorem witness_CommandErrors_format :
    ([(cmd 0x03 [(96, 8)], 0x03, decide (7 < cIdx (cmd 0x03 [(96, 8)]))), (cmd 0x04 [(96, 8)], 0x04, decide (7 < cIdx (cmd 0x04 [(96, 8)]))),
      (cmd 0x08 [(96, 31)], 0x08, (phaseCode (cIdx (cmd 0x08 [(96, 31)]))).isNone), (cmd 0x09 [(128, 8)], 0x09, decide (cAddr (cmd 0x09 [(128, 8)]) % 16 ≠ 0)),
      (cmd 0x18 [], 0x18, !base.xOk 0x18 (cmd 0x18 [])), (cmd 0x19 [], 0x19, !base.xOk 0x19 (cmd 0x19 [])),
      (cmd 0x1A [], 0x1A, !base.xOk 0x1A (cmd 0x1A [])), (cmd 0x1B [], 0x1B, !base.xOk 0x1B (cmd 0x1B [])),
      (cmd 0x1C [], 0x1C, !base.xOk 0x1C (cmd 0x1C [])), (cmd 0x1F [(64, coreA 0 8)], 0x1F, !xAddrOk (iDst (cmd 0x1F [(64, coreA 0 8)])) 16 16 [0, 1, 3, 4]),
      (cmd 0x20 [(64, coreA 0 8)], 0x20, !xAddrOk (sObj (cmd 0x20 [(64, coreA 0 8)])) 8 8 [2]),
      (cmd 0x21 [(64, coreA 0 8)], 0x21, !xAddrOk (sObj (cmd 0x21 [(64, coreA 0 8)])) 8 8 [2]),
      (cmd 0x22 [(64, objAddr 0 0), (214, 3)], 0x22, !xAddrOk (sObj (cmd 0x22 [(64, objAddr 0 0), (214, 3)])) 8 8 [2] || sCond (cmd 0x22 [(64, objAddr 0 0), (214, 3)]) == 3),
      (cmd 0x23 [(64, objAddr 0 0), (214, 3)], 0x23, decide (aSpace (sObj (cmd 0x23 [(64, objAddr 0 0), (214, 3)])) ≠ 2) || sCond (cmd 0x23 [(64, objAddr 0 0), (214, 3)]) == 3),
      (cmd 0x24 [], 0x24, !xAddrOk (sObj (cmd 0x24 [])) 8 8 [2])] : List (W256 × Nat × Bool)).all
      (fun e => issues (at0 base e.1) slot0 e.1 e.2.1 && e.2.2) = true := by
  decide +kernel

/-- A descriptor offset that is no multiple of 64 (R160). -/
theorem witness_CommandErrors_descriptor :
    [0x10, 0x11, 0x12, 0x13, 0x14, 0x15, 0x16, 0x17].all (fun op => let w := cmd op [(64, 0x2008)]
      issues (at0 base w) slot0 w op && (at0 base w).descBad 0 .primary op ((at0 base w).taken slot0 w).doff) = true := by
  decide +kernel

/-- The first and the last of the reserved device IDs (R18). -/
theorem witness_CommandErrors_reserved :
    [0xC000, 0xFFFF].all (fun d =>
      (([(cmd 0x19 [(64, coreA 0 0x2000), (128, devA d 0 0), (192, 64)], 0x19, xDst, fun w => base.xOk 0x19 w),
        (cmd 0x1B [(64, coreA 0 0x2000), (128, devA d 0 0), (192, 64)], 0x1B, xDst, fun w => base.xOk 0x1B w),
        (cmd 0x1A [(64, devA d 0 0), (128, coreA 0 0x2000), (192, 64)], 0x1A, xSrc, fun w => base.xOk 0x1A w),
        (cmd 0x1F [(64, devA d 0 16)], 0x1F, iDst, fun w => xAddrOk (iDst w) 16 16 [0, 1, 3, 4]),
        (cmd 0x20 [(64, devA d 2 8)], 0x20, sObj, fun w => xAddrOk (sObj w) 8 8 [2]),
        (cmd 0x21 [(64, devA d 2 8)], 0x21, sObj, fun w => xAddrOk (sObj w) 8 8 [2]),
        (cmd 0x22 [(64, devA d 2 8)], 0x22, sObj, fun w => xAddrOk (sObj w) 8 8 [2] && sCond w != 3),
        (cmd 0x24 [(64, devA d 2 8)], 0x24, sObj, fun w => xAddrOk (sObj w) 8 8 [2] && decide (sAddr w % 8 = 0) &&
          decide (base.check (base.pt slot0) (coreAddr 0 (sAddr w)) 8 = .ok))] : List (W256 × Nat × (W256 → W64) × (W256 → Bool))).all
        (fun e => issues (at0 base e.1) slot0 e.1 e.2.1 && reservedDev (aDev (e.2.2.1 e.1)) && !base.isOwn (e.2.2.1 e.1) && e.2.2.2 e.1))) = true := by
  decide +kernel

theorem test_copy_of_nothing : ((run .copy (cmd 0x18 []) base).cx slot0).err = 0x01180000 := by decide +kernel
theorem test_pieces : piecesOf 512 0x1F0 64 = [(0, 16), (16, 48)] := by decide +kernel

/-- Moves, from its parts. -/
theorem moves_ok {s : State} {sl : Slot} {op : Nat} {x : W256}
    (h : every [s.xOk op x, s.isOwn (xSrc x), s.isOwn (xDst x), decide (aSpace (xSrc x) ≤ 1), !xOverlap (xSrc x) (xDst x) (xLen x),
      (piecesOf 512 (aOff (xDst x)) (xLen x)).all (fun e => s.check (s.pt sl) (xSrc x + BitVec.ofNat 64 e.1) e.2 == .ok &&
        s.check (s.pt sl) (xDst x + BitVec.ofNat 64 e.1) e.2 == .ok),
      (unitsOf (aKey (xSrc x)) (xLen x)).all (fun u => s.mem.unit u != .raw), s.mem.wf] = true) : s.Moves sl op x := by
  simp only [every_cons_ok, every_nil_ok, and_true, Bool.and_eq_true, Bool.not_eq_true', decide_eq_true_eq, List.all_eq_true, beq_iff_eq, bne_iff_ne,
    ne_eq] at h
  exact {
    ok := h.1
    src := h.2.1
    dst := h.2.2.1
    space := h.2.2.2.1
    apart := h.2.2.2.2.1
    pass := h.2.2.2.2.2.1
    known := h.2.2.2.2.2.2.1
    wf := h.2.2.2.2.2.2.2 }

/-- 64 bytes at 0x2000 of core 0 of which the second unit is poisoned; a block with a header at 0x3000. -/
def data : State :=
  { base with mem := ((base.mem.put (ckey 0 0x2000) (List.replicate 64 0x5A)).setUnits (ckey 0 0x2040 / 64) [.poisoned]).put (ckey 0 0x3000) [1, 2, 3] }

def copy64 : W256 := cmd 0x18 [(64, coreA 0 0x2000), (128, coreA 0 0x8040), (192, 64)]
def copy128 : W256 := cmd 0x18 [(64, coreA 0 0x2000), (128, dramA 0x1000), (192, 128)]

/-- An XD that holds a COPY (R163). -/
def xdCopy : State := { data with mem := data.mem.put (ckey 0 0x4000) (leBytes 32 copy64.toNat) }
def xdCmd : W256 := cmd 0x16 [(64, 0x4000)]
def xdAt : State := at0 xdCopy xdCmd

theorem witness_MovesWithinModule :
    ((at0 data copy64).Issues slot0 copy64 0x18 ∧ (at0 data copy64).Moves slot0 0x18 copy64 ∧ (at0 data copy64).mem.movedStatus copy64 = 0x00) ∧
    ((at0 data copy128).Issues slot0 copy128 0x18 ∧ (at0 data copy128).Moves slot0 0x18 copy128 ∧ (at0 data copy128).mem.movedStatus copy128 = 0x05) ∧
    (xdAt.Issues slot0 xdCmd 0x16 ∧ xdAt.descBad 0 .primary 0x16 (xdAt.taken slot0 xdCmd).doff = false ∧
      xdAt.xdWord 0 .s0 (xdAt.taken slot0 xdCmd).doff = copy64 ∧ xdAt.Moves slot0 0x18 copy64) :=
  ⟨⟨issues_ok (by decide +kernel), moves_ok (by decide +kernel), by decide +kernel⟩,
    ⟨issues_ok (by decide +kernel), moves_ok (by decide +kernel), by decide +kernel⟩,
    issues_ok (by decide +kernel), by decide +kernel, by decide +kernel, moves_ok (by decide +kernel)⟩

def putsig64 : W256 := cmd 0x1B [(64, coreA 0 0x2000), (128, coreA 0 0x8040), (192, 64), (232, 8 * 4095)]

theorem witness_PutsigWithinModule :
    let s := at0 data putsig64
    s.Issues slot0 putsig64 0x1B ∧ s.Moves slot0 0x1B putsig64 ∧ s.SyncAt slot0 (xSig putsig64) 0 4095 ∧
    (s.issueOp 0 (srcCtx slot0.src) .add 1).epochOk (s.obj 0 4095) = true ∧
    s.periodOf 0 (s.objCtx 0 4095) % 256 = s.periodOf 0 (srcCtx slot0.src) % 256 :=
  ⟨issues_ok (by decide +kernel), moves_ok (by decide +kernel), syncAt_ok (by decide +kernel), by decide +kernel, by decide +kernel⟩

theorem test_copy : (run .copy copy64 data).mem.bytes (ckey 0 0x8040) 64 = List.replicate 64 0x5A := by decide +kernel
theorem test_copy_poison : (run .copy copy128 data).mem.unit (0x1040 / 64) = .poisoned := by decide +kernel
theorem test_put : (run .put (cmd 0x19 [(64, coreA 0 0x2000), (128, coreA 0 0x8040), (192, 64)]) data).mem.byte (ckey 0 0x807F) = 0x5A := by
  decide +kernel
theorem test_get : (run .get (cmd 0x1A [(64, coreA 0 0x2000), (128, coreA 0 0x8040), (192, 64)]) data).mem.byte (ckey 0 0x807F) = 0x5A := by
  decide +kernel
theorem test_xd : (run .xd xdCmd xdCopy).mem.byte (ckey 0 0x807F) = 0x5A := by decide +kernel
theorem test_putsig : ((run .putsig putsig64 data).obj 0 4095).count = 1 := by decide +kernel

def fillCmd : W256 := cmd 0x1C [(64, 0x0807060504030201), (128, coreA 0 0x2000), (192, 4096)]
def putiCmd : W256 := cmd 0x1F [(64, coreA 0 0x3FFFF0), (128, 0x100F0E0D0C0B0A090807060504030201)]

theorem witness_FillAndPuti :
    (let s := at0 data fillCmd
     s.Issues slot0 fillCmd 0x1C ∧ s.xOk 0x1C fillCmd = true ∧
       ∀ e ∈ piecesOf 512 (aOff (xDst fillCmd)) (xLen fillCmd), s.check (s.pt slot0) (xDst fillCmd + BitVec.ofNat 64 e.1) e.2 = .ok) ∧
    (let s := at0 data putiCmd
     s.Issues slot0 putiCmd 0x1F ∧ s.isOwn (iDst putiCmd) = true ∧ xAddrOk (iDst putiCmd) 16 16 [0, 1] = true ∧
       s.check (s.pt slot0) (iDst putiCmd) 16 = .ok) :=
  ⟨⟨issues_ok (by decide +kernel), by decide +kernel, all_ok (by decide +kernel)⟩,
    issues_ok (by decide +kernel), by decide +kernel, by decide +kernel, by decide +kernel⟩

theorem test_fill :
    (run .fill fillCmd data).mem.bytes (ckey 0 0x2038) 16 = [1, 2, 3, 4, 5, 6, 7, 8, 1, 2, 3, 4, 5, 6, 7, 8] ∧
    (run .fill fillCmd data).mem.unit (ckey 0 0x2040 / 64) = .clean := by decide +kernel
theorem test_puti :
    (run .puti putiCmd data).mem.bytes (ckey 0 0x3FFFF0) 16 = [1, 2, 3, 4, 5, 6, 7, 8, 9, 10, 11, 12, 13, 14, 15, 16] := by
  decide +kernel

/-! ## Synchronisation objects -/

def syncCmd (op cond val : Nat) : W256 := cmd op [(64, objAddr 0 4095), (128, val), (214, cond)]

/-- Object 4095 is claimed by this context under an epoch it has left. -/
def claimed : State :=
  base.setObj 0 4095 { base.obj 0 4095 with
    count := 7
    owner := 2 ^ 25 + 2 ^ 9
    ownerN := ~~~(2 ^ 25 + 2 ^ 9)
    epoch := 1 }

theorem witness_SyncOperations :
    [(0x20, 0, SyncKind.add), (0x21, 0, .add), (0x22, 0, .set), (0x22, 1, .claim), (0x22, 2, .release)].all (fun e =>
      issues (at0 objs7 (syncCmd e.1 e.2.1 5)) slot0 (syncCmd e.1 e.2.1 5) e.1 && (e.1 != 0x22 || setKind (sCond (syncCmd e.1 e.2.1 5)) == some e.2.2)) = true ∧
    (at0 objs7 (syncCmd 0x20 0 5)).SyncAt slot0 (sObj (syncCmd 0x20 0 5)) 0 4095 ∧
    (at0 claimed (syncCmd 0x20 0 5)).Issues slot0 (syncCmd 0x20 0 5) 0x20 ∧
    (at0 claimed (syncCmd 0x20 0 5)).SyncAt slot0 (sObj (syncCmd 0x20 0 5)) 0 4095 :=
  ⟨by decide +kernel, syncAt_ok (by decide +kernel), issues_ok (by decide +kernel), syncAt_ok (by decide +kernel)⟩

theorem test_signal : ((run .signal (syncCmd 0x20 0 5) objs7).obj 0 4095).count = 8 := by decide +kernel
/-- A signal of a lost incarnation of the owner is dropped and counted (R296). -/
theorem test_signal_stale :
    ((run .signal (syncCmd 0x20 0 5) claimed).obj 0 4095).count = 7 ∧
    ((run .signal (syncCmd 0x20 0 5) claimed).obj 0 4095).drops = 1 := by decide +kernel
theorem test_syncadd : ((run .syncadd (syncCmd 0x21 0 (2 ^ 48 - 8)) objs7).obj 0 4095).count = 2 ^ 48 - 1 := by decide +kernel
theorem test_syncset : ((run .syncset (syncCmd 0x22 0 5) objs7).obj 0 4095).count = 5 := by decide +kernel
theorem test_syncset_claim : ((run .syncsetClaim (syncCmd 0x22 1 5) objs7).obj 0 4095).owner = 2 ^ 25 + 2 ^ 9 := by decide +kernel
theorem test_syncset_release : ((run .syncsetRelease (syncCmd 0x22 2 5) { claimed with dict := claimed.dict }).obj 0 4095).drops = 1 := by
  decide +kernel

/-! ## Element instructions -/

/-- An element instruction's word (R136). -/
def el (op d a b c m : Nat) : W32 := word 32 [(26, op), (20, d), (14, a), (8, b), (2, c), (0, m)]

/-- A program at row 0 of a tile: v0 = 1.5, -2, 0.25 and v1 = 2, 3, 4 in the three active lanes, s0 = 4, c0 = 1, every stream enabled. -/
def elem : State :=
  base.modCtx 0 .primary (fun k => { k with
    prog := { Prog.reset with
      v := [(0, 0x3FC00000), (1, 0xC0000000), (2, 0x3E800000), (128, 0x40000000), (129, 0x40400000), (130, 0x40800000)]
      s := [(0, 0x40800000)]
      c := [(0, 0x3F800000)]
      m0 := 7 }
    pos := { VecPos.reset with
      en := 0xF
      cols := 3 } })

/-- Lanes 0 to 3 of register r after an instruction. -/
def lanesAfter (i : Instr) (r : Reg) : List Nat := ((((nx (exec i elem)).ctx 0 .primary).prog.lanes 0 r).take 4).map BitVec.toNat

theorem witness_ElementMaps :
    [0x01, 0x02, 0x03, 0x04, 0x05, 0x06, 0x07, 0x08, 0x09, 0x0A, 0x0B, 0x0C, 0x0E, 0x10, 0x11, 0x12, 0x13, 0x14].all (fun op =>
      elemOk op (el op 15 0 1 1 0) (elem.ctx 0 .primary).pos.en && elemOk op (el op 16 16 16 32 3) (elem.ctx 0 .primary).pos.en) = true := by
  decide +kernel

theorem test_mov : lanesAfter (.mov 0 .primary (el 0x01 0 1 0 0 0)) (.v 0) = [0x40000000, 0x40400000, 0x40800000, 0] := by decide +kernel
theorem test_add : lanesAfter (.add 0 .primary (el 0x02 0 0 1 0 0)) (.v 0) = [0x40600000, 0x3F800000, 0x40880000, 0] := by decide +kernel
theorem test_sub : lanesAfter (.sub 0 .primary (el 0x03 2 0 1 0 0)) (.v 2) = [0xBF000000, 0xC0A00000, 0xC0700000, 0] := by decide +kernel
theorem test_mul : lanesAfter (.mul 0 .primary (el 0x04 2 0 1 0 0)) (.v 2) = [0x40400000, 0xC0C00000, 0x3F800000, 0] := by decide +kernel
theorem test_fma : lanesAfter (.fma 0 .primary (el 0x05 2 0 1 32 0)) (.v 2) = [0x40800000, 0xC0A00000, 0x40000000, 0] := by decide +kernel
theorem test_fnma : lanesAfter (.fnma 0 .primary (el 0x06 2 0 1 32 0)) (.v 2) = [0xC0000000, 0x40E00000, 0x00000000, 0] := by decide +kernel
theorem test_div : lanesAfter (.div 0 .primary (el 0x07 2 0 1 0 0)) (.v 2) = [0x3F400000, 0xBF2AAAAB, 0x3D800000, 0] := by decide +kernel
theorem test_sqrt : lanesAfter (.sqrt 0 .primary (el 0x08 2 1 0 0 0)) (.v 2) = [0x3FB504F3, 0x3FDDB3D7, 0x40000000, 0] := by decide +kernel
theorem test_max : lanesAfter (.max 0 .primary (el 0x09 2 0 32 0 0)) (.v 2) = [0x3FC00000, 0x3F800000, 0x3F800000, 0] := by decide +kernel
theorem test_min : lanesAfter (.min 0 .primary (el 0x0A 2 0 32 0 0)) (.v 2) = [0x3F800000, 0xC0000000, 0x3E800000, 0] := by decide +kernel
theorem test_abs : lanesAfter (.abs 0 .primary (el 0x0B 2 0 0 0 0)) (.v 2) = [0x3FC00000, 0x40000000, 0x3E800000, 0] := by decide +kernel
theorem test_neg : lanesAfter (.neg 0 .primary (el 0x0C 2 0 0 0 0)) (.v 2) = [0xBFC00000, 0x40000000, 0xBE800000, 0] := by decide +kernel
theorem test_rndi : lanesAfter (.rndi 0 .primary (el 0x0E 2 0 0 0 0)) (.v 2) = [0x40000000, 0xC0000000, 0x00000000, 0] := by decide +kernel
theorem test_exp2 : lanesAfter (.exp2 0 .primary (el 0x10 17 16 0 0 0)) (.s 1) = [0x41800000, 0x41800000, 0x41800000, 0x41800000] := by decide +kernel
theorem test_log2 : lanesAfter (.log2 0 .primary (el 0x11 17 16 0 0 0)) (.s 1) = [0x40000000, 0x40000000, 0x40000000, 0x40000000] := by decide +kernel
theorem test_rsqrt : lanesAfter (.rsqrt 0 .primary (el 0x12 17 16 0 0 0)) (.s 1) = [0x3F000000, 0x3F000000, 0x3F000000, 0x3F000000] := by decide +kernel
theorem test_sigm : lanesAfter (.sigm 0 .primary (el 0x13 17 17 0 0 0)) (.s 1) = [0x3F000000, 0x3F000000, 0x3F000000, 0x3F000000] := by decide +kernel
theorem test_tanh : lanesAfter (.tanh 0 .primary (el 0x14 17 17 0 0 0)) (.s 1) = [0, 0, 0, 0] := by decide +kernel

theorem witness_SelectionAndCompares :
    [(0x0D, 2), (0x1E, 2), (0x1F, 16), (0x18, 0x1F), (0x19, 0x1D), (0x1A, 0x1E), (0x1B, 0x1F), (0x1C, 0x1D), (0x0F, 2), (0x0F, 17)].all (fun e =>
      elemOk e.1 (if e.2 = 17 then el e.1 17 16 32 0 0 else el e.1 e.2 0 1 0 1) (elem.ctx 0 .primary).pos.en) = true := by
  decide +kernel

/-- v0 < v1 holds in lanes 0 to 2, v1 < v0 in none; SEL takes A where the mask is set and B elsewhere. -/
theorem test_sel : lanesAfter (.sel 0 .primary (el 0x0D 2 0 1 0 1)) (.v 2) = [0x3FC00000, 0xC0000000, 0x3E800000, 0] := by decide +kernel
theorem test_idxc : lanesAfter (.idxc 0 .primary (el 0x1E 2 0 0 0 0)) (.v 2) = [0, 0x3F800000, 0x40000000, 0] := by decide +kernel
theorem test_idxr : lanesAfter (.idxr 0 .primary (el 0x1F 17 0 0 0 0)) (.s 1) = [0, 0, 0, 0] := by decide +kernel
theorem test_cmpeq : ((nx (exec (.cmpeq 0 .primary (el 0x18 0x1D 1 16 0 0)) elem)).ctx 0 .primary).prog.m1 = 4 := by decide +kernel
theorem test_cmpne : ((nx (exec (.cmpne 0 .primary (el 0x19 0x1D 1 16 0 0)) elem)).ctx 0 .primary).prog.m1 = 3 := by decide +kernel
theorem test_cmplt : ((nx (exec (.cmplt 0 .primary (el 0x1A 0x1E 0 32 0 0)) elem)).ctx 0 .primary).prog.m2 = 6 := by decide +kernel
theorem test_cmple : ((nx (exec (.cmple 0 .primary (el 0x1B 0x1F 1 16 0 0)) elem)).ctx 0 .primary).prog.m3 = 7 := by decide +kernel
theorem test_cmpun : ((nx (exec (.cmpun 0 .primary (el 0x1C 0x1D 0 1 0 0)) elem)).ctx 0 .primary).prog.m1 = 0 := by decide +kernel
/-- 1 and half a unit in its last place: the half stands in the extension (R141). -/
theorem test_xadd : (xaddF 0x3F800000 0 0x33800000).1 = 0x3F800000 ∧ (xaddF 0x3F800000 0 0x33800000).2.1 = 0x8000 := by decide +kernel

theorem witness_LoadAndStore :
    [0, 1].all (fun n => elemOk 0x20 (el 0x20 15 n 0 0 1) (elem.ctx 0 .primary).pos.en && elemOk 0x21 (el 0x21 n 0 0 0 1) (elem.ctx 0 .primary).pos.en) = true := by
  decide +kernel

theorem test_ld : lanesAfter (.ld 0 .primary (el 0x20 0 1 0 0 0)) (.v 0) = [0, 0, 0, 0] := by decide +kernel
theorem test_st : SMap.get (fun _ => 0) ((nx (exec (.st 0 .primary (el 0x21 1 0 0 0 0)) elem)).ctx 0 .primary).pos.out1.vals 1 = 0xC0000000 := by
  decide +kernel
theorem test_vectorNop : lanesAfter (.vectorNop 0 .primary (el 0x00 0 0 0 0 0)) (.v 0) = [0x3FC00000, 0xC0000000, 0x3E800000, 0] := by decide +kernel

def silent : State := elem.modCtx 0 .primary (fun k => { k with prog := { k.prog with m0 := 0 } })

theorem witness_ReductionInstructions :
    [0x28, 0x29, 0x2A, 0x2B, 0x2C, 0x2D, 0x2E, 0x2F, 0x30].all (fun op =>
      elemOk op (el op 16 0 0 0 0) (elem.ctx 0 .primary).pos.en && elemOk op (el op 27 0 0 0 0) (silent.ctx 0 .primary).pos.en &&
        (elem.ctx 0 .primary).lanesOf op (el op 16 0 0 0 0) != [] && (silent.ctx 0 .primary).lanesOf op (el op 27 0 0 0 0) == []) = true ∧
    elemOk 0x38 (el 0x38 63 16 0 0 0) (elem.ctx 0 .primary).pos.en = true ∧ elemOk 0x39 (el 0x39 0 16 0 0 0) (elem.ctx 0 .primary).pos.en = true := by
  decide +kernel

theorem test_rsum : (lanesAfter (.rsum 0 .primary (el 0x28 16 0 0 0 0)) (.s 0)).head? = some 0xBE800000 := by decide +kernel
theorem test_rssq : (lanesAfter (.rssq 0 .primary (el 0x29 16 0 0 0 0)) (.s 0)).head? = some 0x40CA0000 := by decide +kernel
theorem test_rmax : (lanesAfter (.rmax 0 .primary (el 0x2A 16 0 0 0 0)) (.s 0)).head? = some 0x3FC00000 := by decide +kernel
theorem test_rmin : (lanesAfter (.rmin 0 .primary (el 0x2B 16 0 0 0 0)) (.s 0)).head? = some 0xC0000000 := by decide +kernel
theorem test_ramax : (lanesAfter (.ramax 0 .primary (el 0x2C 16 0 0 0 0)) (.s 0)).head? = some 0x40000000 := by decide +kernel
theorem test_rargmax : (lanesAfter (.rargmax 0 .primary (el 0x2D 16 0 0 0 0)) (.s 0)).head? = some 0 := by decide +kernel
theorem test_rargmin : (lanesAfter (.rargmin 0 .primary (el 0x2E 16 0 0 0 0)) (.s 0)).head? = some 1 := by decide +kernel
theorem test_rmean : (lanesAfter (.rmean 0 .primary (el 0x2F 16 0 0 0 0)) (.s 0)).head? = some 0xBDAAAAAB := by decide +kernel
theorem test_rcnt : (lanesAfter (.rcnt 0 .primary (el 0x30 16 0 0 0 0)) (.s 0)).head? = some 0x40400000 := by decide +kernel
theorem test_rmean_empty :
    ((nx (exec (.rmean 0 .primary (el 0x2F 16 0 0 0 0)) silent)).ctx 0 .primary).prog.scalar 0 (.s 0) = 0x7FC00000 ∧
    ((nx (exec (.rmean 0 .primary (el 0x2F 16 0 0 0 0)) silent)).ctx 0 .primary).vec.empty = true := by decide +kernel
/-- 4.0 as FP64. -/
theorem test_stadd : (((nx (exec (.stadd 0 .primary (el 0x38 63 16 0 0 0)) elem)).ctx 0 .primary).staOf 63).val = 0x4010000000000000 := by decide +kernel
theorem test_stmax : (((nx (exec (.stmax 0 .primary (el 0x39 0 16 0 0 0)) elem)).ctx 0 .primary).staOf 0).val = 0x4010000000000000 := by decide +kernel

theorem witness_ReductionValues :
    ([(0, 0x3FC00000), (1, 0xC0000000)] : List (W32 × W32)) ≠ [] ∧ ([(0, 0x3FC00000), (1, 0xC0000000)] : List (W32 × W32)).length ≤ 128 ∧
    (([(0, 0x3FC00000), (1, 0xC0000000)] : List (W32 × W32)).all fun e => isFinite32 e.2) = true ∧ isFinite32 0x7F7FFFFF = true ∧
    isFinite32 (reduce 0x28 [(0, 0x3FC00000), (1, 0xC0000000)]).1 = true ∧ isFinite32 (reduce 0x29 [(0, 0x3FC00000), (1, 0xC0000000)]).1 = true := by
  decide +kernel

/-- The greatest finite value and the least subnormal. -/
theorem witness_RoundedToNearest :
    isFinite32 0x7F7FFFFF = true ∧ isFinite32 0x00000001 = true ∧ isFinite32 (fadd 0x7F7FFFFF 0x00000001).1 = true ∧
    isFinite32 (fsub 0x00000001 0x7F7FFFFF).1 = true ∧ isFinite32 (fmul 0x7F7FFFFF 0x00000001).1 = true ∧
    isFinite32 (ffma 0x7F7FFFFF 0x00000001 0x00000001).1 = true := by decide +kernel

/-! ## Engines -/

/-- One operand of a TENSOR in BF16: DST_FMT 7, KIND 1, SRCFMT 1, a stride of 512 bytes (Table 5-3). -/
def operand (a : Nat) : Nat := 7 * 2 ^ 419 + a * 2 ^ 320 + 512 * 2 ^ 144 + 2 ^ 116 + 2 ^ 111

/-- A TENSOR descriptor with one K tile of one element; mode 5 runs in BF16, mode 6 is reserved. -/
def tenDesc (mode : Nat) : Nat := mode * 2 ^ 370 + operand (coreA 0 0x2000) * 2 ^ 512 + operand (coreA 0 0x3000) * 2 ^ 1024

/-- A module whose core memory holds a descriptor of n bytes at 0x4000, and 2.0 and 3.0 in BF16 at 0x2000 and 0x3000. -/
def holding (n d : Nat) : State :=
  { base with mem := ((base.mem.put (ckey 0 0x4000) (leBytes n d)).put (ckey 0 0x2000) [0x00, 0x40]).put (ckey 0 0x3000) [0x40, 0x40] }

def descCmd (op : Nat) : W256 := cmd op [(64, 0x4000)]
/-- A command of that descriptor waits at HEAD. -/
def issuing (op n d : Nat) : State := at0 (holding n d) (descCmd op)

/-- A program of one instruction, VECTOR_NOP, without streams: program at 0x5000, constants at 0x6000; and one whose program lies in DRAM. -/
def vecDesc (prog : Nat) : Nat := prog * 2 ^ 448 + coreA 0 0x6000 * 2 ^ 384

/-- An UPDATE of one element: arrays in DRAM, stride 64 bytes, a shard version at 0x14000. -/
def updDesc (alg : Nat) : Nat :=
  64 * 2 ^ 1384 + alg * 2 ^ 1283 + dramA 0x10000 * 2 ^ 448 + dramA 0x11000 * 2 ^ 320 + dramA 0x12000 * 2 ^ 256 + dramA 0x13000 * 2 ^ 192 + dramA 0x14000

theorem witness_EngineQueues :
    (let s := issuing 0x10 192 (tenDesc 5); issues s slot0 (descCmd 0x10) 0x10 = true ∧
      s.descBad 0 .primary 0x10 (s.taken slot0 (descCmd 0x10)).doff = false ∧ s.tensorBad 0 .primary (s.tdesc 0 0x4000) = false) ∧
    (let s := issuing 0x10 192 (tenDesc 6); issues s slot0 (descCmd 0x10) 0x10 = true ∧
      s.descBad 0 .primary 0x10 (s.taken slot0 (descCmd 0x10)).doff = false ∧ s.tensorBad 0 .primary (s.tdesc 0 0x4000) = true) ∧
    (let s := issuing 0x13 128 (vecDesc (coreA 0 0x5000)); issues s slot0 (descCmd 0x13) 0x13 = true ∧
      s.descBad 0 .primary 0x13 (s.taken slot0 (descCmd 0x13)).doff = false) ∧
    (let s := issuing 0x14 192 (updDesc 0); issues s slot0 (descCmd 0x14) 0x14 = true ∧
      s.descBad 0 .primary 0x14 (s.taken slot0 (descCmd 0x14)).doff = false) := by
  decide +kernel

theorem test_tensor_refused :
    ((run .tensor (descCmd 0x10) (holding 192 (tenDesc 6))).cx slot0).ten.descerrcnt = 1 := by decide +kernel
theorem test_tensor_queued :
    ((run .tensor (descCmd 0x10) (holding 192 (tenDesc 5))).cx slot0).tenq.map (·.startRung) = [3] := by decide +kernel
theorem test_vec_runs :
    ((run .vec (descCmd 0x13) (holding 128 (vecDesc (coreA 0 0x5000)))).cx slot0).jobs.map (·.status) = [some 0] := by decide +kernel
/-- The shard version is the step after the command's own, beside its complement (R192). -/
theorem test_update_version :
    (run .update (descCmd 0x14) (holding 192 (updDesc 0))).mem.bytes 0x14000 8 = [1, 0, 0, 0, 0xFE, 0xFF, 0xFF, 0xFF] := by decide +kernel

/-- A vector engine with one command. -/
def engine (d : Nat) (upd : Option Nat) (tile : Nat) (started : Bool) : State :=
  (holding 128 d).modCtx 0 .primary (fun k => { k with
    vecq := [⟨0, BitVec.ofNat 1024 d, upd.map (BitVec.ofNat 1536), tile, started, 0, false, false⟩]
    jobs := [base.newJob slot0 (descCmd 0x13)] })

/-- IN0 enabled with format 9: tiles from the tensor engine. -/
def fromTensor : Nat := vecDesc (coreA 0 0x5000) + (9 * 2 ^ 12 + 2 ^ 11) * 2 ^ 512

theorem witness_VectorEngineSteps :
    ((engine (vecDesc (dramA 0x5000)) none 0 false).vdBad 0 (BitVec.ofNat 1024 (vecDesc (dramA 0x5000))) = true ∧
      ((engine 0 (some (updDesc 4)) 0 false).udBad (BitVec.ofNat 1536 (updDesc 4)) = true)) ∧
    (let d := BitVec.ofNat 1024 (vecDesc (coreA 0 0x5000))
     let s := engine (vecDesc (coreA 0 0x5000)) none 0 false
     (s.ctx 0 .primary).suspended = false ∧ s.mem.wf = true ∧ s.vdBad 0 d = false ∧ s.checkKeys (s.partD 0 .primary) (vdLoads d) = .ok ∧
       s.vdImgBad 0 d = false ∧ (s.vecProgram 0 .primary d).all (fun w => elemOk (eOp w) w (vdEn d)) = true) ∧
    (let d := BitVec.ofNat 1024 (vecDesc (coreA 0 0x5000))
     vdNt d ≤ 1 ∧ vdRso d = false ∧ 0 < vdNt d ∧ (vdOuts d).all (fun v => outFmtOk (vsFmt v)) = true ∧
       ((engine (vecDesc (coreA 0 0x5000)) none 0 true).vecStep 0 .primary).isSome = true) ∧
    (let d := BitVec.ofNat 1024 fromTensor
     let s := engine fromTensor none 0 true
     0 < vdNt d ∧ vsFmt (vdStream d 0) = 9 ∧ vsEn (vdStream d 0) = true ∧ (s.nextTile 0 .primary).isNone = true ∧ vdOuts d = [] ∧ vdTrec d = 0) := by
  decide +kernel

theorem witness_UpdateRuns :
    let d := BitVec.ofNat 1536 (updDesc 0)
    base.udBad d = false ∧ udShdr d ≠ 0 ∧
    base.checkKeys (base.partD 0 .primary) (udReads d ++ udImgWrites d ++ (if udShdr d ≠ 0 then [(aKey (udShdr d), 8)] else [])) = .ok := by
  decide +kernel

/-- One FP32 element at 0x2000, to a VQ4 image in each orientation. -/
def qDesc : Nat := 4 * 2 ^ 40 + coreA 0 0x2000 * 2 ^ 128 + coreA 0 0x8000 * 2 ^ 256 + coreA 0 0xC000 * 2 ^ 320 + 3 * 2 ^ 33 * 2 ^ 384

theorem witness_QuantWritesImages :
    ∀ op ∈ [0x11, 0x12],
    let s := issuing op 64 qDesc
    let d := BitVec.ofNat 512 (s.coreWord 0 (s.taken slot0 (descCmd op)).doff 64)
    let q := qdSource d (aKey (qdSrc d)) (aKey (qdScl d))
    issues s slot0 (descCmd op) op = true ∧ dSth (descCmd op) = false ∧ s.descBad 0 .primary op (s.taken slot0 (descCmd op)).doff = false ∧
    qdFmt d ≤ 6 ∧ s.qdBad 0 d = false ∧ s.isOwn (qdSrc d) = true ∧ aRsvd (qdSrc d) = 0 ∧ aSpace (qdSrc d) = 1 ∧ ¬(qdFmt d = 5 ∨ qdFmt d = 6) ∧
    s.checkKeys (s.pt slot0) (s.mem.srcRanges q) = .ok ∧ (s.checkRanges (s.mem.srcRanges q)).2 = ReadChk.none ∧
    (qdDests d).all (fun e => s.check (s.pt slot0) e.1 (qdImgSize d) == .ok) = true ∧
    (qdDests d).all (fun e => (qdDests d).all (fun f => e == f || decide (aKey e.1 + qdImgSize d ≤ aKey f.1 ∨ aKey f.1 + qdImgSize d ≤ aKey e.1))) = true ∧
    keysInCore 0 (s.mem.srcRanges q) = true ∧ (qdDests d).length = 2 := by
  decide +kernel

/-- One group of 32 elements of 1.0 and 3.0 at TEXP 0 has normal flags. -/
def ones : List W32 := 0x40400000 :: List.replicate 31 0x3F800000

theorem witness_HalfScaleError :
    [0, 2].all (fun fmt => [Rnd.rne, .sr].all (fun md => decide ((quantGroup fmt 0 0 md (fun _ => 0) 0 ones).flags = 0) &&
      (quantGroup fmt 0 0 md (fun _ => 0) 0 ones).recs.isEmpty && decide (effScale 0 (quantGroup fmt 0 0 md (fun _ => 0) 0 ones).vs8 ≠ 0))) = true ∧
    ones.length = 32 ∧ isSr .rne = false ∧ isSr .sr = true := by
  decide +kernel

theorem witness_PackedCodes :
    [(0, 15), (1, 8), (2, 3), (3, 1), (4, 1)].all (fun e => decide ((List.replicate 8 e.2).length % (8 / codeBits e.1) = 0) &&
      (List.replicate 8 e.2).all (fun v => decide (v < 2 ^ codeBits e.1))) = true := by
  decide +kernel

theorem test_pack : packCodes 0 [1, 2, 15, 0] = [0x21, 0x0F] ∧ packCodes 4 [1, 0, 0, 0, 0, 0, 1, 1] = [0xC1] := by decide +kernel

/-! ## Tiles, groups, completion and the stash -/

/-- A BF16 operation at the engine, in a stage, with a bank. -/
def tenOp (stage : TenStage) (acc : List W32) (rung : Nat) (started : Bool) : TenOp where
  id := 0
  desc := BitVec.ofNat 1536 (tenDesc 5)
  ptok := none
  t := 0
  acc := acc
  init := acc
  started := started
  poisoned := false
  rung := rung
  startRung := 3
  summary := {}
  stage := stage
  step := 0
  sampled := false
  stopped := false
  use := {}
  tiles := []

/-- Core 0 with that operation and its command. -/
def tiling (o : TenOp) (status : Option Byte) : State :=
  (holding 192 (tenDesc 5)).modCtx 0 .primary (fun k => { k with
    tenq := [o]
    jobs := [{ base.newJob slot0 (descCmd 0x10) with status := status }] })

/-- A bank of zeros in which only the first element is asked for. -/
def isRead : OpRead → Bool
  | .ok _ r => r == ReadChk.none
  | _ => false

def readOf : OpRead → Operand
  | .ok o _ => o
  | _ => ⟨0, 0, 0, 0, 0, 0, false, {}, [], [], none⟩

theorem read_ok {r : OpRead} (h : isRead r = true) : r = .ok (readOf r) ReadChk.none := by
  cases r <;> simp_all [isRead, readOf]

def working : State := tiling (tenOp .running [] 3 true) none
def workOp : TenOp := tenOp .running [] 3 true

theorem witness_KTileRuns :
    (let o := tenOp .running [] 3 false
     let s := tiling o none
     (s.ctx 0 .primary).tenHead = some o ∧ (s.ctx 0 .primary).suspended = false ∧ s.damaskAhead 0 = false ∧ (s.ctx 0 .primary).tenq = [o] ∧
       (s.ctx 0 .primary).exposureWaits o = false ∧ o.stage = .running ∧ tdAcc o.desc = 0 ∧ (s.ctx 0 .primary).banksWaiting < 2 ∧ o.startRung ≤ modeRung (tdMode o.desc)) ∧
    (working.ctx 0 .primary).tenHead = some workOp ∧ workOp.started = true ∧ (working.ctx 0 .primary).tenq = [workOp] ∧
    (working.ctx 0 .primary).exposureWaits workOp = false ∧ workOp.stage = .running := by
  decide +kernel

theorem witness_KTileRuns_a :
    (working.readOperand 0 .primary workOp false).2 = .ok (readOf (working.readOperand 0 .primary workOp false).2) ReadChk.none :=
  read_ok (by decide +kernel)

theorem witness_KTileRuns_b :
    let u := (working.readOperand 0 .primary workOp false).1.readOperand 0 .primary workOp true
    u.2 = .ok (readOf u.2) ReadChk.none :=
  read_ok (by decide +kernel)

theorem witness_KTileRuns_pair :
    pairOk workOp.desc (readOf (working.readOperand 0 .primary workOp false).2)
      (readOf ((working.readOperand 0 .primary workOp false).1.readOperand 0 .primary workOp true).2) = true := by decide +kernel

/-- The operation computes rung 2 from fall-back sources in DRAM, which holds zeros. -/
def fbOp : TenOp :=
  { tenOp .rung [] 2 true with
    desc := BitVec.ofNat 1536 (tenDesc 5 + dramA 0x40000 * 2 ^ 768 + dramA 0x44000 * 2 ^ 1280) }
def fbWorking : State := tiling fbOp none

theorem witness_LadderAndQueue_b :
    (fbWorking.fbOperand 0 .primary fbOp true fbOp.t).2 = .ok (readOf (fbWorking.fbOperand 0 .primary fbOp true fbOp.t).2) ReadChk.none :=
  read_ok (by decide +kernel)

theorem witness_LadderAndQueue_a :
    let u := (fbWorking.fbOperand 0 .primary fbOp true fbOp.t).1.fbOperand 0 .primary fbOp false fbOp.t
    u.2 = .ok (readOf u.2) ReadChk.none :=
  read_ok (by decide +kernel)

theorem witness_LadderAndQueue :
    (let o := tenOp .finished [0x40C00000] 3 true
     let s := tiling o none
     (s.ctx 0 .primary).tenq = [o] ∧ (s.ctx 0 .primary).tenDone = some o ∧ o.sampled = false ∧ tdHold o.desc = false ∧ (s.core 0).ftq.length < 32) ∧
    [(TenStage.ladder, 0x40C00000, true), (.ladder, 0x7F800000, false), (.computed, 0x40C00000, true), (.computed, 0x7F800000, false)].all (fun e =>
      let o := tenOp e.1 [BitVec.ofNat 32 e.2.1] 2 true
      let s := tiling o none
      (s.ctx 0 .primary).tenq == [o] && (s.ctx 0 .primary).tenHead == some o && decide (o.rung < 3) &&
        (tripCauses o.rung { o.summary with outnf := outNonfin o.acc } (s.limits (s.partD 0 .primary) o.rung) == 0) == e.2.2) = true ∧
    (fbWorking.ctx 0 .primary).tenHead = some fbOp ∧ (fbWorking.ctx 0 .primary).suspended = false ∧ fbWorking.damaskAhead 0 = false ∧
    (fbWorking.ctx 0 .primary).exposureWaits fbOp = false ∧
    (fbWorking.job 0 .primary fbOp.id).map (fun j => (j.errs, j.outst, j.queue, j.timedOut)) = some ([], 0, [], false) := by
  refine ⟨by decide +kernel, by decide +kernel, by decide +kernel, by decide +kernel, by decide +kernel, by decide +kernel, by decide +kernel⟩

theorem test_queue_entry :
    ((nx (exec (.finishedTileQueueEntry 0 .primary) (tiling (tenOp .finished [0x40C00000] 3 true) none))).core 0).ftq.map (fun f => (f.acc, f.rung)) =
      [([0x40C00000], 3)] := by decide +kernel
theorem test_ladder_trips :
    ((nx (exec (.ladderSequence 0 .primary) (tiling (tenOp .ladder [0x7F800000] 2 true) none))).ctx 0 .primary).tenq.map (fun o => (o.stage, o.rung)) =
      [(.rung, 3)] := by decide +kernel
theorem test_ladder_passes :
    ((nx (exec (.ladderSequence 0 .primary) (tiling (tenOp .ladder [0x40C00000] 2 true) none))).ctx 0 .primary).tenq.map (·.stage) = [.finished] := by
  decide +kernel

/-- A group with its complements; and a group of cores 0 and 1 of this module, installed, with a COLL at HEAD. -/
def grp (gid : W16) (ms : List W32) : Group :=
  ⟨gid, 0, ms, 0, 0, 0, 0, [], [], 0, ~~~(Group.dirValue gid 0 ms.length 0), ms.map (~~~ ·)⟩
def grouped (d : Nat) : State :=
  at0 (((holding 64 d).modPart 0 (fun q => { q with groups := [grp 5 [0x10000, 0x10001]] })).setDN (dkx 0x2640 0 3) 2) (descCmd 0x15)

/-- A BARRIER of group 5 with its scratch buffer at 0x100000 (Table 10-5). -/
def barrier : Nat := coreA 0 0x100000 * 2 ^ 320 + 2 ^ 152 + 5 * 2 ^ 136 + 6 * 2 ^ 124

/-- A SYNCDUMP of 64 bytes to DRAM at 0x20000. -/
def dumpDesc : Nat := dramA 0x20000 * 2 ^ 448 + 64 * 2 ^ 416

theorem witness_CallsAndDumps :
    (let s := grouped barrier
     let d := BitVec.ofNat 512 (s.coreWord 0 (s.taken slot0 (descCmd 0x15)).doff 64)
     issues s slot0 (descCmd 0x15) 0x15 = true ∧ s.districtCalls (districtOf 0) < 8 ∧
       s.descBad 0 .primary 0x15 (s.taken slot0 (descCmd 0x15)).doff = false ∧ s.memberOf (s.pt slot0) (cdGid d) 0 = some (0, 2) ∧
       s.badGroup (s.pt slot0) (cdGid d) = false ∧ s.collBad (some 2) d = false ∧ s.collAccess (s.pt slot0) 0 2 d = .ok ∧ (s.part (s.pt slot0)).failed.contains ((0 : CoreId), cdGid d) = false) ∧
    (let s := issuing 0x17 64 dumpDesc
     let d := BitVec.ofNat 512 (s.coreWord 0 (s.taken slot0 (descCmd 0x17)).doff 64)
     issues s slot0 (descCmd 0x17) 0x17 = true ∧ s.descBad 0 .primary 0x17 (s.taken slot0 (descCmd 0x17)).doff = false ∧
       s.reportOk (s.pt slot0) (sdAddr d) 1 = true ∧ s.objs = [] ∧ 64 ≤ s.ownedRoom (s.pt slot0) (aKey (sdAddr d)) (sdSize d) ∧ bitAt d 0 = false) := by
  decide +kernel

theorem test_coll_accepted : ((run .coll (descCmd 0x15) (grouped barrier)).part 0).calls.length = 1 := by decide +kernel
theorem test_syncdump : (run .syncdump (descCmd 0x17) (holding 64 dumpDesc)).mem.word 0x20000 4 = 0x00015344 := by decide +kernel
/-- 2.0 x 3.0 in BF16 (R99). -/
theorem test_kTile_element : (accBf16 (0, {}) (0x40000000 :: List.replicate 127 0) (0x40400000 :: List.replicate 127 0)).1 = 0x40C00000 := by
  decide +kernel

/-- A group of one add waits in DQ, and the primary context has nothing to do. -/
def idling : State :=
  (posting.modStream 0 .s0 (fun t => { t with tail := 0 })).modCore 0 (fun k => { k with
    idleCyc := 16
    quietCyc := 256
    dq := { k.dq with groups := [[⟨cmd 0x21 [(64, objAddr 0 3), (128, 4)], 0, 0, false⟩]] } })

theorem witness_GroupsAndFiller :
    ((idling.core 0).dq.isOpen = false ∧ (idling.core 0).dq.groups ≠ [] ∧ idling.openCond 0 = some 2) ∧
    (idling.primaryBusy 0 = false ∧ idling.fillerBarred 0 = false ∧ (idling.ctx 0 .filler).filldelay.toNat ≤ (idling.core 0).idleCyc) ∧
    base.primaryReady 0 = true := by
  decide +kernel

theorem test_dqGroupOpen : ((nx (exec (.dqGroupOpen 0) idling)).core 0).dq.idledraws = 1 := by decide +kernel
theorem test_fillerAdmit : ((nx (exec (.fillerAdmit 0) idling)).core 0).admitted = true := by decide +kernel
theorem test_fillerYield : ((nx (exec (.fillerYield 0) (base.modCore 0 (fun k => { k with admitted := true })))).core 0).admitted = false := by
  decide +kernel

/-- A finished copy, with a status. -/
def finished (st : Byte) (cont : Bool) : State :=
  base.modCtx 0 .primary (fun k => { k with
    errcont := cont
    jobs := [{ base.newJob slot0 copy64 with status := some st }] })

theorem witness_CommandCompletes :
    [(0x00, false), (0x05, false), (0x02, true), (0x02, false), (0x0A, false)].all (fun e => let s := finished e.1 e.2
      ((s.job 0 .primary 0).map (fun j => (j.id, j.status))) == some (0, some e.1) && (s.stash 0).waits.isEmpty && !(s.ctx 0 .primary).errSet) = true := by
  decide +kernel

theorem test_commandComplete :
    ((nx (exec (.commandComplete 0 .primary 0) (finished 0x00 false))).ctx 0 .primary).tok 5 = 1 ∧
    ((nx (exec (.commandComplete 0 .primary 0) (finished 0x02 false))).ctx 0 .primary).err = 0x02180000 := by decide +kernel

/-- A stash with one entry of 64 bytes, layer 3, index 9, in a state, that spills to DRAM at 0x100000; AUTOPF is off. -/
def stashed (st : StashSt) (refs : Nat) : State :=
  base.modStash 0 (fun t => { t with
    ctl := 0x7FFF0091
    spillbase := 0x100001
    head := 64
    entries := [⟨3, 9, 64, st, 0, 0, 0, refs, false⟩]
    nextSeq := 1 })

theorem quiet_ok {t : Stash} (h : (!stOff t && t.waits.isEmpty && decide (t.entries.map (fun e => (e.layer, e.entry))).Nodup &&
    t.entries.all (fun e => !e.freed)) = true) : t.Quiet := by
  simp only [Bool.and_eq_true, Bool.not_eq_true', List.isEmpty_iff, decide_eq_true_eq, List.all_eq_true] at h
  exact ⟨h.1.1.1, h.1.1.2, h.1.2, h.2⟩

theorem copies_ok {s : State} {p : PartId} {src dst len : Nat} (h : ((piecesOf 512 (aOff (keyAddr dst)) len).all (fun e =>
      s.check p (keyAddr src + BitVec.ofNat 64 e.1) e.2 == .ok && s.check p (keyAddr dst + BitVec.ofNat 64 e.1) e.2 == .ok) &&
    decide (src + len ≤ dst ∨ dst + len ≤ src) && (unitsOf src len).all (fun u => s.mem.unit u != .raw) &&
    decide (src % 64 = 0 ∧ dst % 64 = 0 ∧ len % 64 = 0 ∧ 0 < len) && s.mem.wf) = true) : s.Copies p src dst len := by
  simp only [Bool.and_eq_true, decide_eq_true_eq, List.all_eq_true, beq_iff_eq, bne_iff_ne, ne_eq] at h
  exact ⟨h.1.1.1.1, h.1.1.1.2, h.1.1.2, h.1.2, h.2⟩

/-- A stash command for layer 3: an entry, core memory at 0x2000, 64 bytes, ONE. -/
def stCmd (op entry : Nat) : W256 := cmd op [(64, 0x2000), (96, 3), (112, entry), (128, 63), (144, 1)]

theorem witness_StashCommands_write :
    let s := at0 (stashed .resident 1) (stCmd 0x28 10)
    let b := s.stash 0
    b.Quiet ∧ srcCtx slot0.src = .primary ∧ (s.taken slot0 (stCmd 0x28 10)).held = false ∧ s.Issues slot0 (stCmd 0x28 10) 0x28 ∧
    stFind b (tLayer (stCmd 0x28 10)) (tEntry (stCmd 0x28 10)) = none ∧ stSlot b = some 1 ∧ stPlace b (tLen (stCmd 0x28 10)) = some 64 ∧
    tAddr (stCmd 0x28 10) + tLen (stCmd 0x28 10) ≤ 0x400000 ∧
    s.check (s.pt slot0) (coreAddr 0 (tAddr (stCmd 0x28 10))) (tLen (stCmd 0x28 10)) = .ok ∧
    s.Copies (s.pt slot0) (ckey 0 (tAddr (stCmd 0x28 10))) (stRingKey 0 b 64) (tLen (stCmd 0x28 10)) :=
  ⟨quiet_ok (by decide +kernel), rfl, by decide +kernel, issues_ok (by decide +kernel), by decide +kernel, by decide +kernel, by decide +kernel,
    by decide +kernel, by decide +kernel, copies_ok (by decide +kernel)⟩

theorem witness_StashCommands_read :
    let e : StEntry := ⟨3, 9, 64, .resident, 0, 0, 0, 1, false⟩
    let s := at0 (stashed .resident 1) (stCmd 0x29 9)
    let b := s.stash 0
    s.Issues slot0 (stCmd 0x29 9) 0x29 ∧ stFind b (tLayer (stCmd 0x29 9)) (tEntry (stCmd 0x29 9)) = some e ∧ e.st ≠ .filling ∧ stAuto b = false ∧
    tAddr (stCmd 0x29 9) % 64 = 0 ∧ tAddr (stCmd 0x29 9) + e.len ≤ 0x400000 ∧
    s.Copies (s.pt slot0) (stDataKey 0 b e) (ckey 0 (tAddr (stCmd 0x29 9))) e.len :=
  ⟨issues_ok (by decide +kernel), by decide +kernel, by decide +kernel, by decide +kernel, by decide +kernel, by decide +kernel,
    copies_ok (by decide +kernel)⟩

theorem witness_StashCommands_others :
    let s := fun op => at0 (stashed .resident 1) (stCmd op 9)
    let u := at0 (stashed .spilled 0) (stCmd 0x2A 9)
    ((s 0x2A).Issues slot0 (stCmd 0x2A 9) 0x2A ∧ ((s 0x2A).stash 0).entries.all (fun e => e.st != .spilled) = true) ∧
    (u.Issues slot0 (stCmd 0x2A 9) 0x2A ∧ (u.stash 0).Quiet ∧ (u.stash 0).entries = [⟨3, 9, 64, .spilled, 0, 0, 0, 0, false⟩] ∧ 64 ≤ stSize (u.stash 0)) ∧
    (s 0x2B).Issues slot0 (stCmd 0x2B 9) 0x2B ∧ (s 0x2C).Issues slot0 (stCmd 0x2C 9) 0x2C ∧ (s 0x2D).Issues slot0 (stCmd 0x2D 9) 0x2D ∧
    (stFind ((s 0x2D).stash 0) (tLayer (stCmd 0x2D 9)) (tEntry (stCmd 0x2D 9))).isSome = true :=
  ⟨⟨issues_ok (by decide +kernel), by decide +kernel⟩,
    ⟨issues_ok (by decide +kernel), quiet_ok (by decide +kernel), by decide +kernel, by decide +kernel⟩, issues_ok (by decide +kernel),
    issues_ok (by decide +kernel), issues_ok (by decide +kernel), by decide +kernel⟩

theorem test_stwrite : ((run .stwrite (stCmd 0x28 10) (stashed .resident 1)).stash 0).entries.map (fun e => (e.entry, e.off)) =
    [(9, 0), (10, 64)] := by decide +kernel
theorem test_stread : ((run .stread (stCmd 0x29 9) (stashed .resident 1)).stash 0).entries.map (·.refs) = [2] := by decide +kernel
theorem test_stpref : ((run .stpref (stCmd 0x2A 9) (stashed .spilled 0)).stash 0).entries.map (·.st) = [.filling] := by decide +kernel
theorem test_stpin : ((run .stpin (stCmd 0x2B 9) (stashed .resident 1)).stash 0).entries.map (·.refs) = [2] := by decide +kernel
theorem test_stunpin : ((run .stunpin (stCmd 0x2C 9) (stashed .resident 1)).stash 0).entries.map (·.refs) = [0] := by decide +kernel
theorem test_stfree : ((run .stfree (stCmd 0x2D 9) (stashed .resident 1)).stash 0).entries.map (·.freed) = [true] := by decide +kernel

theorem witness_StashController :
    let e (st : StashSt) : StEntry := ⟨3, 9, 64, st, 0, 0, 0, 0, false⟩
    let s (st : StashSt) : State := (stashed st 0).modStash 0 (fun t => { t with size := 0x10000 })
    ((s .resident).stash 0).Quiet ∧ stFind ((s .resident).stash 0) 3 9 = some (e .resident) ∧ stVictim ((s .resident).stash 0) = some (e .resident) ∧
    stSpen ((s .resident).stash 0) = true ∧ stFree ((s .resident).stash 0) < stLowater ((s .resident).stash 0) ∧
    (s .resident).check ((s .resident).partD 0 .primary) (keyAddr (mkey 0 (stSpillOff ((s .resident).stash 0) 0))) 64 = .ok ∧
    ((s .spilling).stash 0).Quiet ∧ stFind ((s .spilling).stash 0) 3 9 = some (e .spilling) ∧
    (s .spilling).Copies ((s .spilling).partD 0 .primary) (stRingKey 0 ((s .spilling).stash 0) 0) (mkey 0 (stSpillOff ((s .spilling).stash 0) 0)) 64 ∧
    ((s .filling).stash 0).Quiet ∧ stFind ((s .filling).stash 0) 3 9 = some (e .filling) ∧
    (s .filling).Copies ((s .filling).partD 0 .primary) (mkey 0 (stSpillOff ((s .filling).stash 0) 0)) (stRingKey 0 ((s .filling).stash 0) 0) 64 :=
  ⟨quiet_ok (by decide +kernel), by decide +kernel, by decide +kernel, by decide +kernel, by decide +kernel, by decide +kernel,
    quiet_ok (by decide +kernel), by decide +kernel, copies_ok (by decide +kernel), quiet_ok (by decide +kernel), by decide +kernel,
    copies_ok (by decide +kernel)⟩

theorem test_stashSpill : ((nx (exec (.stashSpill 0) ((stashed .resident 0).modStash 0 (fun t => { t with size := 0x10000 })))).stash 0).entries.map (·.st) =
    [.spilling] := by decide +kernel
theorem test_spillDone : ((nx (exec (.spillDone 0 3 9) (stashed .spilling 0))).stash 0).entries.map (·.st) = [.spilled] := by decide +kernel
theorem test_refillDone : ((nx (exec (.refillDone 0 3 9) (stashed .filling 0))).stash 0).entries.map (·.st) = [.resident] := by decide +kernel

/-! ## Writes of the core control window -/

def planned : State := base.setDN (dkx 0x2330 0 3) 2
/-- The context is not enabled, and its vote group has a member at another module. -/
def unready : State :=
  (planned.modCtx 0 .primary (fun k => { k with en := false })).modPart 0 (fun q => { q with groups := [grp 0xFFFF [0x18000, 0x28000]] })

theorem witness_RegisterWrites :
    base.offered 0 = true ∧ base.partOfCtx 0 (streamCtx .s0) = some 0 ∧ base.partOfCtx 0 .primary = some 0 ∧
    (planned.offered 0 = true ∧ planned.partOfCtx 0 .primary = some 0 ∧ planned.dN (dkx 0x2330 0 3) = 2) ∧ base.dN (dkx 0x2330 0 3) ≠ 2 ∧
    (base.stash 0).waits = [] ∧ (wReg (0x604 : BitVec 22).toNat).owner = some .primary ∧ base.partOfCtx 0 .primary ≠ some 1 ∧
    (∀ w, ∀ k ∈ winKeys w, planned.d k = planned.df k) ∧ (unready.ctx 0 .primary).en = false ∧ planned.digestsAgree 0 = true ∧ unready.faults = [] := by
  decide +kernel

/-- Whatever digest the peer answers (log entry 82), the two ends agree or they differ. -/
theorem witness_RegisterWrites_digests :
    unready.offered 0 = true ∧ unready.partOfCtx 0 .primary = some 0 ∧ unready.dN (dkx 0x2330 0 3) = 2 ∧
    (unready.digestsAgree 0 = true ∨ unready.digestsAgree 0 = false) :=
  ⟨by decide +kernel, by decide +kernel, by decide +kernel, by cases unready.digestsAgree 0 <;> simp⟩

theorem test_tailWrite : ((nx (exec (.tailWrite 0 .s0 0 63) base)).stream 0 .s0).tail = 63 := by decide +kernel
theorem test_streamEnable : ((nx (exec (.streamEnable 0 .s0 0 0) base)).stream 0 .s0).en = false := by decide +kernel
theorem test_contextEnable : ((nx (exec (.contextEnable 0 .primary 0 3) planned)).ctx 0 .primary).errcont = true := by decide +kernel
theorem test_resume : ((nx (exec (.resume 0 .primary 0 1) (base.modCtx 0 .primary (fun k => { k with halted := true })))).ctx 0 .primary).halted = false := by
  decide +kernel
theorem test_staCfgWrite : (((nx (exec (.staCfgWrite 0 .primary 0 63 .whole (2 ^ 33 + 2 ^ 35 + 7)) base)).ctx 0 .primary).staOf 63).kind = 2 := by
  decide +kernel
theorem test_stashConfigWrite : ((nx (exec (.stashConfigWrite 0 0 0x2004 0x12345678) base)).stash 0).base = 0x340000 := by decide +kernel
theorem test_registerWrite : ((nx (exec (.registerWrite 0 0 0x604 77) base)).core 0).dq.idlethr = 77 := by decide +kernel
/-- Partition 1 may not write it: the write is counted (R179). -/
theorem test_registerWrite_refused : (nx (exec (.registerWrite 0 1 0x604 77) base)).dN (dk 0x2300 4) = 1 := by decide +kernel

/-! ## The fabric -/

/-- Port 0 and the G port 8 active. -/
def fab : State := (base.setDN (ckPort 0 1) 2).setDN (ckPort 8 1) 2

/-- A packet of module 2 of the own rack for this module, in partition 0. -/
def pkt (opc tc : Nat) (psn : Byte) (a : Nat) (data : List W128) (port : Option PortId) (lenM1 : Nat) : Packet :=
  ⟨mkHdr 2 7 psn lenM1 opc tc 0 0 false (BitVec.ofNat 64 a), data, port⟩

theorem fromPlane_ok {s : State} {p : Packet} {n : PortId} (h : every [decide (s.ownDev ≠ 0xFFFF), hchkOk p.hdr, pDst p.hdr == s.ownDev,
    p.port == some n, decide (n.val < 8), decide (rackOf (pSrc p.hdr) = rackOf s.ownDev), decide (pTc p.hdr ≠ 2), s.portActive n,
    decide (33 ≤ (s.portSt n).credit 12), (s.portSt n).txq.isEmpty, !(s.portSt n).swapping] = true) : s.FromPlane p n := by
  simp only [every_cons_ok, every_nil_ok, and_true, decide_eq_true_eq, beq_iff_eq, List.isEmpty_iff, Bool.not_eq_true'] at h
  have q := h.2.2.2
  exact {
    here := ⟨h.1, h.2.1, h.2.2.1⟩
    port := q.1
    plane := q.2.1
    rack := q.2.2.1
    tc := q.2.2.2.1
    active := q.2.2.2.2.1
    credit := q.2.2.2.2.2.1
    clear := q.2.2.2.2.2.2 }

def wrPkt : Packet := pkt 1 1 0 (devA 1 1 0x2000) (List.replicate 4 0x0123) (some 0) 3
/-- A call that wrote at 0x2000 of core 0 has ended early. -/
def ended : State := fab.modPart 0 (fun q => { q with lost := [(ckey 0 0x2000, 64)] })
def wrBad : Packet := pkt 1 1 0 (devA 1 1 0x500000) (List.replicate 4 0x0123) (some 0) 3
def wrOdd : Packet := pkt 1 1 0 (devA 1 2 0x2000) (List.replicate 4 0x0123) (some 0) 3
def rdPkt : Packet := pkt 2 0 0 (devA 1 1 0x2000) [] (some 0) 31
def syncRdPkt : Packet := pkt 2 0 0 (devA 1 2 (8 * 4095)) [] (some 0) 0
def hdrWr : Packet := pkt 1 1 0xFE (devA 1 1 0x2000) [0x55] (some 0) 0
def hdrRd : Packet := pkt 2 0 0xFE (devA 1 1 0x2000) [] (some 0) 0
def saddPkt : Packet := pkt 6 1 0 (devA 1 2 (8 * 4095)) [5] (some 0) 0
def ssetPkt (kind : Nat) : Packet := pkt 7 1 0 (devA 1 2 (8 * 4095)) [BitVec.ofNat 128 (5 + kind * 2 ^ 73)] (some 0) 0
def mrdPkt : Packet := pkt 0x10 0 0 (devA 1 4 0x600) [] (some 0) 3
def mwrPkt : Packet := pkt 0x11 1 0 (devA 1 4 0x600) [BitVec.ofNat 128 (77 * 2 ^ 32)] (some 0) 0

theorem witness_FabricRequests_write :
    (fab.FromPlane wrPkt 0 ∧ fab.FromPlane wrBad 0 ∧ fab.FromPlane wrOdd 0 ∧ ended.FromPlane wrPkt 0) ∧
    [(wrPkt, Chk.ok), (wrBad, .part), (wrOdd, .addr)].all (fun e => pOpc e.1.hdr == 0x01 && !isHeader e.1 && !isMail e.1 && !fab.lateData e.1 &&
      fab.reqCheck e.1 [0, 1] 64 == e.2) = true ∧
    (isMail wrPkt = false ∧ ended.lateData wrPkt = true) :=
  ⟨⟨fromPlane_ok (by decide +kernel), fromPlane_ok (by decide +kernel), fromPlane_ok (by decide +kernel), fromPlane_ok (by decide +kernel)⟩,
    by decide +kernel, by decide +kernel⟩

theorem witness_FabricRequests_read :
    (fab.FromPlane rdPkt 0 ∧ pOpc rdPkt.hdr = 0x02 ∧ isHeader rdPkt = false ∧ isSyncRead rdPkt = false ∧ fab.reqCheck rdPkt [0, 1] 512 = .ok ∧
      (∀ u ∈ unitsOf (aKey (pAddr rdPkt.hdr)) 512, fab.mem.unit u = .clean) ∧ fab.mem.wf = true) ∧
    (fab.FromPlane syncRdPkt 0 ∧ pOpc syncRdPkt.hdr = 0x02 ∧ isHeader syncRdPkt = false ∧ isSyncRead syncRdPkt = true ∧
      aOff (pAddr syncRdPkt.hdr) % 8 = 0 ∧ fab.check 0 (pAddr syncRdPkt.hdr) 8 = .ok ∧ fab.OwnersOk) :=
  ⟨⟨fromPlane_ok (by decide +kernel), by decide +kernel, by decide +kernel, by decide +kernel, by decide +kernel, all_ok (by decide +kernel),
    by decide +kernel⟩, fromPlane_ok (by decide +kernel), by decide +kernel, by decide +kernel, by decide +kernel, by decide +kernel,
    by decide +kernel, fun e h => (by cases h)⟩

theorem witness_FabricRequests_others :
    (fab.FromPlane hdrWr 0 ∧ fab.FromPlane hdrRd 0 ∧ isHeader hdrWr = true ∧ isHeader hdrRd = true ∧ fab.reqCheck hdrWr [0, 1] 4096 = .ok ∧
      pOpc hdrWr.hdr = 0x01 ∧ pOpc hdrRd.hdr = 0x02) ∧
    (fab.FromPlane saddPkt 0 ∧ fab.FromPlane (ssetPkt 0) 0 ∧ aSpace (pAddr saddPkt.hdr) = 2 ∧
      aOff (pAddr saddPkt.hdr) = (0 : CoreId).val * 2 ^ 15 + 8 * 4095 ∧ fab.check 0 (pAddr saddPkt.hdr) 8 = .ok ∧ fab.OwnersOk ∧
      (∀ st, waitOn (fab.stream 0 st) 4095 = none) ∧ pOpc saddPkt.hdr = 0x06 ∧ pOpc (ssetPkt 0).hdr = 0x07 ∧
      setKind (fld ((ssetPkt 0).data.headD 0) 73 2) = some .set) ∧
    (fab.FromPlane mrdPkt 0 ∧ aSpace (pAddr mrdPkt.hdr) = 4 ∧ aOff (pAddr mrdPkt.hdr) % 16 = 0 ∧ fab.check 0 (pAddr mrdPkt.hdr) 64 = .ok ∧
      fab.winCheck (winCore (pAddr mrdPkt.hdr)) 0 (winOff (pAddr mrdPkt.hdr)) 64 false = .ok ∧ pOpc mrdPkt.hdr = 0x10) ∧
    (fab.FromPlane mwrPkt 0 ∧ aSpace (pAddr mwrPkt.hdr) = 4 ∧ winOff (pAddr mwrPkt.hdr) = 0x600 ∧ fab.check 0 (pAddr mwrPkt.hdr) 16 = .ok ∧
      fab.offered (winCore (pAddr mwrPkt.hdr)) = true ∧ fab.partOfCtx (winCore (pAddr mwrPkt.hdr)) .primary = some (pPart mwrPkt.hdr) ∧
      pOpc mwrPkt.hdr = 0x11) :=
  ⟨⟨fromPlane_ok (by decide +kernel), fromPlane_ok (by decide +kernel), by decide +kernel, by decide +kernel, by decide +kernel, by decide +kernel,
      by decide +kernel⟩,
    ⟨fromPlane_ok (by decide +kernel), fromPlane_ok (by decide +kernel), by decide +kernel, by decide +kernel, by decide +kernel, fun e h => (by cases h),
      not_waiting _ _ _ (by decide +kernel), by decide +kernel, by decide +kernel, by decide +kernel⟩,
    ⟨fromPlane_ok (by decide +kernel), by decide +kernel, by decide +kernel, by decide +kernel, by decide +kernel, by decide +kernel⟩,
    fromPlane_ok (by decide +kernel), by decide +kernel, by decide +kernel, by decide +kernel, by decide +kernel, by decide +kernel, by decide +kernel⟩

theorem test_sadd : ((nx (exec (.sadd saddPkt) fab)).obj 0 4095).count = 5 := by decide +kernel
theorem test_sset : ((nx (exec (.sset (ssetPkt 0)) fab)).obj 0 4095).count = 5 := by decide +kernel

/-- A loss notice of module 2's core 3, with its new epoch 9 (R297). -/
def lossPkt : Packet := pkt 0x14 4 0 (devA 1 0 0) [BitVec.ofNat 128 (8 + (2 + 3 * 2 ^ 16 + 9 * 2 ^ 32) * 2 ^ 64)] (some 0) 0

/-- S0 of core 0 has waited for object 3. -/
def waiting : State :=
  (fab.modStream 0 .s0 (fun t => { t with wait := some (.sync 0 3 0 7 0 0 false 1000) })).modCtx 0 .primary (fun k => { k with
    jobs := [base.newJob slot0 (cmd 0x23 [])]
    step := 1 })

theorem witness_LossAndWatchdog :
    fab.Arrives lossPkt ∧ isMsg lossPkt 0x08 = true ∧ fab.staleTerm lossPkt = false ∧ (fab.setDN (dk 0x2530 2) 1).staleTerm lossPkt = true ∧ (∀ c st, (fab.stream c st).wait = none) ∧
    ((0 : PartId) = waiting.partD 0 (streamCtx .s0) ∧ (waiting.stream 0 .s0).wait = some (.sync 0 3 0 7 0 0 false 1000) ∧
      waiting.d (dkx 0x2900 0 3) = 0 ∧ waiting.faults = [] ∧ waiting.hasRun 0 = true) := by
  refine ⟨⟨by decide +kernel, by decide +kernel, by decide +kernel⟩, by decide +kernel, by decide +kernel, by decide +kernel,
    no_waits _ (by decide +kernel), by decide +kernel⟩

theorem test_lossNotice :
    ((nx (exec (.lossNotice lossPkt) (fab.setObj 0 7 { fab.obj 0 7 with
      owner := ownerWord 2 3 false
      ownerN := ~~~(ownerWord 2 3 false) }))).obj 0 7).epoch = 9 := by decide +kernel
theorem test_syncWatchdog : ((nx (exec (.syncWatchdogExpiry 0 .s0) waiting)).ctx 0 .primary).halted = true := by decide +kernel

/-- A response to request 7 of core 0: opcode, status, data. -/
def rsp (opc status : Nat) (data : List W128) : Packet := pkt opc 3 0 (devA 1 0 (status * 2 ^ 26)) data (some 0) (data.length - 1)

/-- A command of core 0 that waits for n responses, request 7 among them, with the use of its data. -/
def asking (sink : Sink) (n : Nat) : State :=
  { (fab.modCtx 0 .primary (fun k => { k with
      jobs := [{ base.newJob slot0 copy64 with
        outst := n }] })) with
    reqs := [(reqKey 0 0 7, some ⟨0, .primary, 0, BitVec.ofNat 64 (devA 2 1 0x2000), sink⟩)] }

def askedJob (n : Nat) : Job := { base.newJob slot0 copy64 with
  outst := n }

theorem awaits_ok {s : State} {r : Req} {j : Job} (h : every [s.job r.core r.ctx r.job == some j, j.engine == .transfer, decide (j.work = .none),
    j.status == none, (s.ctx r.core .primary).jobs.all (fun i => i.queue.isEmpty), (s.ctx r.core .filler).jobs.all (fun i => i.queue.isEmpty)] = true) :
    s.Awaits r j := by
  simp only [every_cons_ok, every_nil_ok, and_true, decide_eq_true_eq, beq_iff_eq, List.all_eq_true, List.isEmpty_iff] at h
  exact {
    job := h.1
    engine := h.2.1
    work := h.2.2.1
    open' := h.2.2.2.1
    queues := fun x => by
      cases x
      · exact h.2.2.2.2.1
      · exact h.2.2.2.2.2 }

def reqOf (sink : Sink) : Req := ⟨0, .primary, 0, BitVec.ofNat 64 (devA 2 1 0x2000), sink⟩

theorem witness_FabricResponses :
    (fab.Arrives (rsp 3 0 [1]) ∧ fab.req (rspKey (rsp 3 0 [1])) = none) ∧
    (let s := asking (.mem (ckey 0 0x2000) 1) 2
     s.Arrives (rsp 3 0 [1]) ∧ s.Awaits (reqOf (.mem (ckey 0 0x2000) 1)) (askedJob 2) ∧ s.req (rspKey (rsp 3 0 [1])) = some (reqOf (.mem (ckey 0 0x2000) 1)) ∧
       s.check (s.partD 0 .primary) (keyAddr (ckey 0 0x2000)) 16 = .ok) ∧
    (let s := asking .ack 1
     s.Arrives (rsp 4 0 []) ∧ s.Awaits (reqOf .ack) (askedJob 1) ∧ s.req (rspKey (rsp 4 0 [])) = some (reqOf .ack) ∧
       (askedJob 1).errs = [] ∧ (askedJob 1).fpoison = [] ∧ (askedJob 1).timedOut = false ∧ s.faults = []) ∧
    (let s := asking .ack 2
     s.Arrives (rsp 5 2 []) ∧ s.Awaits (reqOf .ack) (askedJob 2) ∧ s.req (rspKey (rsp 5 2 [])) = some (reqOf .ack)) ∧
    (let s := asking .ack 1
     s.Arrives (rsp 5 1 []) ∧ s.req (rspKey (rsp 5 1 [])) = some (reqOf .ack) ∧ rspStatus (rsp 5 1 []) ≠ 2) ∧
    ((asking .ack 1).req (reqKey (0 : Fin 4).val (0 : Byte).toNat (7 : BitVec 12).toNat) = some (reqOf .ack) ∧
      (asking .ack 1).req (reqKey (0 : Fin 4).val (0 : Byte).toNat (8 : BitVec 12).toNat) = none) :=
  ⟨⟨⟨by decide +kernel, by decide +kernel, by decide +kernel⟩, by decide +kernel⟩,
    ⟨⟨by decide +kernel, by decide +kernel, by decide +kernel⟩, awaits_ok (by decide +kernel), by decide +kernel, by decide +kernel⟩,
    ⟨⟨by decide +kernel, by decide +kernel, by decide +kernel⟩, awaits_ok (by decide +kernel), by decide +kernel, by decide +kernel, by decide +kernel,
      by decide +kernel, by decide +kernel⟩,
    ⟨⟨by decide +kernel, by decide +kernel, by decide +kernel⟩, awaits_ok (by decide +kernel), by decide +kernel⟩,
    ⟨⟨by decide +kernel, by decide +kernel, by decide +kernel⟩, by decide +kernel, by decide +kernel⟩, by decide +kernel, by decide +kernel⟩

def jobAfter (i : Instr) (s : State) : Option (Option Byte × Nat) := ((nx (exec i s)).job 0 .primary 0).map (fun j => (j.status, j.outst))

theorem test_rdr : jobAfter (.rdr (rsp 3 0 [1])) (asking (.mem (ckey 0 0x2000) 1) 2) = some (none, 1) ∧
    (nx (exec (.rdr (rsp 3 0 [1])) (asking (.mem (ckey 0 0x2000) 1) 2))).mem.byte (ckey 0 0x2000) = 1 := by decide +kernel
theorem test_mrr : jobAfter (.mrr (rsp 0x12 0 [1])) (asking (.mem (ckey 0 0x2000) 1) 2) = some (none, 1) := by decide +kernel
theorem test_ack : jobAfter (.ack (rsp 4 0 [])) (asking .ack 1) = some (some 0x00, 0) := by decide +kernel
theorem test_err : jobAfter (.err (rsp 5 1 [])) (asking .ack 1) = some (some 0x02, 0) := by decide +kernel
theorem test_responseTimeout : jobAfter (.responseTimeout ⟨0, 0, 7⟩) (asking .ack 1) = some (some 0x06, 0) := by decide +kernel

/-- A response of module 2 for module 3, in at G port 8. -/
def fwdPkt : Packet := pkt 4 3 0 (devA 3 0 0) [] (some 8) 0

/-- Partition 0's reservation at rack 0 for plane 0 of group 5 is pending, and another one. -/
def reserving : State :=
  fab.modPart 0 (fun q => { q with groups := [{ grp 5 [0x10000, 0x10001] with pendingRes := [(0, 0), (0, 1)] }] })

def outcomePkt : Packet := pkt 0x14 4 0 (devA 1 0 0) [BitVec.ofNat 128 (0x20 + (5 + 2 ^ 40 + 9 * 2 ^ 48) * 2 ^ 64)] (some 0) 0

/-- A call of core 0 in group 5 that waits for the switch's result of segment 0 of 32 bytes. -/
def redCall0 : Call :=
  ⟨0, .primary, 0, 5, 0, 0, BitVec.ofNat 512 (8 * 2 ^ 152 + 5 * 2 ^ 136), 0, 0, 0, [], [], none, [], [], [], [], [], [], [⟨0, 32, true⟩], 1, [], [], [], [], false, false⟩
def reducing (failed : List (CoreId × W16)) (calls : List Call) : State :=
  fab.modPart 0 (fun q => { q with
    groups := [{ grp 5 [0x10000, 0x20000] with handles := [(0, 0, 9)] }]
    failed := failed
    calls := calls })
def redrPkt : Packet := pkt 9 3 0 (9 * 2 ^ 48) [0] (some 0) 0

theorem witness_ForwardAndMessages :
    (fab.ownDev ≠ 0xFFFF ∧ hchkOk fwdPkt.hdr = true ∧ pDst fwdPkt.hdr ≠ fab.ownDev ∧ pOpc fwdPkt.hdr ≠ 0 ∧ rackOf fab.ownDev = rackOf (pDst fwdPkt.hdr) ∧
      fwdPkt.port = some 8 ∧ pTc fwdPkt.hdr = 3 ∧ (fab.fwdPlan fwdPkt).map (fun pl => (pl.planes, lastVcB pl.bytes 0 0)) = some ([0], false) ∧ fab.portActive 0 = true ∧ (fab.portSt 0).txq = [] ∧
      (fab.portSt 0).swapping = false ∧ fwdPkt.data.length + 1 ≤ (fab.portSt 0).credit 12) ∧
    (hchkOk outcomePkt.hdr = true ∧ pDst outcomePkt.hdr = reserving.ownDev ∧ isMsg outcomePkt 0x20 = true ∧
      (reserving.groupOf (msgPart outcomePkt) (fld (msgField outcomePkt) 0 16)).isSome = true ∧ fldN (msgField outcomePkt) 16 16 = 0 ∧
      fldN (msgField outcomePkt) 32 8 = 0 ∧ bitAt (msgField outcomePkt) 40 = true) ∧
    (hchkOk redrPkt.hdr = true ∧ pOpc redrPkt.hdr = 9 ∧ (reducing [(0, 5)] []).redCall 0 0 (pAddr redrPkt.hdr) = none ∧
      ((reducing [(0, 5)] []).part 0).failed ≠ []) ∧
    (((reducing [] [redCall0]).redCall 0 0 (pAddr redrPkt.hdr)).map (fun e => (e.2.1 == redCall0, e.2.2.first, (e.1.shape 0 redCall0.desc).hier,
      decide (16 * redrPkt.data.length ≤ e.2.2.left)))) = some (true, true, false, true) := by
  decide +kernel

theorem test_packetForward : (nx (exec (.packetForward fwdPkt) fab)).out = [.packet 0 ⟨fwdPkt.hdr, [], none⟩] := by decide +kernel
theorem test_msg_outcome : ((nx (exec (.msg outcomePkt) reserving)).groupOf 0 5).map (fun g => (g.pendingRes, g.handles)) =
    some ([(0, 1)], [(0, 0, 9)]) := by decide +kernel
theorem test_redr_dropped : (nx (exec (.redr redrPkt) (reducing [(0, 5)] []))).dN (dkx 0x2640 0 0x0B) = 1 := by decide +kernel

/-! ## The link layer -/

/-- A FLOW with ACKSEQ 1, that returns 8 credits of VC 0, with or without NAK. -/
def flow (nak : Nat) : W256 := word 256 [(248, 1), (232, 1), (231, nak), (64, 8)]

def queued (credits : Nat) : State :=
  fab.modPort 0 (fun q => { q with
    txq := [⟨mkHdr 1 7 0 3 1 0 0 0 false 0, List.replicate 4 0, none⟩]
    credits := [(0, credits)]
    replay := [(0, []), (1, [])] })

theorem witness_CodewordsAndCredits :
    fab.portTrained 0 = true ∧ (fab.portSt 0).rx = [] ∧ (slotUnits 1 [0, 0]).all idleUnit = true ∧ (0xFFFF : W16) ≠ (fab.portSt 0).rxSeq ∧
    (∀ l, (((fab.portSt 0).addSer fab.now [0, 543]).ser.filter (fun e => e.2 == l)).length ≤ fab.dN (dk 0x2300 0x0A)) ∧
    (let s := fab.setCrit (dk 0x2300 0x0A) 0
     s.portTrained 0 = true ∧ s.dN (dk 0x2300 0x0A) < (((s.portSt 0).addSer s.now [17]).ser.filter (fun e => e.2 == laneOfSym 17)).length ∧
       (s.portSt 0).used = false) ∧
    ([0, 543] : List (Fin 544)).length ≤ 15 ∧ 15 < (List.replicate 16 (0 : Fin 544)).length ∧
    lcType (flow 0) = 1 ∧ bitAt (flow 0) 231 = false ∧ bitAt (flow 1) 231 = true ∧ (fab.portSt 0).txq = [] ∧
    ((queued 0).portTrained 0 = true ∧ ((queued 0).portSt 0).txq.length = 1 ∧ ((queued 0).portSt 0).swapping = false) ∧
    (fab.portSt 0).msReplays + 1 ≤ (fab.setDN (dk 0x2300 9) 1).dN (dk 0x2300 9) ∧
    ((fab.setDN (dk 0x2300 9) 0).dN (dk 0x2300 9) < (fab.portSt 0).msReplays + 1 ∧ (fab.setDN (dk 0x2300 9) 0).portUsers 0 = [] ∧
      (fab.setDN (dk 0x2300 9) 0).portTrained 0 = true) := by
  decide +kernel

theorem test_codeword : ((nx (exec (.codeword 0 0 [1, 5, 9] 1 [0, 0]) fab)).portSt 0).rxSeq = 1 ∧
    (nx (exec (.codeword 0 0 [1, 5, 9] 1 [0, 0]) fab)).dN (ckPort 0 6) = 3 := by decide +kernel
theorem test_codeword_lost : ((nx (exec (.codeword 0 0 (List.replicate 16 0) 1 []) fab)).portSt 0).nak = true := by decide +kernel
theorem test_flow : ((nx (exec (.flow 0 (flow 0)) (queued 0))).portSt 0).txq = [] ∧ ((nx (exec (.flow 0 (flow 0)) (queued 0))).portSt 0).credit 0 = 3 := by
  decide +kernel

/-- Port 2 trains; port 3 is down. -/
def training : State := fab.setDN (ckPort 2 1) 1
/-- A DISC: version mask, version chosen, ID 3, role and port. -/
def disc (mask sel : Nat) : W256 := word 256 [(248, 2), (212, mask), (208, sel), (184, 3), (200, 2)]
def lane0 : W256 := word 256 [(248, 3)]
def spareUsed : State := fab.modPort 0 (fun q => { q with
  used := true
  swapping := true })

theorem witness_LinkStates :
    (training.board.tkUp = true ∧ training.portTrained 3 = false ∧ training.dN (ckPort 3 1) ≠ 1) ∧
    (training.dN (ckPort 2 1) = 1 ∧ lcType (disc 0 0) = 2 ∧ commonVer (dcVmask (disc 0 0)) = 0 ∧ commonVer (dcVmask (disc 7 1)) = 3 ∧
      (dcVsel (disc 7 1)).toNat ≠ 3 ∧ (dcVsel (disc 7 3)).toNat = 3 ∧ (∀ p, training.dN (dkx 0x2330 p 3) ≠ 1 ∧ (training.part p).groupReq = false)) ∧
    (fab.portTrained 0 = true ∧ dcId (disc 7 3) ≠ fab.dN (ckPort 0 3) ∧ (fab.portSt 0).used = false ∧ lcType lane0 = 3 ∧ fab.portUsers 0 = []) ∧
    (let s := ((fab.setDN (ckPort 0 3) 3).setDN (ckPort 0 4) 2)
     s.portTrained 0 = true ∧ dcId (disc 7 3) = s.dN (ckPort 0 3) ∧ dcRolePort (disc 7 3) = s.dN (ckPort 0 4)) ∧
    (spareUsed.portTrained 0 = true ∧ (spareUsed.portSt 0).used = true ∧ (spareUsed.portSt 0).swapping = true ∧ (spareUsed.portSt 0).txq = [] ∧
      spareUsed.portUsers 0 = []) ∧
    (let s := (fab.setDN (dkx 0x2330 0 3) 2).setDN (dkx 0x2330 0 5) 1
     s.portTrained 0 = true ∧ s.portUsers 0 = [0] ∧ s.faults = []) := by
  decide +kernel

theorem test_linkTrainingAttempt : (nx (exec (.linkTrainingAttempt 3) training)).dN (ckPort 3 1) = 1 := by decide +kernel
theorem test_linkTrained : (nx (exec (.linkTrained 2 (disc 7 3)) training)).dN (ckPort 2 1) = 2 ∧ (nx (exec (.linkTrained 2 (disc 0 0)) training)).dN (ckPort 2 1) = 4 := by
  decide +kernel
theorem test_disc_changed : (nx (exec (.disc 0 (disc 7 3)) fab)).dN (ckPort 0 1) = 0 := by decide +kernel
theorem test_discSend : (nx (exec (.discSend 0) fab)).out.length = 1 := by decide +kernel
theorem test_equalisation : (nx (exec (.equalisationUpdate 0) fab)).dN (dk 0x2150 1) = 1 := by decide +kernel
theorem test_laneFailure : ((nx (exec (.laneFailure 0 15) fab)).portSt 0).swapping = true ∧ (nx (exec (.laneFailure 0 15) spareUsed)).dN (ckPort 0 1) = 0 := by
  decide +kernel
theorem test_lane : ((nx (exec (.lane 0 lane0) fab)).portSt 0).used = true := by decide +kernel
theorem test_portDown : (nx (exec (.portDown 0) fab)).dN (ckPort 0 1) = 0 := by decide +kernel
theorem test_spareLaneSwapDone : ((nx (exec (.spareLaneSwapDone 0) spareUsed)).portSt 0).swapping = false := by decide +kernel

/-! ## Plans, groups and collective messages -/

theorem canPart_ok {s : State} {p : PartId} (h : s.serverBusy = false ∧ s.configured p = true) : s.GrantsPart .can p := ⟨h.1, h.2, .inl rfl⟩

/-- Partition 0 without an enabled context, and port 0 trained with port 2 of switch 3, which reaches every slot. -/
def setup : State :=
  ((((fab.modCtx 0 .primary (fun k => { k with en := false })).setDN (ckPort 0 2) 3).setDN (ckPort 0 3) 3).setDN (ckPort 0 4) 2).modPort 0
    (fun q => { q with reach := BitVec.allOnes 64 })

/-- A plan with ID 1, one plane, EPL version v and kind 0, whose port 0 uses port 2 of device `dev` (R257). -/
def planBytes (v dev : Nat) : List Byte := leBytes 32 (2 ^ 224 + 2 ^ 208 + v * 2 ^ 204) ++ leBytes 4 (2 ^ 6 + 2 * 2 ^ 8 + dev * 2 ^ 16) ++ List.replicate 1244 0
def planAt : State := { setup.setDN (dkx 0x2330 0 1) (dramA 0x30000) with mem := setup.mem.put 0x30000 (planBytes 1 3) }

/-- A table with the vote group alone, of this module (R262). -/
def member0 : Nat := 0x18000
def tableBytes : List Byte :=
  let v := 0xFFFF * 2 ^ 112 + 2 ^ 64 + 64
  leBytes 32 1 ++ leBytes 32 (v + (2 ^ 128 - 1 - v) * 2 ^ 128) ++ leBytes 8 (member0 + (2 ^ 32 - 1 - member0) * 2 ^ 32)
def tableAt : State :=
  { (setup.setDN (dkx 0x2640 0 1) (dramA 0x38000)).setDN (dkx 0x2330 0 3) 2 with mem := setup.mem.put 0x38000 tableBytes }

/-- The group of that table (R262). -/
def voteGroup : Group := Group.ofTable 0xFFFF 0 64 [0x18000]

/-- A plan that waits for its port 0, which has trained with another neighbour. -/
def lacking : State := (setup.setDN (dkx 0x2330 0 3) 1).modPart 0 (fun q => { q with plan := planBytes 1 4 })

theorem witness_PlansAndGroups :
    fab.GrantsPart .can 0 ∧ fab.anyEnabled 0 = true ∧ setup.GrantsPart .can 0 ∧ setup.anyEnabled 0 = false ∧
    (let s := setup.setDN (dkx 0x2330 0 1) 32
     aOff (s.d (dkx 0x2330 0 1)) % 64 ≠ 0 ∧ s.anyEnabled 0 = false) ∧
    (let a := planAt.d (dkx 0x2330 0 1)
     let pl := planAt.mem.bytes (aKey a) 1280
     planAt.anyEnabled 0 = false ∧ planAt.ownMem a 1280 = true ∧ aSpace a = 0 ∧ aOff a % 64 = 0 ∧ planAt.check 0 a 1280 = .ok ∧ planAt.mem.wf = true ∧
       (unitsOf (aKey a) 1280).all (fun u => planAt.mem.unit u == .clean) = true ∧ planFields pl = true ∧ planWraps pl = true ∧
       planGateways pl (rackOf planAt.ownDev) = true ∧ planUses pl = [0] ∧ planAt.portMatch pl 0 = true ∧ planPver pl ≤ planAt.dN (dk 0x2301 2)) ∧
    (tableAt.anyEnabled 0 = false ∧ (tableAt.part 0).groups = [] ∧ (tableAt.part 0).outcomes = [] ∧ tableAt.dN (dkx 0x2330 0 3) = 2 ∧
      tableAt.d (dkx 0x2640 0 5) = 0 ∧ tableAt.parseTable 0 (tableAt.d (dkx 0x2640 0 1)) = (tableAt, ⟨[voteGroup], []⟩) ∧
      ∀ g ∈ [voteGroup], g.couldSwitch (tableAt.dN (dkx 0x2330 0 7)) = false ∧ g.sw ≠ 2) ∧
    (let s := (setup.setDN (dkx 0x2640 0 1) 32).setDN (dkx 0x2330 0 3) 2
     s.anyEnabled 0 = false ∧ (s.part 0).groups = [] ∧ s.dN (dkx 0x2330 0 3) = 2 ∧ aOff (s.d (dkx 0x2640 0 1)) % 64 ≠ 0) := by
  refine ⟨canPart_ok (by decide +kernel), by decide +kernel, canPart_ok (by decide +kernel), by decide +kernel, by decide +kernel, by decide +kernel,
    by decide +kernel, by decide +kernel⟩

/-- Group 5, of a core here and one in rack 1, which has not answered for plane 0. -/
def unreserved : State :=
  setup.modPart 0 (fun q => { q with groups := [{ grp 5 [0x10000, 0x400000] with pendingRes := [(1, 0)] }] })

theorem witness_PlansAndGroups_timeouts :
    (∀ p, setup.dN (dkx 0x2330 p 3) ≠ 1 ∧ (setup.part p).groupReq = false) ∧
    (lacking.dN (dkx 0x2330 0 3) = 1 ∧ (∀ q, (lacking.part q).groupReq = false) ∧ planUses (lacking.part 0).plan = [0] ∧
      lacking.portMatch (lacking.part 0).plan 0 = false ∧ prOpt (planPort (lacking.part 0).plan 0) = false ∧ lacking.faults = []) ∧
    (let s := unreserved
     (s.groupOf 0 5).map (fun g => (g.pendingRes.filter (fun e => e.2 == 0), g.handles)) = some ([(1, 0)], []) ∧ 1 ≠ rackOf s.ownDev ∧
       s.dN (dkx 0x2640 0 3) ≠ 1) := by
  decide +kernel

theorem test_planLoad : (nx (exec (.planLoad .can 0 1) planAt)).dN (dkx 0x2330 0 3) = 2 := by decide +kernel
theorem test_planLoad_enabled : (nx (exec (.planLoad .can 0 1) fab)).dN (dkx 0x2330 0 8) = 6 := by decide +kernel
theorem test_groupLoad : ((nx (exec (.groupLoad .can 0 1) tableAt)).part 0).groups.map (·.members) = [[0x18000]] := by decide +kernel
theorem test_planCheckTimeout : (nx (exec (.planCheckTimeout 0) lacking)).dN (dkx 0x2330 0 8) = 7 := by decide +kernel
theorem test_reservationTimeout :
    ((nx (exec (.reservationTimeout 0 5 0) unreserved)).groupOf 0 5).map (·.sw) = some 2 := by decide +kernel

/-- A READY of member 1 of group 5 for call n of core 0. -/
def ready (n : Nat) : CollReady := ⟨0, 0, 5, 1, BitVec.ofNat 64 n, 0, BitVec.ofNat 64 (devA 2 0 0), 1⟩
def retrying (n : Nat) : State := fab.modPart 0 (fun q => { q with retries := [(1, ready n)] })

/-- The mailbox of core 0 of this module (R268, Table 10-5). -/
def mail : Packet := pkt 1 1 0 (devA 1 4 0x3FF000) [0] (some 0) 0

/-- A call of core 0 that has heard of member 1, and its command. -/
def call0 : Call :=
  ⟨0, .primary, 0, 5, 0, 0, BitVec.ofNat 512 (2 ^ 152 + 5 * 2 ^ 136), 0, 0, 0, [], [1], none, [], [], [], [], [], [], [], 0, [], [], [], [], false, false⟩
def calling : State :=
  ((fab.modPart 0 (fun q => { q with
    groups := [grp 5 [0x10000, 0x20000]]
    calls := [call0] }))).modCtx 0 .primary (fun k => { k with
      issued := 1
      jobs := [fab.newJob slot0 (descCmd 0x15)] })
def segEnd : CollSegEnd := ⟨0, 0, 5, 1, 0, 0, 0, 0, 0, []⟩
def failing : State := fab.modPart 0 (fun q => { q with failed := [(0, 5)] })

/-- Call n of core 1, which is member 1 of group 5, has sent READY n to core 0. -/
def sender (n : Nat) : Call := { call0 with core := 1, me := 1, call := BitVec.ofNat 64 n }
def resending (n : Nat) : State := fab.modPart 0 (fun q => { q with retries := [(1, ready n)], calls := [sender n] })

theorem witness_CollectiveMessages :
    (fab.FromPlane mail 0 ∧ pOpc mail.hdr = 0x01 ∧ fab.mailFor mail 0 0 = true ∧ (fab.part 0).failed.contains ((0 : CoreId), (5 : W16)) = false ∧
      (fab.part 0).calls = [] ∧ ((fab.part 0).nextCall 0 5).toNat ≤ (ready 2).call.toNat ∧ ((fab.part 0).nextCall 0 5).toNat ≤ (ready 3).call.toNat) ∧
    (((retrying 3).part 0).retries = [((retrying 3).ownDev, ready 3)] ∧
      ((retrying 3).part 0).calls.find? (fun k => k.gid == (5 : W16) && k.me == 1 && k.call == (3 : W64)) = none) ∧
    (((resending 3).part 0).retries = [((resending 3).ownDev, ready 3)] ∧
      ((resending 3).part 0).calls.find? (fun k => k.gid == (5 : W16) && k.me == 1 && k.call == (3 : W64)) = some (sender 3) ∧
      ((resending 3).part 0).failed.contains ((0 : CoreId), (5 : W16)) = false ∧ (∀ i ∈ ((resending 3).part 0).calls, i.is 0 5 = false) ∧
      (((resending 3).part 0).nextCall 0 5).toNat ≤ (ready 3).call.toNat) ∧
    (fab.part 0).retries.all (fun e => e.2 != ready 0) = true ∧
    (calling.FromPlane mail 0 ∧ calling.mailFor mail 0 0 = true ∧ (calling.part 0).calls = [call0] ∧ call0.core = segEnd.core ∧ call0.gid = segEnd.gid ∧ call0.call = segEnd.call ∧
      call0.heard.contains segEnd.peer = true) ∧
    (failing.FromPlane mail 0 ∧ failing.mailFor mail 0 0 = true ∧ (failing.part 0).calls = [] ∧ (failing.part 0).failed.contains ((0 : CoreId), (5 : W16)) = true) ∧
    ((0 : PartId) = calling.partD 0 .primary ∧ ((calling.job 0 .primary call0.job).map (·.status)) = some none ∧ calling.faults = [] ∧
      calling.hasRun 0 = true) := by
  refine ⟨⟨fromPlane_ok (by decide +kernel), by decide +kernel⟩, by decide +kernel, by decide +kernel, by decide +kernel,
    ⟨fromPlane_ok (by decide +kernel), by decide +kernel⟩, ⟨fromPlane_ok (by decide +kernel), by decide +kernel⟩, by decide +kernel⟩

theorem test_ready :
    (((fab.takeReady (ready 2)).1.part 0).mailbox, (fab.takeReady (ready 3)).2) = ([ready 2], true) := by decide +kernel
theorem test_readyRetry : ((nx (exec (.readyRetry (ready 2)) (resending 2))).part 0).mailbox = [ready 2] ∧
    (nx (exec (.readyRetry (ready 2)) (resending 2))).dN (dkx 0x2640 0 0x0F) = 1 := by decide +kernel
theorem test_segmentEnd : (failing.takeSegEnd segEnd).dN (dkx 0x2640 0 0x0B) = 1 := by decide +kernel
theorem test_collTimeout : ((nx (exec (.collTimeout 0 .primary 5) calling)).part 0).failed = [(0, 5)] := by decide +kernel

/-! ## Commit gate, damask and recovery -/

/-- Core 0's primary context has passed the STEPCOMMIT of step 0. -/
def closing : State := base.modCtx 0 .primary (fun k => { k with step := 1 })

/-- Partition 0 votes; its own vote group is this module. -/
def voting (state : Nat) : State :=
  (closing.setDN (dkx 0x2510 0 8) state).modPart 0 (fun q => { q with
    groups := [grp 0xFFFF [0x18000]]
    gate := { q.gate with closed0 := true } })

def voidPkt : Packet := pkt 0x14 4 0 (devA 1 0 0) [BitVec.ofNat 128 (5 + 3 * 2 ^ 64)] (some 0) 0
def voided : State := fab.modPart 0 (fun q => { q with gate := { q.gate with voidFrom := some 0 } })
/-- A call of the vote group has timed out (R286, R287). -/
def voteless : State := (voting 2).modPart 0 (fun q => { q with failed := [(0, 0xFFFF)] })
/-- A module in term 1. -/
def later : State := fab.setDN (dk 0x2530 2) 1

theorem witness_CommitGate :
    ((base.part 0).gate.closed0 = false ∧ (base.part 0).gate.voidFrom = none ∧ closing.ctxsOf 0 = [((0 : CoreId), .primary)] ∧
      (closing.ctx 0 .primary).en = true ∧ closing.ctxClosed 0 .primary (closing.part 0).gate.step = true ∧
      closing.ckptDue 0 (closing.part 0).gate.step = none) ∧
    ((voting 2).dN (dkx 0x2510 0 8) = 2 ∧ ((voting 2).part 0).gate.closed0 = true ∧ (voting 2).caps = [] ∧ (voting 2).badGroup 0 0xFFFF = false ∧
      ((voting 2).part 0).failed.contains ((0 : CoreId), (0xFFFF : W16)) = false ∧ (voting 2).critOk (dkx 0x2510 0 7) = true) ∧
    (voteless.dN (dkx 0x2510 0 8) = 2 ∧ (voteless.part 0).gate.closed0 = true ∧ voteless.caps = [] ∧ voteless.badGroup 0 0xFFFF = false ∧
      (voteless.part 0).failed.contains ((0 : CoreId), (0xFFFF : W16)) = true ∧ (voteless.part 0).gate.voidFrom = none) ∧
    ((voting 3).dN (dkx 0x2510 0 8) = 3 ∧ ((voting 3).part 0).gate.voidFrom = none ∧ (voting 3).voteDevs 0 = [(voting 3).ownDev] ∧ (voting 3).leader = 0xFFFF ∧
      (voting 3).faults = [] ∧ (voting 3).hasRun 0 = true) ∧
    (hchkOk voidPkt.hdr = true ∧ pDst voidPkt.hdr = fab.ownDev ∧ isMsg voidPkt 0x05 = true ∧ msgPart voidPkt = 0 ∧ (fab.part 0).gate.voidFrom = none ∧
      fab.staleTerm voidPkt = false ∧ fab.leader = 0xFFFF ∧ voided.staleTerm voidPkt = false ∧ (voided.part 0).gate.voidFrom ≠ none ∧
      later.staleTerm voidPkt = true) := by
  decide +kernel

theorem test_localClose : (nx (exec (.localClose 0) closing)).dN (dkx 0x2510 0 8) = 2 := by decide +kernel
theorem test_cleanVote : (nx (exec (.cleanVote 0) (voting 2))).dN (dkx 0x2510 0 8) = 3 := by decide +kernel
/-- A clean vote commits step 0 and opens step 1; a dirty one makes it void (R319, R320). -/
theorem test_voteResult :
    ((nx (exec (.voteResult 0 (.result 1 5 (~~~5))) (voting 3))).part 0).gate.step = 1 ∧
    ((nx (exec (.voteResult 0 (.result 0 5 (~~~5))) (voting 3))).part 0).gate.voidFrom = some 0 := by decide +kernel
theorem test_void : ((nx (exec (.void voidPkt) fab)).part 0).gate.voidFrom = some 0 := by decide +kernel

/-- A damask capture of core 0 in step 0, with digest 11 and the buddy's digest 12. -/
def capture (st : CapSt) : Capture where
  id := 4
  core := 0
  ctx := .primary
  part := 0
  step := 0
  desc := BitVec.ofNat 1536 (tenDesc 5)
  init := []
  ldr := false
  startRung := 3
  lim1 := ⟨0, 0, 0, 0, 0⟩
  lim2 := ⟨0, 0, 0, 0, 0⟩
  tiles := []
  digest := 11
  buddyDigest := 12
  urgent := true
  st := st
def captured (st : CapSt) : State := { base with caps := [capture st] }
/-- The upset with which the digest that a core forms is d. -/
def upset (d : W64) : Option W64 := some ((capture .running).redo ^^^ d)

/-- The capture is not urgent, and its buddy, core 128, has a command in progress. -/
def busyBuddy : State :=
  { base.modCtx 128 .primary (fun k => { k with
      en := true
      jobs := [base.newJob slot0 (descCmd 0x10)] }) with caps := [{ capture .waiting with urgent := false }] }

theorem witness_DamaskChecks :
    [CapSt.waiting, .running, .arbitrating].all (fun st => (captured st).capOf 4 == some (capture st)) = true ∧
    (captured .waiting).offered (coreOf (16 * ((districtOf (capture .waiting).core + 8) % 16) + (capture .waiting).core.val % 16)) = true ∧
    busyBuddy.capOf 4 = some { capture .waiting with urgent := false } ∧ busyBuddy.coreIdle 128 = false ∧
    (captured .running).damaskGo (capture .running) = true ∧ (captured .arbitrating).damaskGo (capture .arbitrating) = true ∧
    (capture .arbitrating).digest ≠ (capture .arbitrating).buddyDigest ∧ (captured .waiting).faults = [] ∧
    (base.part 0).gate.voidFrom = none ∧ (capture .arbitrating).step = (base.part 0).gate.step := by
  decide +kernel

theorem witness_DamaskChecks_upsets (k : Capture) :
    (∃ u, k.redo ^^^ u = k.digest) ∧ (∃ u, k.redo ^^^ u ≠ k.digest) := by
  refine ⟨⟨k.redo ^^^ k.digest, by rw [← BitVec.xor_assoc, BitVec.xor_self, BitVec.zero_xor]⟩, ⟨k.redo ^^^ ~~~k.digest, ?_⟩⟩
  rw [← BitVec.xor_assoc, BitVec.xor_self, BitVec.zero_xor]
  simp

theorem test_damaskReexecute : (nx (exec (.damaskReexecute 4) (captured .waiting))).caps.map (·.st) = [.running] := by decide +kernel
theorem test_damaskCheck :
    (nx (exec (.damaskCheck 4 (upset 11)) (captured .running))).caps = [] ∧ (nx (exec (.damaskCheck 4 (upset 13)) (captured .running))).caps.map (·.st) = [.disputed] := by
  decide +kernel
/-- The arbiter agrees with the core: the buddy, core 128, loses (R318). -/
theorem test_damaskArbitration :
    (nx (exec (.damaskArbitration 4 (upset 11)) (captured .arbitrating))).faults.map (fun f => fldN f 64 16) = [128] := by decide +kernel
theorem test_damaskTimeout : (nx (exec (.damaskTimeout 4) (captured .running))).dN (dkx 0x2510 0 6) = 1 := by decide +kernel

/-- A message of module 2. -/
def tell (kind phase reply term : Nat) (f : Nat) (more : List W128) : Packet :=
  pkt 0x14 4 0 (devA 1 0 0) (BitVec.ofNat 128 (kind + phase * 2 ^ 8 + reply * 2 ^ 10 + term * 2 ^ 32 + f * 2 ^ 64) :: more) (some 0) more.length

/-- The leader of term 1, with a restart of partition 0 whose phase has been sent to modules 1, 2 and 3. -/
def leading (phase : Nat) : State :=
  { (((fab.setDN (dk 0x2530 3) 1).setDN (dk 0x2530 1) 1).setDN (dk 0x2530 2) 1).modPart 0 (fun q => { q with
      groups := [grp 0xFFFF [0x18000, 0x28000, 0x38000]] }) with
    lead := { Lead.reset with restarts := [⟨0, 0, BitVec.ofNat 2 phase, true, [], [], [1, 2, 3]⟩] } }

/-- A checkpoint copy of step n to slot 1 is under way. -/
def copying (n : W64) : State := base.modPart 0 (fun q => { q with ckpt := { q.ckpt with copying := some (n, 1) } })

/-- Partition 0 configured and not yet run, at a follower. -/
def fresh : State := fab.modCtx 0 .primary (fun k => { k with en := false })

theorem mayTell_ok {s : State} {d : W16} {n : PortId} {len : Nat} (h : every [decide (s.ownDev ≠ 0xFFFF), decide (rackOf s.ownDev = rackOf d),
    decide (n.val < 8), s.portActive n, decide (len + 1 ≤ (s.portSt n).credit 16), (s.portSt n).txq.isEmpty, !(s.portSt n).swapping] = true)
    (o : ∀ m : PortId, m.val < 8 → m ≠ n → s.portActive m = false) : s.MayTell d n len := by
  simp only [every_cons_ok, every_nil_ok, and_true, decide_eq_true_eq, List.isEmpty_iff, Bool.not_eq_true'] at h
  obtain ⟨a, b, c, d, e, f, g⟩ := h
  exact ⟨a, b, c, d, o, e, f, g⟩

/-- Nothing has been copied back yet. -/
def restore4 : Restore := ⟨4, [], 0, 0, State.reset.mem, false⟩
/-- A restore of partition 0 to step 4 is under way when the watchdog fires. -/
def restoring : State :=
  base.modPart 0 (fun q => { q with ckpt := { q.ckpt with restore := some restore4 } })

theorem witness_CheckpointsAndRestarts :
    base.GrantsPart .can 0 ∧
    (((copying 0).part 0).ckpt.copying = some (0, 1) ∧ ((copying 0).part 0).ckpt.outst = 0 ∧ ((copying 0).part 0).ckpt.queue = [] ∧
      ((copying 0).part 0).gate.step.toNat ≤ (0 : W64).toNat) ∧
    [(6, 0, 0), (7, 1, 1)].all (fun e => let m := tell e.1 e.2.1 e.2.2 1 0 [0]
      hchkOk m.hdr && pDst m.hdr == (leading e.2.1).ownDev && msgPart m == 0 && decide ((leading e.2.1).term ≤ msgTerm m) && (leading e.2.1).leads &&
        (leading e.2.1).lead.pendingReplies.isEmpty && (leading e.2.1).lead.unhealthy.isEmpty && isMsg m e.1) = true ∧
    (∀ q, ((leading 1).part q).gate.voidFrom = none) ∧
    (∀ r ∈ (leading 1).lead.restarts, r.part = 0 ∧ r.sent = true ∧ (3 : W16) ∈ r.devs ∧ r.replies = [] ∧ r.status = [] ∧ r.phase ≠ 0) ∧
    (3 : W16) ≠ pSrc (tell 6 0 0 1 0 [0]).hdr ∧ msgField (tell 6 0 0 1 0 [0]) ≠ BitVec.allOnes 64 ∧
    (let m := tell 7 0 0 1 0 []
     fresh.Arrives m ∧ msgPart m = 0 ∧ fresh.term ≤ msgTerm m ∧ isMsg m 0x07 = true ∧ bitAt (m.data.headD 0) 10 = false ∧
       fldN (m.data.headD 0) 8 2 = 0 ∧ fresh.configured 0 = true ∧ fresh.hasRun 0 = false ∧ fresh.unfit 0 = false ∧ fresh.board.sfUp = true ∧ fresh.lead.pendingReplies = [] ∧
       pSrc m.hdr ≠ fresh.ownDev ∧ pSrc m.hdr ≠ 0xFFFF ∧ fresh.MayTell (pSrc m.hdr) 0 2) ∧
    (restoring.hasRun 0 = true ∧ restoring.configured 0 = true ∧ restoring.board.sfUp = true ∧
      (restoring.part 0).ckpt.restore = some restore4) := by
  refine ⟨canPart_ok (by decide +kernel), by decide +kernel, by decide +kernel, by decide +kernel, by decide +kernel, by decide +kernel, by decide +kernel,
    ⟨⟨by decide +kernel, by decide +kernel, by decide +kernel⟩, by decide +kernel, by decide +kernel, by decide +kernel, by decide +kernel,
      by decide +kernel, by decide +kernel, by decide +kernel, by decide +kernel, by decide +kernel, by decide +kernel, by decide +kernel,
      by decide +kernel, mayTell_ok (by decide +kernel) (by decide +kernel)⟩, by decide +kernel⟩

theorem test_ckptRequest : ((nx (exec (.ckptRequest .can 0 1) base)).part 0).ckpt.requested = true := by decide +kernel
theorem test_checkpointCopyDone : ((nx (exec (.checkpointCopyDone 0) (copying 0))).part 0).ckpt.copied = some (0, 1) := by decide +kernel
theorem test_sfWatchdog : (nx (exec (.sfWatchdogExpiry true) base)).lead.stopped = true ∧ (nx (exec (.sfWatchdogExpiry true) base)).dN (dk 0x2530 4) = 1 := by
  decide +kernel

/-- A health map in which every module is healthy. -/
def allHealthy : List W128 := List.replicate 4 (BitVec.allOnes 128)
def leaseable : State := { (leading 0).modPort 0 (fun q => { q with credits := [(16, 400)] }) with lead := { Lead.reset with replicaAcks := [2, 3] } }
/-- Replica 1 of no leader. -/
def replica1 : State :=
  allParts.foldl (fun s p => s.modPart p (fun q => { q with job := [0x8000] })) ((fab.setDN (dk 0x2530 3) 2).setDN (dk 0x2530 1) 0xFFFF)
/-- The leader has declared module 2 lost. -/
def mourning : State := { leading 0 with lead := { (leading 0).lead with unhealthy := [2] } }

theorem witness_LeasesAndReplicas :
    (let m := tell 1 0 0 1 0 allHealthy
     fab.Arrives m ∧ isMsg m 0x01 = true ∧ fab.term ≤ msgTerm m ∧ fab.leads = false ∧ fab.lead.stopped = false ∧ fab.lead.pendingReplies = [] ∧
       bitAt (m.data.getD (podIdx fab.ownDev / 128 + 1) 0) (podIdx fab.ownDev % 128) = true ∧ pSrc m.hdr ≠ 0xFFFF ∧ fab.board.sfUp = true ∧ fab.MayTell (pSrc m.hdr) 0 1) ∧
    (let m := tell 2 0 0 1 0 []
     (leading 0).Arrives m ∧ isMsg m 0x02 = true ∧ (leading 0).leads = true ∧ msgTerm m = (leading 0).term ∧
       podIdx (pSrc m.hdr) ∉ (leading 0).lead.unhealthy) ∧
    (let m := tell 2 0 0 1 0 []
     mourning.Arrives m ∧ mourning.leads = true ∧ msgTerm m = mourning.term ∧ podIdx (pSrc m.hdr) ∈ mourning.lead.unhealthy ∧ mourning.replicas ≠ []) ∧
    (leaseable.leads = true ∧ leaseable.lead.awaiting = [] ∧ leaseable.handOver = false ∧ leaseable.replicas = leaseable.lead.replicaAcks ∧ leaseable.portActive 0 = true ∧
      (∀ m : PortId, m.val < 8 → m ≠ 0 → leaseable.portActive m = false) ∧ (∀ q, leaseable.planOf q = none) ∧ (leaseable.portSt 0).txq = [] ∧
      (leaseable.portSt 0).swapping = false ∧ 384 ≤ (leaseable.portSt 0).credit 16) ∧
    (let m := tell 3 0 0 1 7 ([5] ++ [~~~5])
     fab.Arrives m ∧ isMsg m 0x03 = true ∧ fab.term ≤ msgTerm m ∧ m.data.drop 1 = [5] ++ [5].map (~~~ ·) ∧ fab.MayTell (pSrc m.hdr) 0 1) ∧
    (let m := tell 3 0 0 1 7 ([5] ++ [5])
     fab.Arrives m ∧ isMsg m 0x03 = true ∧ m.data.drop 1 = [5] ++ [5] ∧ ([5] : List W128) ≠ [5].map (~~~ ·) ∧ fab.faults = []) ∧
    (let m := tell 4 0 0 1 0 []
     (leading 0).Arrives m ∧ isMsg m 0x04 = true ∧ msgField m = (leading 0).lead.replSeq ∧ (leading 0).lead.restarts.all (·.sent) = true ∧
       (leading 0).lead.declare = [] ∧ (leading 0).lead.ended = [] ∧ (leading 0).lead.replicaAcks = []) ∧
    (replica1.dN (dk 0x2530 3) = 2 ∧ replica1.dN (dk 0x2530 4) = 0 ∧ replica1.lead = Lead.reset ∧ replica1.ownDev ≠ 0xFFFF ∧
      replica1.board.sfUp = true ∧ replica1.leader = 0xFFFF ∧ (∀ q, (replica1.part q).gate.voidFrom = none) ∧
      replica1.podJobs = []) := by
  refine ⟨⟨⟨by decide +kernel, by decide +kernel, by decide +kernel⟩, by decide +kernel, by decide +kernel, by decide +kernel, by decide +kernel,
      by decide +kernel, by decide +kernel, by decide +kernel, by decide +kernel, mayTell_ok (by decide +kernel) (by decide +kernel)⟩,
    ⟨⟨by decide +kernel, by decide +kernel, by decide +kernel⟩, by decide +kernel⟩,
    ⟨⟨by decide +kernel, by decide +kernel, by decide +kernel⟩, by decide +kernel⟩, by decide +kernel,
    ⟨⟨by decide +kernel, by decide +kernel, by decide +kernel⟩, by decide +kernel, by decide +kernel, by decide +kernel,
      mayTell_ok (by decide +kernel) (by decide +kernel)⟩,
    ⟨⟨by decide +kernel, by decide +kernel, by decide +kernel⟩, by decide +kernel, by decide +kernel, by decide +kernel, by decide +kernel⟩,
    ⟨⟨by decide +kernel, by decide +kernel, by decide +kernel⟩, by decide +kernel, by decide +kernel, by decide +kernel, by decide +kernel⟩,
    by decide +kernel⟩

theorem test_lease : (nx (exec (.lease (tell 1 0 0 1 0 allHealthy)) fab)).lead.leased = true ∧ (nx (exec (.lease (tell 1 0 0 1 0 allHealthy)) fab)).term = 1 := by
  decide +kernel
theorem test_leaseAck : (nx (exec (.leaseAck (tell 2 0 0 1 0 [])) { leading 0 with lead := { Lead.reset with awaiting := [2, 3] } })).lead.awaiting = [3] := by
  decide +kernel
theorem test_repl : (nx (exec (.repl (tell 3 0 0 1 7 [5, ~~~5])) fab)).lead.replica = [5] := by decide +kernel
theorem test_repl_broken : (nx (exec (.repl (tell 3 0 0 1 7 [5, 5])) fab)).faults.map frCode = [4] := by decide +kernel
theorem test_replAck : (nx (exec (.replAck (tell 4 0 0 1 0 [])) (leading 0))).lead.replicaAcks = [2] := by decide +kernel
theorem test_leaderAckExpiry : (nx (exec .leaderAckExpiry (leading 0))).dN (dk 0x2530 3) = 0 := by decide +kernel

/-! ## Upkeep, board and boot -/

theorem canMod_ok {s : State} (h : s.serverBusy = false) : s.GrantsModule .can := ⟨h, .inl rfl⟩

/-- A module without an enabled context. -/
def idle : State := base.modCtx 0 .primary (fun k => { k with en := false })

/-- Scrubbing is on and every stack is filled; stack 15 has read all of its bursts but two. -/
def scrubbing : State := ((base.setDN (dk 0x2202 1) 1).setDN (dk 0x2201 3) 0xFFFF).modStack 15 (fun t => { t with scrubPos := 2 ^ 30 - 2 })
def scrubUnit : Nat := 15 * 2 ^ 30 + 2 ^ 30 - 2
def scrubFilled (st : UnitSt) : State :=
  { scrubbing with mem := { Mem.reset with fill := [(0, some 0), (15, some 0)], units := [(scrubUnit, st)] } }
def fullRows : State := base.modStack 0 (fun t => { t with repairs := (List.range 64).map (fun i => ⟨0, 1, i⟩) })

theorem witness_MemoryUpkeep :
    base.GrantsModule .can ∧ allParts.any base.anyEnabled = true ∧ idle.GrantsModule .can ∧ allParts.any idle.anyEnabled = false ∧
    ((base.modStack 15 (fun t => { t with filling := true })).stack 15).filling = true ∧
    (base.quar.contains (base.physical (coreOf (0 : Byte).toNat)) = false ∧ base.quar.contains (base.physical (coreOf (255 : Byte).toNat)) = false) ∧
    ([0, 2 ^ 40 - 1].all (fun v => let u := (BitVec.ofNat 64 v).toNat / 64
      decide ((BitVec.ofNat 64 v).toNat < 2 ^ 40) && !(base.stack (stackOf u)).repairs.contains (rowOfUnit u) &&
        decide (sparesUsed (base.stack (stackOf u)) (rowOfUnit u).chan < 16) && decide ((base.stack (stackOf u)).repairs.length < 64)) = true) ∧
    (fullRows.GrantsModule .can ∧ (fullRows.stack (stackOf 0)).repairs.contains (rowOfUnit 0) = false ∧
      sparesUsed (fullRows.stack (stackOf 0)) (rowOfUnit 0).chan < 16 ∧ 64 ≤ (fullRows.stack (stackOf 0)).repairs.length) :=
  ⟨canMod_ok (by decide +kernel), by decide +kernel, canMod_ok (by decide +kernel), by decide +kernel, by decide +kernel, by decide +kernel,
    by decide +kernel, canMod_ok (by decide +kernel), by decide +kernel, by decide +kernel, by decide +kernel⟩

theorem witness_MemoryUpkeep_scrub :
    base.scrubs 0 = false ∧
    [(UnitSt.clean, ([] : List (Fin 72 × Byte)), RsOut.clean), (.clean, [(71, 1)], .ce 71 1 false), (.clean, [(0, 1), (1, 2)], .ue),
      (.poisoned, [], .poisoned)].all (fun e => let s := scrubFilled e.1
        s.scrubs 15 && decide ((s.stack 15).scrubPos + 1 < 2 ^ 30) && scrubUnit == 15 * 2 ^ 30 + (s.stack 15).scrubPos && s.mem.unit scrubUnit == e.1 &&
          rsDecode (storedError (s.mem.unit scrubUnit) e.2.1) == e.2.2 && (s.stack 15).log.isEmpty &&
          decide (sparesUsed (s.stack 15) (rowOfUnit scrubUnit).chan < 16) && decide ((s.stack 15).repairs.length < 64)) = true := by
  decide +kernel

theorem test_initStart : (nx (exec (.initStart .can 1) idle)).mem.unit (2 ^ 34 - 1) = .clean ∧ (nx (exec (.initStart .can 1) base)).dN (dk 0x2201 4) = 1 := by
  decide +kernel
theorem test_bulkFillDone : (nx (exec (.bulkFillDone 15) (base.modStack 15 (fun t => { t with filling := true })))).dN (dk 0x2201 3) = 2 ^ 15 := by
  decide +kernel
/-- Symbol 71 with pattern 1 is corrected, and two wrong symbols are not (R216). -/
theorem test_dramScrub :
    (nx (exec (.dramScrub 15 [(71, 1)]) (scrubFilled .clean))).dN (dk 0x2205 1) = 1 ∧
    (nx (exec (.dramScrub 15 [(0, 1), (1, 2)]) (scrubFilled .clean))).mem.unit scrubUnit = .poisoned := by decide +kernel
theorem test_sramScrub : (nx (exec (.sramScrub 255 0xFFFF [(7, 1, 2)]) base)).mem.unit (ckey 255 0x3FFFC0 / 64) = .poisoned ∧
    (nx (exec (.sramScrub 0 0 [(0, 4, 4), (3, 1, 1)]) base)).dN (dk 0x2205 5) = 2 := by decide +kernel

theorem witness_BoardAndResets :
    ((39999 : W16).toNat < 40000 ∧ 59500 < (59501 : W16).toNat ∧ 40000 ≤ (40000 : W16).toNat ∧ (59500 : W16).toNat ≤ 59500) ∧
    ({ base.board with refLost := true } : Board).refLost = true ∧ base.board.refLost = false ∧
    (base.board.en = true ∧ base.board.lockout = false ∧ ({ base with board := { base.board with lockout := true } } : State).board.lockout = true) ∧
    ((37999 : W16).toNat < 38000 ∧ 61000 < (61001 : W16).toNat) ∧ base.board.resetPin = false ∧
    [true, false].all (fun pg => ({ base with board := { base.board with resetPin := true, pg := pg } } : State).board.pg == pg) = true ∧
    (base.board.pg = true ∧ State.reset.board.pg = true ∧ State.reset.board.resetPin = false ∧ State.reset.board.dramTrained = false) ∧
    (base.board.dramTrained = true ∧ base.board.booting = false ∧ (∀ d, (base.stack d).repairs = []) ∧ base.sec.lastDoc = none ∧ base.mem.wf = true) := by
  decide +kernel

theorem test_inputLow : ((nx (exec (.inputLow 39999) base)).board.cause.getLsbD 8, (nx (exec (.inputLow 40000) base)).board.cause.getLsbD 8) = (true, false) := by
  decide +kernel
theorem test_inletHigh : (nx (exec (.inletHigh 401) base)).board.cause.getLsbD 10 = true := by decide +kernel
theorem test_lockout : (nx (exec (.undervoltageLockout 37999) base)).board.pg = false := by decide +kernel
theorem test_enDeassert : (nx (exec .enDeassert base)).board.fresh = true ∧ (nx (exec .enDeassert base)).cores = [] := by decide +kernel
theorem test_resetRelease :
    (nx (exec (.resetRelease 5) { base with board := { base.board with resetPin := true } })).board.cause = 2 := by decide +kernel
/-- A warm reset keeps DRAM (R414). -/
theorem test_warmReset :
    (nx (exec (.warmResetCommand true) { base with mem := base.mem.put 0x40 [7] })).mem.byte 0x40 = 7 ∧
    fldN (nx (exec (.warmResetCommand true) base)).board.cause 0 4 = 4 := by decide +kernel

/-- District 2 changed. -/
def powered (f : Dist → Dist) : State := base.modDist 2 f
def at20 : Dist := { Dist.reset with vddOff := 20 }
def below : State := { powered id with board := { (powered id).board with modOp := 0 } }

theorem witness_PowerAndHeat :
    (let k := (powered (fun k => { k with moving := true, target := 7, vddOff := -60 })).dist 2
     k.moving = true ∧ -60 ≤ k.vddOff ∧ k.vddOff ≤ 20) ∧
    ((∀ e, ((powered id).dist e).moving = false) ∧ (∀ e, (powered id).NoFiller e) ∧ (powered id).board.modOp ≠ 0 ∧ (powered id).effOp 2 ≠ 0) ∧
    ((∀ e, below.NoFiller e) ∧ below.board.modOp = 0 ∧ below.powerCount .gate < 7 ∧ below.effOp 2 = 0 ∧ below.thermalCount 2 .gate < 7 ∧
      below.thermalCount 2 .dram < 3) ∧
    ((powered (fun k => { k with acts := [(false, .op 7)] })).dist 2).acts = [] ++ [(false, .op 7)] ∧
    [(AvsMargin.more, (-55 : Int), (-5 : Int)), (.more, 20, -5), (.less, -60, 5), (.less, 15, 5)].all (fun e =>
      decide (-60 ≤ e.2.1 + e.2.2) && decide (e.2.1 + e.2.2 ≤ 20)) = true ∧
    ((powered (fun _ => at20)).dist 2).vddOff = 20 ∧ (powered (fun _ => at20)).effOp 2 ≠ 0 := by
  simp only [State.NoFiller]
  decide +kernel

theorem test_avsAdjust : ((nx (exec (.avsAdjust 2 .less) (powered id))).dist 2).vddOff = 5 := by decide +kernel

/-- The boot of a module whose images are A alone, or none at all. -/
def noImages : State :=
  { State.reset with sec := { State.reset.sec with
      tkA := { Image.first with fail := 1 }
      tkB := { Image.first with fail := 1 }
      sfA := { Image.first with fail := 2 }
      sfB := { Image.first with fail := 2 } } }
def kernelUp (s : State) : State := { s with board := { s.board with tkUp := true } }

theorem witness_BootChain :
    (State.reset.board.pg = true ∧ State.reset.board.resetPin = false ∧ State.reset.board.dramTrained = false ∧ State.reset.stage ≠ 3 ∧
      State.reset.board.coresDone = false ∧ State.reset.quar = []) ∧
    [State.reset, noImages].all (fun s => s.board.en && s.board.pg && !s.board.resetPin && s.board.booting && !s.board.tkUp && !s.board.halt &&
      s.sec.shadowN == s.sec.shadow.compl) = true ∧
    (loadImage State.reset.sec.tkA State.reset.sec.tkB State.reset.sec.shadow = ⟨some (State.reset.sec.tkA, 0), 0⟩ ∧ State.reset.sec.lastDoc = none ∧
      State.reset.updatePlace = none) ∧
    loadImage noImages.sec.tkA noImages.sec.tkB noImages.sec.shadow = ⟨none, 1⟩ ∧
    [kernelUp State.reset, kernelUp noImages].all (fun s => s.board.tkUp && !s.board.sfUp && !s.board.halt && s.sec.shadowN == s.sec.shadow.compl) = true ∧
    (loadImage (kernelUp State.reset).sec.sfA (kernelUp State.reset).sec.sfB (kernelUp State.reset).sec.shadow =
        ⟨some (State.reset.sec.sfA, 0), 0⟩ ∧
      ∀ q, ((kernelUp State.reset).part q).planReq = false ∧ ((kernelUp State.reset).part q).groupReq = false) ∧
    loadImage (kernelUp noImages).sec.sfA (kernelUp noImages).sec.sfB (kernelUp noImages).sec.shadow = ⟨none, 2⟩ := by
  decide +kernel

theorem test_dramTrainingDone : (nx (exec (.dramTrainingDone 0x8000) State.reset)).dN (dk 0x2500 8) = 0x8000 := by decide +kernel
theorem test_selfTestDone : (nx (exec (.selfTestDone [255]) State.reset)).offered 255 = false ∧ (nx (exec (.selfTestDone [255]) State.reset)).offered 0 = true := by
  decide +kernel
theorem test_trustedKernelStart : (nx (exec .trustedKernelStart noImages)).stage = 3 := by decide +kernel
theorem test_serviceFirmwareStart : (nx (exec .serviceFirmwareStart (kernelUp noImages))).board.halt = true := by decide +kernel

/-! ## The companion link -/

/-- A message of the companion for partition 0. -/
def msg (opc tag lenM1 : Nat) (a : Nat) (lines : List (BitVec 512)) : MclMsg := ⟨mkMcl opc tag 0 lenM1 0 0 (BitVec.ofNat 64 a), lines⟩

theorem isClear_ok {s : State} (h : every [s.mclActive, s.mcl.queue.isEmpty, s.mcl.reqs.isEmpty] = true) : s.LinkClear := by
  simp only [every_cons_ok, every_nil_ok, and_true, List.isEmpty_iff] at h
  exact ⟨h.1, h.2.1, h.2.2⟩

def ringWin : Win := ⟨0, 0x10000, 0x1000, 0, 1, false⟩
theorem mem_ok {s : State} {w : Win} (h : s.windows.contains w = true) : w ∈ s.windows := by simpa using h

/-- Line 1 of the command ring is held. -/
def heldLine : State := linked.setRing 0 { Ring.reset with lines := [(1, some 5)] }
def mirrorA (off : Nat) : Nat := devA 0xFFFE 3 off
def rejoining : State := linked.setDN (dk 0x2530 4) 1

theorem witness_CompanionRequests :
    (linked.mclActive = true ∧ [0x00, 0x06, 0x32, 0xFF].all (fun o => !mclListed (mOpc (msg o 0 0 0 []).hdr)) = true) ∧
    (∀ a ∈ [0x0FFFF, 0x11000], let m := msg 0x10 0 0 a []
      mOpc m.hdr = 0x10 ∧ ∀ w ∈ linked.windows, (mAddr m.hdr).toNat < w.base ∨ w.base + w.size ≤ (mAddr m.hdr).toNat) ∧
    (heldLine.LinkClear ∧ ringWin ∈ heldLine.windows ∧ ringWin.kind = 1 ∧
      ∀ a ∈ [0x10040, 0x1007F], let m := msg 0x10 0 0 a []
        mOpc m.hdr = 0x10 ∧ ringWin.base ≤ (mAddr m.hdr).toNat ∧ (mAddr m.hdr).toNat < ringWin.base + ringWin.size ∧
        ((heldLine.mcl.ring ringWin.idx).line (((mAddr m.hdr).toNat - ringWin.base) / 64)).isSome = true) := by
  refine ⟨by decide +kernel, ?_, isClear_ok (by decide +kernel), mem_ok (by decide +kernel), rfl, by decide +kernel⟩
  intro a h
  simp only [List.mem_cons, List.not_mem_nil, or_false] at h
  rcases h with rfl | rfl
  · exact ⟨by decide +kernel, all_ok (by decide +kernel)⟩
  · exact ⟨by decide +kernel, all_ok (by decide +kernel)⟩

/-- Requests: of a partition that MCL_PARTMASK leaves out, of an address outside the forms, and good ones of one line and of eight. -/
theorem witness_CompanionRequests_access :
    [0x30, 0x31].all (fun o =>
      (linked.setCrit (dk 0x2A00 9) 0).mclRefusal (msg o 0 0 (dramA 0) [0]) 64 == 2 &&
      (linked.setCrit (dk 0x2A00 9) 0).mclBarred (msg o 0 0 (mirrorA 0) [0]) && aSpace (mAddr (msg o 0 0 (mirrorA 0) [0]).hdr) == 3 &&
      !linked.mclBarred (msg o 0 0 (dramA 0xFFFFFFFFFF) [0]) && linked.mclRefusal (msg o 0 0 (dramA 0xFFFFFFFFFF) [0]) 64 == 1 &&
      !linked.mclForm (msg o 0 0 (devA 0xFFFE 2 0) [0]) 64 && linked.mclRefusal (msg o 0 0 (devA 0xFFFE 2 0) [0]) 64 == 1 &&
      linked.mclForm (msg o 0 0 (coreA 255 0) [0]) 64 && linked.check 0 (mAddr (msg o 0 0 (coreA 255 0) [0]).hdr) 64 == .part &&
      linked.mclRefusal (msg o 0 0 (coreA 255 0) [0]) 64 == 2 &&
      [rejoining].all (fun s => s.mclRefusal (msg o 0 0 (mirrorA 0) [0]) 64 == 0 && aSpace (mAddr (msg o 0 0 (mirrorA 0) [0]).hdr) == 3 && s.serverBusy) &&
      [(0, dramA 0), (7, dramA 0x1000), (7, dramA 0x3FFFFE00)].all (fun e => let m := msg o 0 e.1 e.2 (List.replicate (e.1 + 1) 3)
        mOpc m.hdr == o && linked.mclRefusal m (64 * mLen m.hdr) == 0 && decide (aSpace (mAddr m.hdr) ≤ 1) && m.lines.length == mLen m.hdr &&
          linked.mem.wf && (unitsOf (aKey (mAddr m.hdr)) (64 * mLen m.hdr)).all (fun u => linked.mem.unit u == .clean))) = true := by
  decide +kernel

def sentCmp (t : State) : List (Nat × Nat) :=
  t.out.filterMap (fun o => match o with
    | .mcl m => some (mOpc m.hdr, mStatus m.hdr)
    | _ => none)
theorem test_unlisted : sentCmp (nx (exec (.snpi (msg 0x7F 1 0 0 [])) linked)) = [(0x21, 3)] := by decide +kernel
/-- An invalidation is answered, and both lines of the slot are read again (R344). -/
theorem test_snpi : sentCmp (nx (exec (.snpi (msg 0x10 1 0 0x10040 [])) heldLine)) = [(0x21, 0), (1, 0), (1, 0)] := by decide +kernel
theorem test_mclMwr : (nx (exec (.mclMwr (msg 0x31 1 0 (dramA 64) [7])) linked)).mem.byte 64 = 7 ∧
    sentCmp (nx (exec (.mclMwr (msg 0x31 1 0 (dramA 64) [7])) (linked.setCrit (dk 0x2A00 9) 0))) = [(0x21, 2)] := by decide +kernel
theorem test_mclMrd : (nx (exec (.mclMrd (msg 0x30 9 0 (dramA 64) [])) { linked with mem := linked.mem.put 64 [7] })).out.map (fun o => match o with
    | .mcl m => (mOpc m.hdr, mTag m.hdr, m.lines)
    | _ => (0, 0, [])) = [(0x20, 9, [7])] := by decide +kernel

/-! ## Blocks -/

/-- A command block with SEQ n, of a kind, with more fields. -/
def blockWord (n kind : Nat) (l : List (Nat × Nat)) : BWord := word 1024 ([(0, n), (32, kind), (64, 0x77), (992, n)] ++ l)
/-- The ring holds one block. -/
def ringWith (b : Block) : State := linked.setRing 0 { Ring.reset with expect := 2, blocks := [b] }
def fresh1 (kind : Nat) (l : List (Nat × Nat)) : Block := Block.accepted 1 (blockWord 1 kind l)
def request (s : State) (tag : Nat) (k : MclSink) : State := { s with mcl := { s.mcl with reqs := SMap.set (fun _ => none) s.mcl.reqs tag (some k) } }

def line0 : BitVec 512 := BitVec.ofNat 512 1
def line1 : BitVec 512 := BitVec.ofNat 512 (2 ^ 480)
/-- The first slot of the ring is expected, its second half is held and its first is outstanding under TAG 5. -/
def expecting : State := request (linked.setRing 0 { Ring.reset with lines := [(1, some line1)] }) 5 (.line 0 0 false)

def writing : Block := { fresh1 1 [(128, 0x40000), (192, dramA 0x2000), (256, 64)] with started := true, outst := 1, next := 64 }
def reading : Block := { fresh1 2 [(128, 0x40000), (192, dramA 0x2000), (256, 64)] with started := true, outst := 1, next := 64 }
def noting : State :=
  request (linked.modCtx 0 .primary (fun k => { k with
    issued := 1
    jobs := [base.newJob slot0 notifyCmd] })) 5 (.post (some (0, .primary, 0)) ⟨0x03, 0, 0, [], 0, 0⟩)

theorem witness_CompanionResponses :
    (linked.mclActive = true ∧ linked.mcl.queue = [] ∧ SMap.get (fun _ => none) linked.mcl.reqs (mTag (msg 0x20 9 0 0 [0]).hdr) = none) ∧
    [(false, 2, compWin), (true, 4, ⟨3, 0x30000, 0x2000, 0, 4, false⟩)].all (fun e =>
      let s := request linked 5 (.cons 0 e.1 false)
      s.mclActive && s.mcl.queue.isEmpty && s.winOf 0 e.2.1 == some e.2.2 &&
        SMap.get (fun _ => none) s.mcl.reqs (mTag (msg 0x20 5 0 0 [6]).hdr) == some (.cons 0 e.1 false)) = true ∧
    (ringWin ∈ expecting.windows ∧
      [(line0, true), (0, false)].all (fun e => let s := expecting; let m := msg 0x20 5 0 0 [e.1]; let r := s.mcl.ring 0; let b : BWord := line1 ++ e.1
        s.mclActive && s.mcl.queue.isEmpty && ringWin.slotOf r.expect == 0 &&
          s.mcl.reqs == [(mTag m.hdr, some (MclSink.line 0 0 false))] && mStatus m.hdr == 0 && mPsn m.hdr == 0 && r.line 1 == some line1 &&
          r.line (2 * ringWin.slotOf (r.expect + 1)) == none && (bSeq b == seqOf r.expect && bSeq2 b == seqOf r.expect) == e.2) = true) ∧
    (let s := request (ringWith writing) 5 (.block 0 1 0 1); let m := msg 0x20 5 0 0 [7]; let b := writing
     s.mclActive = true ∧ s.mcl.queue = [] ∧ s.windows.contains ringWin = true ∧ s.blk 0 b.seq = some b ∧
       SMap.get (fun _ => none) s.mcl.reqs (mTag m.hdr) = some (.block 0 b.seq 0 1) ∧ bKind b.w = 1 ∧ b.outst = 1 ∧ b.fail = none ∧ b.status = none ∧
       b.next = bLen b.w ∧ 0 + 64 * 1 ≤ bLen b.w ∧ m.lines.length = 1 ∧ mStatus m.hdr = 0 ∧ mPsn m.hdr = 0 ∧
       s.check 0 (bMaddr b.w + BitVec.ofNat 64 0) (64 * 1) = .ok) ∧
    (let s := request (ringWith reading) 5 (.blockWrite 0 1 64); let m := msg 0x21 5 0 0 []; let b := reading
     s.mclActive = true ∧ s.mcl.queue = [] ∧ s.windows.contains ringWin = true ∧ s.blk 0 b.seq = some b ∧
       SMap.get (fun _ => none) s.mcl.reqs (mTag m.hdr) = some (.blockWrite 0 b.seq 64) ∧ bKind b.w = 2 ∧ b.outst = 1 ∧ b.fail = none ∧
       b.status = none ∧ b.next = bLen b.w ∧ mStatus m.hdr = 0) ∧
    (let m := msg 0x21 5 0 0 []
     noting.mclActive = true ∧ noting.mcl.queue = [] ∧
       SMap.get (fun _ => none) noting.mcl.reqs (mTag m.hdr) = some (.post (some (0, .primary, 0)) ⟨0x03, 0, 0, [], 0, 0⟩) ∧
       (noting.job 0 .primary 0).isSome = true ∧ mStatus m.hdr = 0) :=
  ⟨by decide +kernel, by decide +kernel, ⟨mem_ok (by decide +kernel), by decide +kernel⟩, by decide +kernel, by decide +kernel, by decide +kernel⟩

theorem test_data_block :
    let t := nx (exec (.data (msg 0x20 5 0 0 [7])) (request (ringWith writing) 5 (.block 0 1 0 1)))
    t.mem.byte 0x2000 = 7 ∧ (t.blk 0 1).map (·.status) = some (some 0) := by decide +kernel
/-- Both halves of the slot carry SEQ 1: the block is accepted (R344). -/
theorem test_data_line :
    (((nx (exec (.data (msg 0x20 5 0 0 [line0])) expecting)).mcl.ring 0).expect, ((nx (exec (.data (msg 0x20 5 0 0 [0])) expecting)).mcl.ring 0).expect) =
      (2, 1) := by decide +kernel
theorem test_cmp : ((nx (exec (.cmp (msg 0x21 5 0 0 [])) (request (ringWith reading) 5 (.blockWrite 0 1 64)))).blk 0 1).map (·.value) = some 64 := by
  decide +kernel

/-- Blocks that pass: a write of 64 bytes, a read of 64, an append of two commands to S1, an add of 9 to object 4,095 of core 0, and accesses
of entry 0x2900:3. -/
def goodFields (kind : Nat) : List (Nat × Nat) :=
  if kind = 3 then [(128, 0x40000), (256, 2), (296, 1)]
  else if kind = 4 then [(192, objAddr 0 4095), (320, 9)]
  else if kind = 5 then [(384, 0x2900), (400, 3)]
  else if kind = 0 then []
  else [(128, 0x40000), (192, dramA 0x2000), (256, 64)]
def ringOf (kind : Nat) : State := (ringWith (fresh1 kind (goodFields kind))).modStream 0 .s1 (fun t => { t with en := true, size := 1 })

theorem starts_ok {s : State} {w : Win} {b : Block} {kind : Nat} (h : every [s.windows.contains w, w.kind == 1, s.blk w.idx b.seq == some b, bKind b.w == kind,
    !b.started, b.outst == 0, b.next == 0, b.moved == 0, b.fail.isNone, b.status.isNone, s.mayStart w.idx b, s.blkBad w b.w == none] = true) :
    s.Starts w b kind := by
  simp only [every_cons_ok, every_nil_ok, and_true, beq_iff_eq, List.contains_iff_mem, Option.isNone_iff_eq_none, Bool.not_eq_true'] at h
  have q := h.2.2.2.2
  exact ⟨⟨h.1, h.2.1⟩, h.2.2.1, h.2.2.2.1, ⟨q.1, q.2.1, q.2.2.1, q.2.2.2.1, q.2.2.2.2.1, q.2.2.2.2.2.1⟩, q.2.2.2.2.2.2.1, q.2.2.2.2.2.2.2⟩

theorem witness_CommandBlocks :
    (List.range 6).all (fun kind => let b := fresh1 kind [(40, 1)]; let s := ringWith b
      s.windows.find? (fun v => v.idx == ringWin.idx && v.kind == 1) == some ringWin && s.blk 0 b.seq == some b && !b.started &&
        s.mayStart 0 b && s.blkBad ringWin b.w == some (stDesc, .ok) && bKind b.w == kind) = true ∧
    [1, 2].all (fun kind => let b := fresh1 kind [(128, 0x40000), (192, coreA 255 0x2000), (256, 64)]; let s := ringWith b
      s.windows.find? (fun v => v.idx == ringWin.idx && v.kind == 1) == some ringWin && s.blk 0 b.seq == some b && !b.started &&
        s.mayStart 0 b && s.blkBad ringWin b.w == some (Chk.part.status, .part) && bKind b.w == kind) = true ∧
    ((ringOf 0).Starts ringWin (fresh1 0 (goodFields 0)) 0 ∧ (ringOf 1).Starts ringWin (fresh1 1 (goodFields 1)) 1 ∧
      (ringOf 2).Starts ringWin (fresh1 2 (goodFields 2)) 2 ∧ (ringOf 3).Starts ringWin (fresh1 3 (goodFields 3)) 3 ∧
      (ringOf 4).Starts ringWin (fresh1 4 (goodFields 4)) 4 ∧ (ringOf 5).Starts ringWin (fresh1 5 (goodFields 5)) 5 ∧
      (ringOf 5).GrantsPart (.mcl 0) 0) ∧
    ((ringOf 1).LinkClear ∧ (ringOf 3).LinkClear ∧ (ringOf 2).LinkClear) ∧
    (bBytes (fresh1 1 (goodFields 1)).w ≤ 64 * mclMaxLines (ringOf 1).mclVer ∧ (ringOf 3).appendRoom (fresh1 3 (goodFields 3)).w = true ∧
      0 < bLen (fresh1 3 (goodFields 3)).w ∧ (ringOf 2).mem.wf = true ∧
      ((unitsOf (aKey (bMaddr (fresh1 2 (goodFields 2)).w)) (bLen (fresh1 2 (goodFields 2)).w)).all (fun u => (ringOf 2).mem.unit u == .clean)) = true) ∧
    (let b := fresh1 4 (goodFields 4)
     aOff (bMaddr b.w) = (0 : CoreId).val * 2 ^ 15 + 8 * 4095 ∧ ((ringOf 4).obj 0 4095).ownerOk = true ∧
       ((ringOf 4).obj 0 4095).owner ≠ BitVec.ofNat 26 (2 ^ 25 + 0xFFFF * 2 ^ 9)) ∧
    (∀ st, waitOn ((ringOf 4).stream 0 st) 4095 = none) ∧
    (bIndex (fresh1 5 (goodFields 5)).w = 0x2900 + ringWin.part.val ∧ bSub (fresh1 5 (goodFields 5)).w = 3) := by
  refine ⟨by decide +kernel, by decide +kernel, ⟨starts_ok (by decide +kernel), starts_ok (by decide +kernel), starts_ok (by decide +kernel), starts_ok (by decide +kernel),
    starts_ok (by decide +kernel), starts_ok (by decide +kernel), ⟨by decide +kernel, by decide +kernel, .inr (.inr (by decide +kernel))⟩⟩,
    ⟨isClear_ok (by decide +kernel), isClear_ok (by decide +kernel), isClear_ok (by decide +kernel)⟩, by decide +kernel, by decide +kernel,
    not_waiting _ _ _ (by decide +kernel), by decide +kernel⟩

/-- A DICT block that writes. -/
def dictWriting : Block := fresh1 5 [(384, 0x2900), (400, 3), (408, 1), (320, 0x5A)]
/-- A doneRing block, and one of a reserved kind, on a link that is down. -/
def doneRing (b : Block) : State := (ringWith b).setDN mclStateKey 1

theorem witness_CommandBlocks_complete :
    ((ringWith dictWriting).Starts ringWin dictWriting 5 ∧ bDwr dictWriting.w = true) ∧
    [({ fresh1 0 [] with started := true, status := some 0x00 } : Block), fresh1 6 []].all (fun b => let s := doneRing b
      s.windows.contains ringWin && s.blk 0 b.seq == some b && !b.done && (b.status.isSome || (b.status.isNone && !b.started && decide (5 < bKind b.w) && s.mayStart 0 b)) &&
        (s.mcl.ring 0).blocks == [b] && !s.mclActive && b.seq != (s.mcl.ring 0).doneSeq) = true ∧
    (∀ v, ∀ k ∈ winKeys v, (doneRing (fresh1 6 [])).d k = (doneRing (fresh1 6 [])).df k) := by
  refine ⟨⟨starts_ok (by decide +kernel), by decide +kernel⟩, by decide +kernel, by decide +kernel⟩

theorem test_dict : (nx (exec (.dict 0 1) (ringWith dictWriting))).d (dkx 0x2900 0 3) = 0x5A := by decide +kernel
theorem test_blockSignal : ((nx (exec (.blockSignal 0 1) (ringOf 4))).obj 0 4095).count = 9 := by decide +kernel
theorem test_write : sentCmp (nx (exec (.write 0 1) (ringOf 1))) = [(2, 0)] := by decide +kernel
theorem test_append : sentCmp (nx (exec (.append 0 1) (ringOf 3))) = [(2, 0)] := by decide +kernel
theorem test_read : sentCmp (nx (exec (.read 0 1) (ringOf 2))) = [(3, 0)] := by decide +kernel
theorem test_blockNop : ((nx (exec (.blockNop 0 1) (ringOf 0))).blk 0 1).map (·.status) = some (some 0) := by decide +kernel
/-- A reserved kind completes with 0x04, and its record waits for the link (R346, R354). -/
theorem test_blockComplete : ((nx (exec (.blockComplete 0 1) (doneRing (fresh1 6 [])))).mcl.queue.map (fun q => match q with
    | .record _ r _ _ => fld r 80 8
    | _ => 0xFF)) = [4, 0xFF] := by decide +kernel

/-! ## The link's flits, training and attestation -/

/-- A flit header: SEQ, ACK, NAK and credits. -/
def flitHdr (q a : Nat) (nak : Nat) (cr : Nat) : W64 := word 64 [(54, q), (44, a), (43, nak), (0, cr)]
/-- The replay limit has been reached. -/
def worn : State := { linked with mcl := { linked.mcl with msReplays := linked.dN (dk 0x2A00 8) } }
def retraining : State := linked.setDN mclStateKey 1
def noWindows : State := (base.setDN mclStateKey 1).setCrit (dk 0x2A00 9) 1
/-- A completion record has called for an interrupt during the hold-off. -/
def irqDue : State := { linked with mcl := { linked.mcl with holdoff := [(1, 2)] } }

theorem witness_CompanionLink :
    (linked.mclActive = true ∧ fSeq (flitHdr 0 5 0 3) = linked.mcl.rxSeq ∧ fSeq (flitHdr 1023 5 0 3) ≠ linked.mcl.rxSeq ∧
      fNak (flitHdr 0 5 0 3) = false ∧ fNak (flitHdr 0 5 1 3) = true ∧ linked.mcl.msReplays + 1 ≤ linked.dN (dk 0x2A00 8)) ∧
    (worn.mclActive = true ∧ worn.dN (dk 0x2A00 8) < worn.mcl.msReplays + 1 ∧ ∀ p, (worn.part p).ckpt.restore = none ∧ (worn.part p).ckpt.queue = []) ∧
    (∀ p, (linked.part p).ckpt.restore = none ∧ (linked.part p).ckpt.queue = []) ∧ retraining.mclActive = false ∧
    (linked.mclVer = 3 ∧ linked.dN (dk 0x2A00 4) = 16) ∧ SMap.get (fun _ => 0) linked.mcl.holdoff 63 ≠ 2 ∧
    (SMap.get (fun _ => 0) irqDue.mcl.holdoff 1 = 2 ∧ compWin ∈ irqDue.windows ∧ compWin.idx = 1 ∧ compWin.kind = 2 ∧ irqDue.LinkClear) ∧
    (let s := irqDue.setDN mclStateKey 1
     SMap.get (fun _ => 0) s.mcl.holdoff 1 = 2 ∧ s.windows.contains compWin = true ∧ s.mclActive = false) := by
  refine ⟨by decide +kernel, by decide +kernel, by decide +kernel, by decide +kernel, by decide +kernel, by decide +kernel,
    ⟨by decide +kernel, mem_ok (by decide +kernel), rfl, rfl, isClear_ok (by decide +kernel)⟩, by decide +kernel⟩

/-- A flit whose CRC fails, for every flit; the CRC of its own bytes is one that holds. -/
theorem witness_CompanionLink_crc (h : W64) (sl : List W128) : crc64 (flitBytes h sl) ≠ ~~~ (crc64 (flitBytes h sl)) := by
  intro e
  have := congrArg (fun v : W64 => v.getLsbD 0) e
  simp at this

/-- Training: whatever the companion's message says (log entry 7), one of the three cases holds. -/
theorem witness_CompanionLink_training :
    (noWindows.dN (dk 0x2A00 3) = 1 ∧ mOpc (msg 0x40 0 0 0 []).hdr = 0x40 ∧ noWindows.mcl.queue = [] ∧ ∀ w, (noWindows.winRaw w).kind = 0) ∧
    ∀ m : MclMsg, let v := mclCommon (Config.mclTraining m.lines).1
      v = 0 ∨ (v ≠ 0 ∧ (Config.mclTraining m.lines).2.toNat ≠ v) ∨ (v ≠ 0 ∧ (Config.mclTraining m.lines).2.toNat = v) := by
  refine ⟨by decide +kernel, fun m => ?_⟩
  simp only
  omega

/-- A request for attestation with a nonce, to be written at `a`. -/
def attestMsg (a : Nat) : MclMsg := msg 0x40 0 0 0 [word 512 [(0, 0x20), (64, 0x1234), (320, a)]]
def asked (n a : Nat) : State := { linked with sec := { linked.sec with attest := List.replicate n (0, 0x1234, BitVec.ofNat 64 a) } }

theorem witness_CompanionLink_attestation :
    [(0x40000, true), (0x40000 + 0x40000 - 35264, true), (0x40000 + 0x40000 - 35263, false), (0x3FFFF, false)].all (fun (e : Nat × Bool) => let m := attestMsg e.1
      let s : State := { asked 3 e.1 with board := { (asked 3 e.1).board with tkUp := true } }
      s.mclActive && mOpc m.hdr == 0x40 && fldN (m.lines.headD 0) 0 8 == 0x20 && s.board.tkUp && decide (s.sec.attest.length < 4) &&
        s.inDataWin (mPart m.hdr) (fld (m.lines.headD 0) 320 64).toNat 35264 == e.2) = true ∧
    4 ≤ (asked 4 0x40000).sec.attest.length ∧ linked.sec.attest = [] ∧
    (asked 1 0x40000).sec.attest = (0, 0x1234, 0x40000) :: [] := by
  decide +kernel

theorem test_mclLaneFailure : (nx (exec .mclLaneFailure linked)).dN (dk 0x2A00 4) = 8 := by decide +kernel
theorem test_irqHoldoffEnd : sentCmp (nx (exec (.irqHoldoffEnd 1) irqDue)) = [(4, 0)] := by decide +kernel
/-- The last place where 35,264 bytes fit; a byte further status 1 is answered (R393). -/
theorem test_attestationRequest :
    ((nx (exec (.attestationRequest (attestMsg (0x80000 - 35264))) linked)).sec.attest.length,
      sentCmp (nx (exec (.attestationRequest (attestMsg (0x80000 - 35263))) linked))) = (1, [(0x40, 0)]) := by decide +kernel

/-! ## Field network, management bus -/

def stopped : State := { base with nmt := .stopped }
def unlocked : State := { base with sec := { base.sec with shadow := { base.sec.shadow with lock := false }, shadowN := { base.sec.shadow with lock := false }.compl } }

/-- Scope and access of an entry, its type's length. -/
def entryAt (idx sub : Nat) : Option (EScope × EAcc × Nat) :=
  match dLoc idx sub with
  | .entry e => some (e.scope, e.acc, e.ty.bytes)
  | _ => none

theorem witness_FieldNetwork :
    (stopped.usdoServed = false ∧ base.usdoServed = true ∧ base.serverBusy = false ∧ rejoining.usdoServed = true ∧ rejoining.serverBusy = true) ∧
    (dLoc (0x3000 : W16).toNat (0 : Byte).toNat = .noIndex ∧ dLoc (0x1018 : W16).toNat (5 : Byte).toNat = .noSub) ∧
    ([(0x1000, 0), (0x2100, 3), (0x2300, 2), (0x2201, 1), (0x1017, 0)].map (fun e => entryAt e.1 e.2) =
      [some (.m, .const, 4), some (.m, .ro, 2), some (.m, .crit, 2), some (.m, .wo, 1), some (.m, .rw, 2)]) ∧
    [(0x1000, 0), (0x2100, 3), (0x1017, 0)].all (fun e => (base.strEntry e.1 e.2).isNone && (base.liveM e.1 e.2).isNone) = true ∧
    (unlocked.usdoServed = true ∧ unlocked.serverBusy = false ∧ unlocked.sec.shadow.lock = false ∧ base.sec.shadow.lock = true) ∧
    (base.canUp = true ∧ ({ base with board := { base.board with pg := false } } : State).canUp = false ∧ base.dN (dk 0x1017 0) ≠ 0 ∧
      (base.setDN (dk 0x1017 0) 0).dN (dk 0x1017 0) = 0 ∧ base.nmt = .preop ∧ stopped.nmt = .stopped) := by
  decide +kernel

theorem test_usdoDownload : (nx (exec (.usdoDownload 0x1017 0 2 500) base)).dN (dk 0x1017 0) = 500 ∧
    (nx (exec (.usdoDownload 0x1000 0 4 1) base)).out = [.usdo 0x1000 0 0x06010002 []] := by decide +kernel
theorem test_usdoUpload : (nx (exec (.usdoUpload 0x1017 0) base)).out = [.usdo 0x1017 0 0 [0xE8, 3]] := by decide +kernel
/-- Staged bits are only added, and none once FUSE_LOCK is set (R376). -/
theorem test_fuseStage : (nx (exec (.fuseStage 3 4 6) unlocked)).sec.staged.arb = 6 ∧ (nx (exec (.fuseStage 3 4 6) base)).dN (dk 0x2600 4) = 1 := by
  decide +kernel
theorem test_nmt : (nx (exec (.nmtStateCommand .start) base)).nmt = .operational ∧ (nx (exec .nmtResetNode stopped)).nmt = .preop := by decide +kernel
theorem test_heartbeat : (nx (exec .heartbeat stopped)).out = [.heartbeat 1 4] := by decide +kernel

/-- A module whose trusted kernel runs, with nothing configured, and a document in its buffer. -/
def withDoc (l : List Byte) : State :=
  { State.reset with
    board := { Board.reset with tkUp := true }
    sec := { Sec.reset with cfgBuf := l } }
/-- A document without items, of generation 0 (R389). -/
def emptyDoc : List Byte := leBytes 4 0x47464350 ++ List.replicate 12 0

theorem tableOk_ok : (withDoc emptyDoc).tableOk = true := by
  have h : ∀ (p : PartId) (d : District), (withDoc emptyDoc).d (dkx 0x2620 p (d.val + 1)) = 0 := by decide +kernel
  have a : ∀ (p : PartId), ∀ i ∈ List.range 4, (withDoc emptyDoc).d (dkx 0x2610 p (3 + i)) = 0 ∧ (withDoc emptyDoc).d (dkx 0x2610 p (7 + i)) = 0 := by
    decide +kernel
  have b : ∀ (p : PartId), ∀ i ∈ List.range 16, (withDoc emptyDoc).d (dkx 0x2620 p (1 + i)) = 0 := by decide +kernel
  simp only [State.tableOk, h, Bool.and_eq_true, List.all_eq_true, beq_iff_eq, and_assoc]
  refine ⟨?_, ?_, ?_, ?_, ?_, ?_⟩
  · intro e _ i hi; simp [(a e.1 i hi).1]
  · intro e _ i hi; simp [(a e.1 i hi).2]
  · intro e _ i hi; simp [b e.1 i hi]
  · intro p _ i hi; simp [(a p i hi).1]
  · simp
  · decide +kernel

theorem witness_ManagementBus :
    (({ base with board := { base.board with pg := false } } : State).board.pg = false ∧ State.reset.board.tkUp = false ∧ State.reset.board.pg = true) ∧
    (base.board.pg = true ∧ base.board.tkUp = true ∧ base.sec.shadowN = base.sec.shadow.compl ∧ base.docCode base.sec.cfgBuf base.sec.cfgOvf = (1, 0)) ∧
    ((withDoc emptyDoc).board.pg = true ∧ (withDoc emptyDoc).board.tkUp = true ∧ (withDoc emptyDoc).sec.shadowN = (withDoc emptyDoc).sec.shadow.compl ∧
      ((withDoc emptyDoc).docCode (withDoc emptyDoc).sec.cfgBuf (withDoc emptyDoc).sec.cfgOvf).1 = 0) ∧
    (∀ x : Byte, (withDoc (List.replicate 65535 x)).sec.cfgBuf.length + [x].length ≤ 65536 ∧
      65536 < (withDoc (List.replicate 65536 x)).sec.cfgBuf.length + [x].length ∧ (withDoc (List.replicate 65536 x)).sec.cfgBuf.length ≤ 65536) ∧
    (({ base with sec := { base.sec with shadow := { base.sec.shadow with debugLock := false } } } : State).sec.shadow.debugLock = false ∧
      base.sec.shadow.debugLock = true) := by
  refine ⟨by decide +kernel, by decide +kernel, ⟨by decide +kernel, by decide +kernel, by decide +kernel, ?_⟩, fun x => ?_, by decide +kernel⟩
  rotate_left
  · change (List.replicate 65535 x).length + 1 ≤ 65536 ∧ 65536 < (List.replicate 65536 x).length + 1 ∧ (List.replicate 65536 x).length ≤ 65536
    rw [List.length_replicate, List.length_replicate]
    decide
  have a : docForm (withDoc emptyDoc).sec.cfgBuf = true := by decide +kernel
  have b : docGen (withDoc emptyDoc).sec.cfgBuf = (withDoc emptyDoc).dN (dk 0x2600 3) := by decide +kernel
  have c : docItems (withDoc emptyDoc).sec.cfgBuf = [] := by decide +kernel
  have d : (allParts.filter (withDoc emptyDoc).tableHas) = [] := by decide +kernel
  have e : (withDoc emptyDoc).writeItems [] = withDoc emptyDoc := rfl
  simp only [State.docCode, a, b, c]
  have f : (withDoc emptyDoc).sec.cfgOvf = false := rfl
  have g : ∀ p, (withDoc emptyDoc).anyEnabled p = false := by decide +kernel
  have i : (withDoc emptyDoc).liveCores = [] := by decide +kernel
  simp [e, f, g, i, tableOk_ok, d]

theorem test_configBufferWrite : (nx (exec (.configBufferWrite true [1, 2]) base)).sec.cfgBuf = [1, 2] ∧
    (nx (exec (.configBufferWrite false [1, 2]) base)).sec.cfgBuf = [] := by decide +kernel
theorem test_configInstall : (nx (exec (.configInstall true) base)).sec.cfgResult = 1 := by decide +kernel
theorem test_resetCauseRead : (nx (exec (.resetCauseRead true) base)).out = [.smbus [1, 0]] := by decide +kernel
theorem test_extest : (nx (exec (.jtagInstruction .extest) base)).sec.jtag = .bypass := by decide +kernel

/-! ## Well-formedness refuses each kind of ill-formed command -/

/-- NOP with the opcode of TOKSET; HALT in a deferred group (R169). -/
theorem test_wf_slot : (Instr.nop slot0 (cmd 0x00 [])).wf = true ∧ (Instr.nop slot0 (cmd 0x0D [])).wf = true ∧ (Instr.nop slot0 (cmd 0x01 [])).wf = false ∧
    (Instr.halt ⟨0, .dq⟩ (cmd 0x07 [])).wf = false ∧ (Instr.fill ⟨0, .dq⟩ (cmd 0x1C [])).wf = true := by decide +kernel
/-- 33 data units (R235). -/
theorem test_wf_packet : (Instr.mrd (pkt 0x00 0 0 0 (List.replicate 33 0) none 0)).wf = false ∧
    (Instr.mrd (pkt 0x00 0 0 0 (List.replicate 32 0) none 0)).wf = true := by decide +kernel
/-- 9 lines (Table 14-1). -/
theorem test_wf_mcl : (Instr.mclMwr (msg 0x31 0 7 0 (List.replicate 9 0))).wf = false ∧ (Instr.mclMwr (msg 0x31 0 7 0 (List.replicate 8 0))).wf = true := by
  decide +kernel
/-- The same symbol twice; a pattern of zero. -/
theorem test_wf_upset : (Instr.dramScrub 0 [(1, 1), (1, 2)]).wf = false ∧ (Instr.dramScrub 0 [(1, 0)]).wf = false ∧ (Instr.dramScrub 0 [(1, 1), (2, 2)]).wf = true := by
  decide +kernel
/-- MOV with the opcode of ADD (R136). -/
theorem test_wf_element : (Instr.mov 0 .primary (word 32 [(26, 2)])).wf = false ∧ (Instr.mov 0 .primary (word 32 [(26, 1)])).wf = true := by decide +kernel
/-- 16 slots in a flit (R338), 21 in a codeword (R228), and a symbol in error twice. -/
theorem test_wf_units : (Instr.mclFlit 0 (List.replicate 16 0) 0).wf = false ∧ (Instr.mclFlit 0 (List.replicate 15 0) 0).wf = true ∧
    (Instr.codeword 0 1 [] 0 (List.replicate 21 0)).wf = false ∧ (Instr.codeword 0 1 [3, 3] 0 (List.replicate 20 0)).wf = false ∧
    (Instr.codeword 0 1 [3] 0 (List.replicate 20 0)).wf = true ∧ (Instr.codeword 0 2 [3] 0 (List.replicate 20 0)).wf = false := by decide +kernel
/-- A download of 3 bytes (R356); fuses staged with 5. -/
theorem test_wf_len : (Instr.usdoDownload 0x2000 0 3 0).wf = false ∧ (Instr.usdoDownload 0x2000 0 4 0).wf = true ∧ (Instr.fuseStage 3 5 0).wf = false := by
  decide +kernel
/-- A core listed twice; a word upset twice, and a bit past the 72 of a word with its check bits. -/
theorem test_wf_upsets : (Instr.selfTestDone [1, 1]).wf = false ∧ (Instr.selfTestDone [1, 2]).wf = true ∧ (Instr.sramScrub 0 0 [(1, 1, 1), (1, 2, 2)]).wf = false ∧
    (Instr.sramScrub 0 0 [(1, 72, 1)]).wf = false ∧ (Instr.sramScrub 0 0 [(1, 71, 71)]).wf = true := by decide +kernel
/-- A segment-end message of more bytes than a segment (R269). -/
theorem test_wf_segment : (Instr.segmentEnd (mail, ⟨0, 0, 5, 1, 0, 0, 0, 0, 65537, []⟩)).wf = false ∧
    (Instr.segmentEnd (mail, ⟨0, 0, 5, 1, 0, 0, 0, 0, 65536, []⟩)).wf = true := by
  decide +kernel

end Sys2Proof.Tests
end

section
/-!
PROOFS. Packed codes (R43): a packed byte is the number whose digits, in base `2 ^ b` and lowest first, are its codes.
-/
namespace Sys2Proof.Machine

/-- The digit at `i` of a number, read as a field is read. -/
theorem ofDigits_div_pow_mod_eq_getD {D : Nat} (hD : 0 < D) (l : List Nat) (i : Nat) (hl : ∀ v ∈ l, v < D) :
    Nat.ofDigits D l / D ^ i % D = l.getD i 0 := by
  rw [Nat.ofDigits_div_pow_eq_ofDigits_drop i hD l hl]
  obtain hi | hi := lt_or_ge i l.length
  · rw [List.drop_eq_getElem_cons hi, Nat.ofDigits_cons, Nat.add_mul_mod_self_left, Nat.mod_eq_of_lt (hl _ (List.getElem_mem hi)),
      List.getD_eq_getElem _ _ hi]
  · rw [List.drop_eq_nil_of_le hi, List.getD_eq_default _ _ hi, Nat.ofDigits_nil, Nat.zero_mod]

/-- The sum that `packGo` takes over the places of a byte, from place `s` on. -/
theorem foldl_zip_range'_eq_ofDigits (b : Nat) (t : List Nat) (per s a : Nat) (ht : t.length ≤ per) :
    ((List.range' s per).zip t).foldl (fun a e => a + e.2 * 2 ^ (b * e.1)) a = a + 2 ^ (b * s) * Nat.ofDigits (2 ^ b) t := by
  induction t generalizing per s a with
  | nil => simp
  | cons v t ih =>
    obtain _ | per := per
    · simp at ht
    · rw [List.range'_succ, List.zip_cons_cons, List.foldl_cons, ih per (s + 1) _ (by simpa using ht), Nat.ofDigits_cons]
      simp only [Nat.mul_add, Nat.pow_add, Nat.mul_one]
      ring

theorem packGo_succ (b per n : Nat) {l : List Nat} (hl : l ≠ []) :
    packGo b per (n + 1) l = BitVec.ofNat 8 (Nat.ofDigits (2 ^ b) (l.take per)) :: packGo b per n (l.drop per) := by
  rw [packGo, if_neg (by simpa using hl), List.range_eq_range', foldl_zip_range'_eq_ofDigits _ _ _ _ _ (List.length_take_le _ _)]
  simp

section
variable {b per : Nat} (hb : b * per = 8)
include hb

/-- Codes that fill their bytes are packed a byte at a time: what holds of no codes and no bytes, and goes on holding when a byte of codes
is put in front, holds of the codes and the bytes packed from them. -/
theorem packGo_induction {P : List Nat → List Byte → Prop} (nil : P [] [])
    (byte : ∀ t l bs, t.length = per → P l bs → P (t ++ l) (BitVec.ofNat 8 (Nat.ofDigits (2 ^ b) t) :: bs))
    (n : Nat) (l : List Nat) (hn : l.length ≤ n) (hd : per ∣ l.length) : P l (packGo b per n l) := by
  have hper : per ≠ 0 := by rintro rfl; simp at hb
  induction n generalizing l with
  | zero =>
    obtain rfl := List.length_eq_zero_iff.mp (Nat.le_zero.mp hn)
    exact nil
  | succ n ih =>
    obtain rfl | hl := eq_or_ne l []
    · exact nil
    · have hle : per ≤ l.length := Nat.le_of_dvd (List.length_pos_iff.mpr hl) hd
      have hrest : P (l.drop per) (packGo b per n (l.drop per)) :=
        ih _ (by rw [List.length_drop]; omega) (by rw [List.length_drop]; exact Nat.dvd_sub hd (dvd_refl per))
      have hcons := byte _ _ _ (List.length_take_of_le hle) hrest
      rwa [List.take_append_drop, ← packGo_succ b per n hl] at hcons

/-- `b * per = 8` leaves room for the codes of a byte, so that none is cut off. -/
theorem packed_byte_div_mod {t : List Nat} (i : Nat) (ht : t.length = per) (hv : ∀ v ∈ t, v < 2 ^ b) :
    (BitVec.ofNat 8 (Nat.ofDigits (2 ^ b) t)).toNat / 2 ^ (b * i) % 2 ^ b = t.getD i 0 := by
  have hb0 : b ≠ 0 := by rintro rfl; simp at hb
  have hlt : Nat.ofDigits (2 ^ b) t < 2 ^ 8 :=
    calc Nat.ofDigits (2 ^ b) t < (2 ^ b) ^ t.length := Nat.ofDigits_lt_base_pow_length (Nat.one_lt_two_pow hb0) hv
      _ = 2 ^ 8 := by rw [← Nat.pow_mul, ht, hb]
  rw [BitVec.toNat_ofNat, Nat.mod_eq_of_lt hlt, Nat.pow_mul, ofDigits_div_pow_mod_eq_getD (Nat.two_pow_pos b) _ _ hv]

theorem length_packGo_mul (n : Nat) (l : List Nat) (hn : l.length ≤ n) (hd : per ∣ l.length) :
    (packGo b per n l).length * per = l.length := by
  refine packGo_induction hb (P := fun l bs => bs.length * per = l.length) (Nat.zero_mul per) ?_ n l hn hd
  intro t l bs ht ih
  rw [List.length_cons, Nat.succ_mul, ih, List.length_append, ht, Nat.add_comm]

theorem getD_packGo_div_mod (n : Nat) (l : List Nat) (hn : l.length ≤ n) (hd : per ∣ l.length) (hv : ∀ v ∈ l, v < 2 ^ b)
    (j : Nat) {i : Nat} (hi : i < per) :
    ((packGo b per n l).getD j 0).toNat / 2 ^ (b * i) % 2 ^ b = l.getD (per * j + i) 0 := by
  refine packGo_induction hb (P := fun l bs => (∀ v ∈ l, v < 2 ^ b) → ∀ j,
    (bs.getD j 0).toNat / 2 ^ (b * i) % 2 ^ b = l.getD (per * j + i) 0) (by simp) ?_ n l hn hd hv j
  intro t l bs ht ih hv j
  obtain ⟨hvt, hvl⟩ := List.forall_mem_append.mp hv
  cases j with
  | zero => rw [List.getD_cons_zero, packed_byte_div_mod hb i ht hvt, Nat.mul_zero, Nat.zero_add, List.getD_append _ _ _ _ (ht ▸ hi)]
  | succ j =>
    have hplace : per * (j + 1) + i = per + (per * j + i) := by ring
    rw [List.getD_cons_succ, ih hvl j, hplace, List.getD_append_right _ _ _ _ (by omega), ht, Nat.add_sub_cancel_left]

/-- The codes read back from a full byte. -/
theorem map_range_packed_byte {t : List Nat} (ht : t.length = per) (hv : ∀ v ∈ t, v < 2 ^ b) :
    (List.range per).map (fun i => (BitVec.ofNat 8 (Nat.ofDigits (2 ^ b) t)).toNat / 2 ^ (b * i) % 2 ^ b) = t := by
  refine List.ext_getElem (by simp [ht]) fun i _ hi => ?_
  rw [List.getElem_map, List.getElem_range, packed_byte_div_mod hb i ht hv, List.getD_eq_getElem _ _ hi]

theorem flatMap_packGo (n : Nat) (l : List Nat) (hn : l.length ≤ n) (hd : per ∣ l.length) (hv : ∀ v ∈ l, v < 2 ^ b) :
    (packGo b per n l).flatMap (fun x => (List.range per).map (fun i => x.toNat / 2 ^ (b * i) % 2 ^ b)) = l := by
  refine packGo_induction hb (P := fun l bs => (∀ v ∈ l, v < 2 ^ b) →
    bs.flatMap (fun x => (List.range per).map (fun i => x.toNat / 2 ^ (b * i) % 2 ^ b)) = l) (fun _ => rfl) ?_ n l hn hd hv
  intro t l bs ht ih hv
  obtain ⟨hvt, hvl⟩ := List.forall_mem_append.mp hv
  rw [List.flatMap_cons, map_range_packed_byte hb ht hvt, ih hvl]

end

/-- The three widths fill a byte without a gap. -/
theorem codeBits_mul_div (fmt : Nat) : codeBits fmt * (8 / codeBits fmt) = 8 := by
  unfold codeBits
  split
  · rfl
  · split <;> rfl

theorem length_packCodes {fmt : Nat} {l : List Nat} (hd : 8 / codeBits fmt ∣ l.length) :
    (packCodes fmt l).length = l.length * codeBits fmt / 8 := by
  have h := length_packGo_mul (codeBits_mul_div fmt) l.length l le_rfl hd
  have h8 : l.length * codeBits fmt = (packCodes fmt l).length * 8 := by
    rw [← h, Nat.mul_assoc, Nat.mul_comm _ (codeBits fmt), codeBits_mul_div, packCodes]
  rw [h8, Nat.mul_div_cancel _ (by decide)]

theorem unpackCodes_packCodes {fmt : Nat} {l : List Nat} (hd : 8 / codeBits fmt ∣ l.length) (hv : ∀ v ∈ l, v < 2 ^ codeBits fmt) :
    unpackCodes fmt (packCodes fmt l) = l :=
  flatMap_packGo (codeBits_mul_div fmt) l.length l le_rfl hd hv

/-- Element `per * j + i` has the bits of place `i` of byte `j`, where `per` is the number of codes in a byte (R43). -/
theorem fldN_getD_packCodes {fmt b per : Nat} (hb : codeBits fmt = b) (hper : 8 / b = per) {l : List Nat} (hd : 8 / codeBits fmt ∣ l.length)
    (hv : ∀ v ∈ l, v < 2 ^ codeBits fmt) (j i : Nat) (hi : i < per) :
    fldN ((packCodes fmt l).getD j 0) (b * i) b = l.getD (per * j + i) 0 := by
  subst hb hper
  rw [fldN, BitVec.extractLsb'_toNat, Nat.shiftRight_eq_div_pow]
  exact getD_packGo_div_mod (codeBits_mul_div fmt) l.length l le_rfl hd hv j hi

/-- Settles O30: the length, the round trip and the place of each code by induction over the bytes, each code being a digit of its byte. -/
theorem packedCodes : Obligations.PackedCodes := by
  intro fmt l _ hmod hv
  have hd := Nat.dvd_of_mod_eq_zero hmod
  refine ⟨length_packCodes hd, unpackCodes_packCodes hd hv, ?_, ?_, ?_⟩
  · intro h1 j _
    have h4 : codeBits fmt = 4 := if_pos h1
    have hcode := fldN_getD_packCodes h4 rfl hd hv j
    exact ⟨hcode 0 (by decide), hcode 1 (by decide)⟩
  · intro h2 h3 j i hi _
    have hb : codeBits fmt = 2 := (if_neg (by omega)).trans (if_pos h3)
    exact fldN_getD_packCodes hb rfl hd hv j i hi
  · rintro rfl j i hi _
    have hcode := fldN_getD_packCodes (b := 1) rfl rfl hd hv j i hi
    rwa [Nat.one_mul] at hcode

end Sys2Proof.Machine
end

section
/-!
PROOFS. Reductions and statistics instructions of the vector engine (R143 to R147): what writing an s or a register leaves, the active lanes
of an operand, and the value and flags of each instruction.
-/
namespace Sys2Proof.Machine

/-! ## One context, one element instruction -/

theorem Core.setCtx_setCtx_ctx (k : Core) (x : CtxId) (v : Ctx) : (k.setCtx x v).setCtx x (k.ctx x) = k := by cases x <;> rfl

theorem State.onlyCtx_modCtx (s : State) (c : CoreId) (x : CtxId) (f : Ctx → Ctx) : s.OnlyCtx (s.modCtx c x f) c x where
  core := State.onlyCore_modCtx s c x f
  ctx := by
    rw [State.core_modCtx]
    exact Core.setCtx_setCtx_ctx ..

/-- A word that R136 to R138 allow has the effect of its opcode, in its context only. -/
theorem State.elemGo_of_elemOk {s : State} {c : CoreId} {x : CtxId} {op : Nat} {w : W32} (hok : elemOk op w (s.ctx c x).pos.en = true) :
    s.OnlyCtx (s.elemGo c x op w) c x ∧ (s.elemGo c x op w).ctx c x = (s.ctx c x).elem op w := by
  refine ⟨State.onlyCtx_modCtx .., ?_⟩
  rw [State.elemGo, State.ctx_modCtx, Ctx.elemGo, if_pos hok]

/-! ## Poison marks (R151) -/

theorem getLsbD_setBit {n : Nat} (b : BitVec n) {i : Nat} (hi : i < n) (x : Bool) (j : Nat) :
    (setBit b i x).getLsbD j = if j = i then x else b.getLsbD j := by
  have hone : (BitVec.ofNat n (2 ^ i)).getLsbD j = decide (j = i) := by
    rw [BitVec.getLsbD_ofNat, Nat.testBit_two_pow]
    grind
  cases x with
  | false =>
    rw [setBit, if_neg Bool.false_ne_true, BitVec.getLsbD_and, BitVec.getLsbD_not, hone]
    obtain rfl | hj := eq_or_ne j i
    · simp
    · have hlt := b.lt_of_getLsbD (i := j)
      grind
  | true =>
    rw [setBit, if_pos rfl, BitVec.getLsbD_or, hone]
    obtain rfl | hj := eq_or_ne j i
    · simp
    · simp [hj]

section
variable (p : Prog) (row : Nat) (r : Reg) (x : Bool)

@[simp] theorem Prog.setMark_v : (p.setMark row r x).v = p.v := by cases r <;> rfl
@[simp] theorem Prog.setMark_s : (p.setMark row r x).s = p.s := by cases r <;> rfl
@[simp] theorem Prog.setMark_a : (p.setMark row r x).a = p.a := by cases r <;> rfl
@[simp] theorem Prog.setMark_c : (p.setMark row r x).c = p.c := by cases r <;> rfl
@[simp] theorem Prog.setMark_m0 : (p.setMark row r x).m0 = p.m0 := by cases r <;> rfl
@[simp] theorem Prog.setMark_m1 : (p.setMark row r x).m1 = p.m1 := by cases r <;> rfl
@[simp] theorem Prog.setMark_m2 : (p.setMark row r x).m2 = p.m2 := by cases r <;> rfl
@[simp] theorem Prog.setMark_m3 : (p.setMark row r x).m3 = p.m3 := by cases r <;> rfl

@[simp] theorem Prog.scalar_setMark (i : Nat) (t : Reg) : (p.setMark row r x).scalar i t = p.scalar i t := by
  cases t <;> simp [Prog.scalar]

@[simp] theorem Prog.lane_setMark (i : Nat) (t : Reg) (j : Nat) : (p.setMark row r x).lane i t j = p.lane i t j := by
  cases t <;> simp [Prog.lane, Prog.lanes]

/-- A write of the whole register leaves it the mark of its sources. -/
theorem Prog.markWrite_whole (src : Bool) : p.markWrite row r src true = p.setMark row r src := by cases src <;> rfl

end

/-! ## Writing an s or a register (R137) -/

/-- The s and a registers that a selector can choose. -/
theorem regOf_of_isScalar {d : Nat} (h : (regOf d).isScalar = true) : (∃ n, n < 8 ∧ regOf d = .s n) ∨ ∃ n, n < 4 ∧ regOf d = .a n := by
  unfold regOf at *
  split at h
  · cases h
  split at h
  · exact .inl ⟨d - 16, by omega, by simp [*]⟩
  split at h
  · exact .inr ⟨d - 24, by omega, by simp [*]⟩
  split at h <;> cases h

theorem isV_of_isScalar {r : Reg} (h : r.isScalar = true) : r.isV = false := by
  cases r with
  | v => cases h
  | _ => rfl

theorem Prog.wrote_setScalar (p : Prog) (row : Nat) {d : Nat} (h : (regOf d).isScalar = true) (act : Nat → Bool) (y : W32) :
    p.Wrote (p.setScalar row (regOf d) y) row (regOf d) act (fun _ => y) := by
  obtain ⟨m, hm, hd⟩ | ⟨m, hm, hd⟩ := regOf_of_isScalar h
  all_goals rw [hd]
  · refine ⟨fun n j _ _ => rfl, fun n _ => ?_, fun i n _ => ?_, ⟨rfl, rfl, rfl, rfl, rfl⟩⟩
    · simp [Prog.scalar, Prog.setScalar, SMap.get_set, eq_comm]
    · simp [Prog.scalar, Prog.setScalar]
  · refine ⟨fun n j _ _ => rfl, fun n _ => ?_, fun i n hn => ?_, ⟨rfl, rfl, rfl, rfl, rfl⟩⟩
    · simp [Prog.scalar, Prog.setScalar]
    · have hkey : 4 * i + n = 4 * row + m ↔ i = row ∧ m = n := by omega
      simp [Prog.scalar, Prog.setScalar, SMap.get_set, hkey]

theorem Prog.Wrote.setMark {p q : Prog} {row : Nat} {r : Reg} {act : Nat → Bool} {val : Nat → W32} (h : p.Wrote q row r act val)
    (i : Nat) (t : Reg) (x : Bool) : p.Wrote (q.setMark i t x) row r act val := by
  obtain ⟨hv, hs, ha, hrest⟩ := h
  refine ⟨fun n j hn hj => ?_, fun n hn => ?_, fun e n hn => ?_, ?_⟩
  · rw [Prog.lane_setMark, hv n j hn hj]
  · rw [Prog.scalar_setMark, hs n hn]
  · rw [Prog.scalar_setMark, ha e n hn]
  · simpa using hrest

theorem Prog.marked_setScalar (p : Prog) (row : Nat) (r : Reg) (y : W32) (i : Nat) (t : Reg) :
    (p.setScalar row r y).marked i t = p.marked i t := by
  cases r <;> rfl

theorem Prog.marked_setMark (p : Prog) (row : Nat) {d : Nat} (h : (regOf d).isScalar = true) (x : Bool) (t : Reg) :
    (p.setMark row (regOf d) x).marked row t = if t = regOf d then x else p.marked row t := by
  obtain ⟨m, hm, hd⟩ | ⟨m, hm, hd⟩ := regOf_of_isScalar h
  all_goals rw [hd]
  · cases t with
    | s n => simp only [Prog.marked, Prog.setMark, getLsbD_setBit _ hm, Reg.s.injEq]
    | _ => rfl
  · cases t with
    | a n => simp only [Prog.marked, Prog.setMark, SMap.get_set, Nat.add_left_cancel_iff, Reg.a.injEq]
    | _ => rfl

theorem Prog.marked_setMark_ne_row (p : Prog) {row i n d : Nat} (h : (regOf d).isScalar = true) (x : Bool) (hi : i ≠ row) (hn : n < 4) :
    (p.setMark row (regOf d) x).marked i (.a n) = p.marked i (.a n) := by
  obtain ⟨m, hm, hd⟩ | ⟨m, hm, hd⟩ := regOf_of_isScalar h
  all_goals rw [hd]
  · rfl
  · exact SMap.get_set_ne _ _ _ _ _ (by omega)

theorem Prog.marked_setScalar_setMark (p : Prog) (row : Nat) {d : Nat} (h : (regOf d).isScalar = true) (y : W32) (src : Bool) :
    p.Marked ((p.setScalar row (regOf d) y).setMark row (regOf d) src) row (regOf d) src true where
  here n _ := by rw [Prog.marked_setMark _ _ h, Prog.marked_setScalar, Bool.not_true, Bool.and_false, Bool.or_false]
  rows i n hi hn := by rw [Prog.marked_setMark_ne_row _ h _ hi hn, Prog.marked_setScalar]

section
variable (k : Ctx) {op : Nat} {w : W32} (hd : (regOf (eD w)).isScalar = true) (lanes : List (W32 × Flags)) (r : W32 × Flags)
include hd

theorem Ctx.writeDest_of_isScalar : k.writeDest op w lanes r =
    (k.setProg (fun p => (p.setScalar k.pos.row (regOf (eD w)) r.1).setMark k.pos.row (regOf (eD w)) (k.srcMark op w))).vecFlags r.2 := by
  cases hr : regOf (eD w) with
  | v => rw [hr] at hd; cases hd
  | _ => simp only [Ctx.writeDest, hr, Prog.markWrite_whole]

theorem Ctx.wrote_writeDest : k.Wrote (k.writeDest op w lanes r) op w (fun _ => r.1) := by
  rw [Ctx.writeDest_of_isScalar k hd]
  refine ⟨(Prog.wrote_setScalar _ _ hd _ _).setMark _ _ _, ?_, rfl⟩
  rw [isV_of_isScalar hd]
  exact Prog.marked_setScalar_setMark _ _ hd _ _

theorem Ctx.flagged_writeDest : k.Flagged (k.writeDest op w lanes r) r.2 := by
  rw [Ctx.writeDest_of_isScalar k hd]
  exact ⟨rfl, rfl⟩

end

/-! ## Operand A of a reduction -/

theorem SMap.length_walk {α : Type} (d : Nat → α) (n a : Nat) (m : SMap α) : (SMap.walk d a n m).length = n := by
  induction n generalizing a m with
  | zero => rfl
  | succ n ih =>
    cases m with
    | nil => simp [SMap.walk, ih]
    | cons e t =>
      rw [SMap.walk]
      split <;> simp [ih]

theorem Prog.length_lanes (p : Prog) (row : Nat) (r : Reg) : (p.lanes row r).length = 128 := by
  cases r with
  | v n => exact SMap.length_walk ..
  | _ => exact List.length_replicate

theorem Prog.lanes_eq_map_lane (p : Prog) (row : Nat) (r : Reg) : p.lanes row r = (List.range 128).map (p.lane row r) := by
  refine List.ext_getElem (by simp [Prog.length_lanes]) fun j hj _ => ?_
  rw [List.getElem_map, List.getElem_range, Prog.lane, List.getD_eq_getElem _ _ hj]

theorem Prog.lane_of_isScalar (p : Prog) (row : Nat) {r : Reg} (h : r.isScalar = true) {j : Nat} (hj : j < 128) :
    p.lane row r j = p.scalar row r := by
  have hlanes : p.lanes row r = List.replicate 128 (p.scalar row r) := by
    cases r with
    | v => cases h
    | _ => rfl
  rw [Prog.lane, hlanes, List.getD_replicate _ hj]

theorem Ctx.opnd_of_elemArity (k : Ctx) {op : Nat} (h : elemArity op = some 1) (w : W32) :
    k.opnd op w 0 = k.prog.lane k.pos.row (regOf (eA w)) := by
  funext j
  simp [Ctx.opnd, elemUses, h]

/-- What a reduction gathers: column and value of every lane that is active. -/
theorem Ctx.filterMap_active_eq_lanesOf (k : Ctx) {op : Nat} (h : elemArity op = some 1) (w : W32) :
    ((bitList (k.active w)).zip ((List.range 128).zip (k.prog.lanes k.pos.row (regOf (eA w))))).filterMap
      (fun e => if e.1 then some (k.pos.col e.2.1, e.2.2) else none) = k.lanesOf op w := by
  have hzip : (bitList (k.active w)).zip ((List.range 128).zip (k.prog.lanes k.pos.row (regOf (eA w)))) =
      (List.range 128).map (fun j => (k.act w j, j, k.opnd op w 0 j)) := by
    rw [Prog.lanes_eq_map_lane, ← Ctx.opnd_of_elemArity k h, bitList]
    conv_lhs => enter [2, 1]; rw [← List.map_id (List.range 128)]
    rw [List.zip_map', List.zip_map']
    rfl
  rw [hzip, List.filterMap_map, Ctx.lanesOf, ← List.filterMap_eq_map, List.filterMap_filter]
  rfl

/-! ## Reductions (R143 to R145) -/

/-- EMPTY is set and counted. -/
def Ctx.vecEmpty (k : Ctx) : Ctx := { k with vec := { k.vec with empty := true, emptycnt := k.vec.emptycnt + 1 } }

theorem Ctx.Wrote.vecEmpty {k k' : Ctx} {op : Nat} {w : W32} {val : Nat → W32} (h : k.Wrote k' op w val) : k.Wrote k'.vecEmpty op w val :=
  ⟨h.regs, h.marks, h.rest⟩

section
variable {op : Nat} (hop : isRed op = true)
include hop

theorem elemArity_of_isRed : elemArity op = some 1 := by
  obtain ⟨hlo, hhi⟩ : 0x28 ≤ op ∧ op ≤ 0x30 := by simpa [isRed] using hop
  interval_cases op <;> rfl

theorem Ctx.elem_of_isRed (w : W32) (k : Ctx) : k.elem op w = elemRed op w k := by
  obtain ⟨hlo, hhi⟩ : 0x28 ≤ op ∧ op ≤ 0x30 := by simpa [isRed] using hop
  interval_cases op <;> rfl

theorem isScalar_of_elemOk_of_isRed {w : W32} {en : BitVec 4} (hok : elemOk op w en = true) : (regOf (eD w)).isScalar = true := by
  obtain ⟨hlo, hhi⟩ : 0x28 ≤ op ∧ op ≤ 0x30 := by simpa [isRed] using hop
  have h0 : op ≠ 0 := by omega
  have hcmp : isCmp op = false := by simp [isCmp]; omega
  simp only [elemOk, h0, hcmp, hop, if_true, if_false, Bool.false_eq_true, Bool.and_eq_true] at hok
  exact hok.2.1

/-- A reduction is one write: of the value of Table 6-5 where no lane is active, of the value over the active lanes otherwise. -/
theorem elemRed_eq (w : W32) (k : Ctx) : elemRed op w k =
    if k.lanesOf op w = [] then
      if (emptyRed op).2 then (k.writeDest op w [] ((emptyRed op).1, {})).vecEmpty else k.writeDest op w [] ((emptyRed op).1, {})
    else k.writeDest op w [] (reduce op (k.lanesOf op w)) := by
  simp only [elemRed, Ctx.filterMap_active_eq_lanesOf k (elemArity_of_isRed hop), List.isEmpty_iff]
  split <;> rfl

end

theorem Flags.or_empty (f : Flags) : f.or {} = f := by simp [Flags.or]

/-- The status of a write that raises no flag, once EMPTY is set and counted. -/
theorem Ctx.Flagged.vecEmpty {k k' : Ctx} (h : k.Flagged k' {}) :
    k'.vecEmpty.vec = { k.vec with empty := true, emptycnt := k.vec.emptycnt + 1 } := by
  obtain ⟨hflags, hrest⟩ := h
  rw [Flags.or_empty] at hflags
  rw [← hflags] at hrest
  rw [Ctx.vecEmpty, show k'.vec = k.vec from hrest]

/-- What a reduction does to its context, with the value and the EMPTY of Table 6-5 for its opcode (R143 to R145). -/
theorem Ctx.wrote_elem_of_isRed {op : Nat} (hop : isRed op = true) {w : W32} {k : Ctx} (hok : elemOk op w k.pos.en = true) :
    k.Wrote (k.elem op w) op w (fun _ => if k.lanesOf op w = [] then (emptyRed op).1 else (reduce op (k.lanesOf op w)).1) ∧
      if k.lanesOf op w = [] ∧ (emptyRed op).2 = true then (k.elem op w).vec = { k.vec with empty := true, emptycnt := k.vec.emptycnt + 1 }
      else k.Flagged (k.elem op w) (if k.lanesOf op w = [] then {} else (reduce op (k.lanesOf op w)).2) := by
  have hd := isScalar_of_elemOk_of_isRed hop hok
  rw [Ctx.elem_of_isRed hop, elemRed_eq hop]
  by_cases hcs : k.lanesOf op w = []
  · by_cases hem : (emptyRed op).2 = true
    · simp only [hcs, hem, and_self, if_true]
      exact ⟨(k.wrote_writeDest hd _ _).vecEmpty, (k.flagged_writeDest hd _ _).vecEmpty⟩
    · simp only [hcs, hem, if_true]
      exact ⟨k.wrote_writeDest hd _ _, k.flagged_writeDest hd _ _⟩
  · simp only [hcs, false_and, if_false]
    exact ⟨k.wrote_writeDest hd _ _, k.flagged_writeDest hd _ _⟩

/-! ## Statistics (R147) -/

theorem Ctx.staOf_setSta (k : Ctx) (n m : Nat) (v : StaSlot) : (k.setSta n v).staOf m = if m = n then v else k.staOf m :=
  SMap.get_set _ _ _ _ _

/-- The opcode of STADD, or of STMAX. -/
def staOp (add : Bool) : Nat := if add then 0x38 else 0x39

theorem Ctx.elem_staOp (add : Bool) (w : W32) (k : Ctx) : k.elem (staOp add) w = elemSta add w k := by cases add <;> rfl

theorem isScalar_of_elemOk_staOp {add : Bool} {w : W32} {en : BitVec 4} (hok : elemOk (staOp add) w en = true) :
    (regOf (eA w)).isScalar = true := by
  have harity : elemArity (staOp add) = some 1 := by cases add <;> rfl
  have hmem : (elemUses (staOp add) w).all Reg.isScalar = true := by
    cases add <;> exact (Bool.and_eq_true_iff.mp hok).2
  simpa [elemUses, harity] using hmem

/-- The value that the program adds or folds is the scalar it names. -/
theorem Ctx.opnd_staOp {add : Bool} {w : W32} {k : Ctx} (hok : elemOk (staOp add) w k.pos.en = true) :
    k.opnd (staOp add) w 0 0 = k.prog.scalar k.pos.row (regOf (eA w)) := by
  rw [Ctx.opnd_of_elemArity k (by cases add <;> rfl), Prog.lane_of_isScalar _ _ (isScalar_of_elemOk_staOp hok) (by decide)]

section
variable (add : Bool) (w : W32) (k : Ctx)

theorem staOf_elemSta (n : Nat) : (elemSta add w k).staOf n =
    let o := k.staOf (eD w)
    let v := toF64 (k.prog.scalar k.pos.row (regOf (eA w)))
    if n = eD w then
      { o with val := if add then dadd o.val v else dmaxi (o.kind != 2) o.val v, psn := o.psn || k.srcMark (staOp add) w }
    else k.staOf n :=
  Ctx.staOf_setSta ..

/-- The addition raises its flags (log entry 88); either instruction raises INV for a signalling NaN. -/
theorem flagged_elemSta : k.Flagged (elemSta add w k)
    (let o := k.staOf (eD w)
     let v := k.prog.scalar k.pos.row (regOf (eA w))
     if add then { daddFlags o.val (toF64 v) with inv := (daddFlags o.val (toF64 v)).inv || (up v).isSnan } else { inv := (up v).isSnan }) := by
  cases add <;> exact ⟨rfl, rfl⟩

end

/-! ## The statement -/

/-- The rows of the reductions: opcode, value over no active lane and whether that is EMPTY (Tables 6-4 and 6-5). -/
def redRows (c : CoreId) (x : CtxId) (w : W32) : List (Instr × Nat × W32 × Bool) :=
  [(.rsum c x w, 0x28, 0x00000000, false), (.rssq c x w, 0x29, 0x00000000, false), (.rmax c x w, 0x2A, 0xFF800000, true),
    (.rmin c x w, 0x2B, 0x7F800000, true), (.ramax c x w, 0x2C, 0x00000000, true), (.rargmax c x w, 0x2D, 0xFFFFFFFF, true),
    (.rargmin c x w, 0x2E, 0xFFFFFFFF, true), (.rmean c x w, 0x2F, 0x7FC00000, true), (.rcnt c x w, 0x30, 0x00000000, false)]

theorem redRows_spec {c : CoreId} {x : CtxId} {w : W32} {e : Instr × Nat × W32 × Bool} (he : e ∈ redRows c x w) :
    (∀ s, exec e.1 s = .next (s.elemGo c x e.2.1 w)) ∧ isRed e.2.1 = true ∧ emptyRed e.2.1 = e.2.2 := by
  simp only [redRows, List.mem_cons, List.not_mem_nil, or_false] at he
  obtain rfl | rfl | rfl | rfl | rfl | rfl | rfl | rfl | rfl := he
  all_goals exact ⟨fun _ => rfl, rfl, rfl⟩

theorem staRows_spec {c : CoreId} {x : CtxId} {w : W32} {e : Instr × Nat × Bool}
    (he : e ∈ [(Instr.stadd c x w, 0x38, true), (.stmax c x w, 0x39, false)]) :
    (∀ s, exec e.1 s = .next (s.elemGo c x e.2.1 w)) ∧ e.2.1 = staOp e.2.2 := by
  simp only [List.mem_cons, List.not_mem_nil, or_false] at he
  obtain rfl | rfl := he
  all_goals exact ⟨fun _ => rfl, rfl⟩

/-- Settles O22: each instruction has the effect of its opcode in its context; a reduction is one write, a statistics instruction one slot. -/
theorem reductionInstructions : Obligations.ReductionInstructions := by
  refine ⟨fun c x w s e he hok => ?_, fun c x w s e he hok => ?_⟩
  · obtain ⟨hexec, hop, hempty⟩ := redRows_spec he
    obtain ⟨honly, hctx⟩ := State.elemGo_of_elemOk hok
    refine ⟨_, hexec s, honly, ?_⟩
    obtain ⟨hwrote, hstatus⟩ := Ctx.wrote_elem_of_isRed hop hok
    rw [hempty] at hwrote hstatus
    rw [hctx]
    refine ⟨hwrote, ?_⟩
    split at hstatus
    · next h =>
      rw [if_pos h, hstatus]
      exact ⟨rfl, rfl, rfl⟩
    · next h => rwa [if_neg h]
  · obtain ⟨hexec, hop⟩ := staRows_spec he
    obtain ⟨honly, hctx⟩ := State.elemGo_of_elemOk hok
    refine ⟨_, hexec s, honly, ?_⟩
    rw [hop] at hok
    rw [hctx, hop, Ctx.elem_staOp]
    simp only [Ctx.opnd_staOp hok]
    exact ⟨(staOf_elemSta ..).trans (if_pos rfl), fun n hn => (staOf_elemSta ..).trans (if_neg hn), rfl, flagged_elemSta ..⟩

end Sys2Proof.Machine
end

section
/-!
PROOFS. What the installation of a configuration document leaves alone (R390): none of the operations by which contexts, cores and partitions
are reset, losses noticed, records sent and windows latched touches security state or the generation of the partition table. One lemma per
operation, in the order of use.
-/
namespace Sys2Proof.Machine

/-- Entries taken out under other keys are not missed. -/
theorem SMap.get_filter_of_key {α : Type} {d : Nat → α} {m : SMap α} {f : Nat × α → Bool} {q : Nat} (h : ∀ v, f (q, v) = true) :
    SMap.get d (m.filter f) q = SMap.get d m q := by
  induction m with
  | nil => rfl
  | cons e t ih =>
    obtain ⟨k, v⟩ := e
    by_cases hk : k = q
    · subst hk
      simp [h, SMap.get]
    · rw [List.filter_cons]
      split <;> simp [SMap.get, hk, ih]

/-- The generation of the partition table (R389). -/
abbrev genKey : Nat := dk 0x2600 3

/-- Security state and the generation of the partition table are the same in both states. -/
structure State.SameSecGen (r s : State) : Prop where
  sec : s.sec = r.sec
  gen : s.d genKey = r.d genKey

theorem dkx_ne_genKey (p : PartId) {b n : Nat} (h : n < 256 ∧ (b + 15 < 0x2600 ∨ 0x2600 < b)) : dkx b p n ≠ genKey := by
  unfold dkx genKey dk
  omega

theorem ckPort_ne_genKey {n k : Nat} (hn : n < 10) (hk : k < 256) : ckPort n k ≠ genKey := by
  unfold ckPort genKey dk
  omega

namespace State.SameSecGen

theorem refl (s : State) : s.SameSecGen s := ⟨rfl, rfl⟩

section
variable {r s : State} (h : r.SameSecGen s)
include h

/-! ## Writes of single fields, branches and walks -/

/-- An update of other fields. -/
theorem other {t : State} (hsec : t.sec = s.sec := by rfl) (hdict : t.dict = s.dict := by rfl) : r.SameSecGen t :=
  ⟨hsec.trans h.sec, (congrArg (SMap.get dictDflt · genKey) hdict).trans h.gen⟩

theorem setD {k : Nat} {v : W64} (hk : k ≠ genKey) : r.SameSecGen (s.setD k v) :=
  ⟨h.sec, (s.d_setD_ne k genKey v hk.symm).trans h.gen⟩

/-- An entry of a partition-indexed block is written. -/
theorem setDkx {p : PartId} {b n : Nat} {v : W64} (hk : n < 256 ∧ (b + 15 < 0x2600 ∨ 0x2600 < b) := by decide) :
    r.SameSecGen (s.setD (dkx b p n) v) := h.setD (dkx_ne_genKey p hk)

theorem setCrit {k : Nat} {v : W64} (hk : k ≠ genKey) : r.SameSecGen (s.setCrit k v) :=
  ⟨h.sec, (SMap.get_set_ne _ _ _ _ _ hk.symm).trans h.gen⟩

theorem setCaps {caps : List Capture} : r.SameSecGen { s with caps := caps } := h.other

theorem ite {t : State} {c : Prop} [Decidable c] (ht : r.SameSecGen t) : r.SameSecGen (if c then s else t) := by
  split <;> assumption

/-- A walk over a list keeps what each of its steps keeps. -/
theorem foldl_mem {α : Type} {f : State → α → State} {l : List α} (hf : ∀ s, ∀ x ∈ l, r.SameSecGen s → r.SameSecGen (f s x)) :
    r.SameSecGen (l.foldl f s) := List.foldlRecOn (motive := r.SameSecGen) l f h fun s hs x hx => hf s x hx hs

theorem foldl {α : Type} {f : State → α → State} {l : List α} (hf : ∀ {s x}, r.SameSecGen s → r.SameSecGen (f s x)) :
    r.SameSecGen (l.foldl f s) := h.foldl_mem fun _ _ _ => hf

/-- A walk that also counts. -/
theorem foldl_fst {α β : Type} {f : State × β → α → State × β} {l : List α} {b : β}
    (hf : ∀ {a x}, r.SameSecGen a.1 → r.SameSecGen (f a x).1) : r.SameSecGen (l.foldl f (s, b)).1 :=
  List.foldlRecOn (motive := fun a => r.SameSecGen a.1) l f h fun _ ha _ _ => hf ha

/-! ## Packets -/

theorem toPort {n : PortId} {p : Packet} : r.SameSecGen (s.toPort n p) := ite h (ite h.other h.other)

theorem sendRsv {p : PartId} {g : Group} {rack : List Nat} {plane : Nat} {release : Bool} :
    r.SameSecGen (s.sendRsv p g rack plane release) := by
  unfold State.sendRsv
  split
  · exact h
  · exact h.other.toPort

theorem releaseGroup {p : PartId} {g : Group} : r.SameSecGen (s.releaseGroup p g) := by
  refine (h.foldl fun hs => ?_).other
  split
  · exact ite hs.sendRsv hs
  · exact hs

theorem sendPlan {pl : Option PathPlan} {u : Nat} {p : Packet} {t : State} (ht : s.sendPlan pl u p = some t) : r.SameSecGen t := by
  unfold State.sendPlan at ht
  split at ht
  · cases ht
  · dsimp only at ht
    split at ht
    · cases ht
    · cases ht
      exact toPort (ite h.other h)

theorem sendMsg {p : PartId} {dst : W16} {us : List W128} : r.SameSecGen (s.sendMsg p dst us) := by
  refine ite h ?_
  split
  · next ht => exact h.other.sendPlan ht
  · exact h

/-! ## Companion link -/

theorem mclSend {m : MclMsg} : r.SameSecGen (s.mclSend m) := ite h h.other

theorem mclSendReq {n : Nat} {q : MclReq} {sink : MclSink} : r.SameSecGen (s.mclSendReq n q sink) := h.other.mclSend

theorem mclGo {q : MclReq} {sink : MclSink} : r.SameSecGen (s.mclGo q sink) := by
  refine ite (ite h.other h) ?_
  split
  · exact h.mclSendReq
  · exact h.other

theorem msi {w : Win} : r.SameSecGen (s.msi w) := ite (ite h.mclGo h.mclGo.other) h.other

theorem writeRecord {p : PartId} {w : Win} {rec : BitVec 512} {irq : Bool} {note : Option (CoreId × CtxId × Nat)} :
    r.SameSecGen (s.writeRecord p w rec irq note) :=
  have hrec := h.other.mclGo
  ite hrec.msi hrec

theorem incTelemDrops {p : PartId} : r.SameSecGen (s.incD (dkx 0x2A60 p 3)) := h.setDkx

theorem writeTelem {p : PartId} {us : List (BitVec 512)} : r.SameSecGen (s.writeTelem p us) := by
  unfold State.writeTelem
  split
  · exact h
  · exact ite h.incTelemDrops (h.foldl fun hs => hs.mclGo).other.mclGo

theorem sendWait {m : MclWait} {t : State} (ht : s.sendWait m = some t) : r.SameSecGen t := by
  cases m with
  | record p rec irq note =>
    simp only [State.sendWait] at ht
    split at ht
    · split at ht
      · cases ht
        exact h.writeRecord
      · cases ht
    · cases ht
  | telem p us =>
    cases ht
    exact h.writeTelem
  | done p l =>
    obtain ⟨w, -, rfl⟩ := Option.map_eq_some_iff.1 ht
    exact h.mclGo
  | req q k =>
    simp only [State.sendWait] at ht
    split at ht
    · obtain ⟨n, -, rfl⟩ := Option.map_eq_some_iff.1 ht
      exact h.mclSendReq
    · cases ht
      exact h

theorem flushGo {l held : List MclWait} : r.SameSecGen (flushGo l held s) := by
  induction l generalizing s held with
  | nil => exact h.other
  | cons m l ih =>
    refine ite (ih h) ?_
    split
    · next ht => exact ih (h.sendWait ht)
    · exact ih h

theorem flushMcl : r.SameSecGen s.flushMcl := ite h.other.flushGo h

theorem telemetry {p : PartId} {type : Nat} {step : W64} {payload : List Byte} : r.SameSecGen (s.telemetry p type step payload) :=
  ite h (ite h.incTelemDrops h.other.flushMcl)

theorem postDone {p : PartId} : r.SameSecGen (s.postDone p) := h.other.flushMcl

/-! ## Faults -/

theorem logFault {f : FaultInfo} : r.SameSecGen (s.logFault f) := by
  refine ite (h.setD (by decide)) ?_
  dsimp only
  split
  · exact h.setD (by decide)
  · exact telemetry (ite h.other h.other)

theorem tellVote {p : PartId} {us : List W128} : r.SameSecGen (s.tellVote p us) := h.foldl fun hs => hs.sendMsg

theorem tellLeader {p : PartId} : r.SameSecGen (s.tellLeader p) := ite h h.sendMsg

theorem voidPart {p : PartId} {n : W64} {code : Nat} {send : Bool} : r.SameSecGen (s.voidPart p n code send) :=
  have hvoid := h.other.setDkx.setDkx
  ite h (tellLeader (ite hvoid.tellVote hvoid))

theorem haltPart {p : PartId} : r.SameSecGen (s.haltPart p) := h.foldl fun hs => hs.other

theorem raiseF {f : FaultInfo} : r.SameSecGen (s.raiseF f) :=
  have hlog := h.logFault
  ite hlog (ite hlog.other (ite hlog hlog.haltPart.voidPart))

theorem raiseCtx {c : CoreId} {x : CtxId} {step : W64} {code detail : Nat} : r.SameSecGen (s.raiseCtx c x step code detail) := h.raiseF

theorem raiseMgmt {p : PartId} {code detail : Nat} : r.SameSecGen (s.raiseMgmt p code detail) := h.raiseF

/-! ## Waits, loss notices -/

theorem applyHalt {c : CoreId} {x : CtxId} {status op : Byte} {src : Src} {slot : Nat} {step : W64} {resumeAt : Option (StreamId × Nat)} :
    r.SameSecGen (s.applyHalt c x status op src slot step resumeAt) := by
  unfold State.applyHalt
  dsimp only
  exact ite (ite h.other h.other.raiseCtx) h

theorem closeJob {c : CoreId} {x : CtxId} {j : Job} : r.SameSecGen (s.closeJob c x j) := by cases x <;> exact h.other

theorem finish {c : CoreId} {x : CtxId} {id : Nat} {status : Byte} : r.SameSecGen (s.finish c x id status) := by
  unfold State.finish
  split
  · exact h
  · exact h.closeJob.applyHalt

theorem loseWaits {c : CoreId} {k : Nat} {all : Bool} : r.SameSecGen (s.loseWaits c k all).1 := by
  refine h.foldl_fst fun ha => ?_
  split
  · split
    · exact ha.other.finish
    · exact ha
  · exact ha

theorem lossNotice {p : PartId} {dev : W16} {core : Byte} {ctx : Bool} {epoch : W16} :
    r.SameSecGen (s.lossNotice p dev core ctx epoch) := by
  unfold State.lossNotice
  dsimp only
  refine ite ?_ (raiseMgmt (setDkx ?_))
  all_goals
    refine foldl_fst (foldl ?_ fun hs => hs.other) fun ha => ha.loseWaits
    exact h.setDkx

theorem notify {devs : List W16} {cs : List (PartId × CoreId × CtxId)} : r.SameSecGen (s.notify devs cs) :=
  h.foldl fun hs => (hs.foldl fun hs => hs.sendMsg).lossNotice

/-! ## Resets of cores and partitions -/

theorem clearPart {p : PartId} : r.SameSecGen (s.clearPart p) :=
  (h.foldl fun hs => hs.releaseGroup).other.setDkx.setDkx.setDkx

theorem partReset {p : PartId} : r.SameSecGen (s.partReset p) := (h.foldl fun hs => hs.other).clearPart.notify

theorem coreReset {c : CoreId} : r.SameSecGen (s.coreReset c) :=
  (h.other.foldl fun hs => hs.other).setCaps.foldl fun hs => hs.notify

/-- The entries dropped are a partition's own: none of index 0x2600. -/
theorem dropEntries {p : PartId} : r.SameSecGen (s.dropEntries p) := by
  refine ⟨h.sec, (SMap.get_filter_of_key fun _ => ?_).trans h.gen⟩
  dsimp only
  revert p
  decide

theorem removePart {p : PartId} : r.SameSecGen (s.removePart p) := h.partReset.dropEntries

theorem matchCores : r.SameSecGen s.matchCores := h.foldl fun hs =>
  have hcore := ite hs.coreReset hs
  ite hcore hcore.other

/-! ## Ports and windows -/

theorem portRoles : r.SameSecGen s.portRoles := by
  refine h.foldl_mem fun s n hn hs => ?_
  have hkey (k : Nat) (hk : k < 256) : ckPort n k ≠ genKey := ckPort_ne_genKey (List.mem_range.1 hn) hk
  refine ite (setD ?_ (hkey 9 (by decide))) ?_
  all_goals exact ite (hs.setD (hkey 1 (by decide))) hs

theorem holdWin {w : Win} : r.SameSecGen (s.holdWin w) := ite (h.foldl fun hs => hs.mclGo.mclGo) (ite h.mclGo h)

theorem startWin {w : Win} : r.SameSecGen (s.startWin w) := holdWin (ite h.other (ite h.other (ite h.other h.other)))

theorem latchWindows : r.SameSecGen s.latchWindows :=
  ite h (((h.foldl fun hs => hs.foldl fun ht => ht.other).foldl fun hs => hs.startWin).foldl fun hs => hs.postDone)

end
end State.SameSecGen

/-! ## Items of a document (R389, R390) -/

/-- A crit entry is written, so never the generation. -/
theorem DocItem.key_ne_genKey {i : DocItem} (hsub : i.sub < 256) (h : i.allowed = true) : i.key ≠ genKey := by
  intro hkey
  have hi : i.idx = 0x2600 ∧ i.sub = 3 := by
    unfold DocItem.key genKey dk at hkey
    omega
  have hro : entOf 0x2600 3 = some ⟨0x2600, 1, 0x03, 1, .u32, .ro, .m, 0, none⟩ := by decide
  simp [DocItem.allowed, hi, hro] at h

theorem sub_lt_of_mem_docItems {l : List Byte} {i : DocItem} (hi : i ∈ docItems l) : i.sub < 256 := by
  obtain ⟨c, -, rfl⟩ := List.mem_map.1 hi
  unfold docItem
  dsimp only
  cases c.drop 2 with
  | nil => decide
  | cons b t => simpa [ofLe] using b.isLt

/-- A document with result code 0 holds only items that a document may hold. -/
theorem allowed_of_docCode {s : State} {l : List Byte} {ovf : Bool} (h : (s.docCode l ovf).1 = 0) : ∀ i ∈ docItems l, i.allowed = true := by
  intro i hi
  obtain ⟨n, hn, rfl⟩ := List.mem_iff_getElem.1 hi
  unfold State.docCode at h
  split at h
  · cases h
  split at h
  · cases h
  split at h
  · cases h
  dsimp only at h
  split at h
  · cases h
  · next hnone => simpa [hn] using List.find?_eq_none.1 hnone n (List.mem_range.2 hn)

theorem State.SameSecGen.writeItems {r s : State} (h : r.SameSecGen s) {l : List Byte} (hl : ∀ i ∈ docItems l, i.allowed = true) :
    r.SameSecGen (s.writeItems (docItems l)) :=
  h.foldl_mem fun _ _ hi hs => hs.setCrit (DocItem.key_ne_genKey (sub_lt_of_mem_docItems hi) (hl _ hi))

/-! ## Installation -/

theorem ETy.bytes_le (t : ETy) : t.bytes ≤ 8 := by cases t <;> decide

theorem keyWidth_le (k : Nat) : keyWidth k ≤ 64 := by
  unfold keyWidth
  split
  · next e _ => exact Nat.mul_le_mul_left 8 e.ty.bytes_le
  · exact le_rfl

theorem State.dN_incD (s : State) (k : Nat) : (s.incD k).dN k = (s.dN k + 1) % 2 ^ keyWidth k := by
  have hdvd : 2 ^ keyWidth k ∣ 2 ^ 64 := Nat.pow_dvd_pow 2 (keyWidth_le k)
  unfold State.incD State.addD State.setDN
  rw [State.dN, State.d_setD, BitVec.toNat_ofNat, BitVec.toNat_ofNat, Nat.mod_mod_of_dvd _ hdvd,
    Nat.mod_eq_of_lt (lt_of_lt_of_le (Nat.mod_lt _ (Nat.two_pow_pos _)) (Nat.le_of_dvd (by decide) hdvd))]

/-- A state that agrees with `s` up to one count of the generation. -/
theorem State.SameSecGen.counted {s u t : State} (hu : s.SameSecGen u) (ht : (u.incD genKey).SameSecGen t) :
    t.sec = s.sec ∧ s.Counted t genKey 1 := by
  refine ⟨ht.sec.trans hu.sec, ?_⟩
  calc t.dN genKey = (u.incD genKey).dN genKey := congrArg BitVec.toNat ht.gen
    _ = (u.dN genKey + 1) % 2 ^ keyWidth genKey := u.dN_incD genKey
    _ = (s.dN genKey + 1) % 2 ^ keyWidth genKey := by rw [State.dN, State.dN, hu.gen]

/-- An installation ends by noting the document; before that it counts the generation once and leaves security state as it was. -/
theorem State.install_eq (s : State) {l : List Byte} (hl : ∀ i ∈ docItems l, i.allowed = true) :
    ∃ t : State, s.install l = { t with sec := { t.sec with lastDoc := some l } } ∧ t.sec = s.sec ∧ s.Counted t genKey 1 := by
  have hs := SameSecGen.refl s
  refine ⟨_, rfl, SameSecGen.counted ?_ ((SameSecGen.refl _).latchWindows.portRoles.setD (by decide))⟩
  exact ((hs.foldl fun h => h.removePart).writeItems hl).matchCores.setD (by decide)

end Sys2Proof.Machine
end

section
/-!
PROOFS. Management bus and P-JTAG (R389 to R391, R408, R410): when a command is answered and what it then does; the readiness byte; the
configuration buffer; what P-JTAG offers.
-/
namespace Sys2Proof.Machine

/-! ## When a command is answered (R389, R408) -/

section
variable {s : State} {f : State → State}

theorem State.psb_ignored {ok : Bool} (h : ok = false ∨ s.board.pg = false) : s.psb ok f = .next s := by
  obtain rfl | h := h
  · rfl
  · simp [State.psb, h]

theorem State.psb_answered (h : s.board.pg = true) : s.psb true f = .next (f s) := by simp [State.psb, h]

theorem State.psbKernel_down {ok : Bool} (h : s.board.tkUp = false) : s.psbKernel ok f = .next s := by
  simp [State.psbKernel, State.psb, h]

theorem State.psbKernel_answered (hpg : s.board.pg = true) (htk : s.board.tkUp = true) : s.psbKernel true f = .next (f s) :=
  (State.psb_answered hpg).trans (by rw [if_pos htk])

end

theorem exec_bootStatusRead (ok : Bool) (s : State) :
    exec (.bootStatusRead ok) s = s.psb ok (fun s => s.emit (.smbus (leBytes 4 (s.dN (dk 0x2800 0x11))))) := rfl

theorem exec_readinessRead (ok : Bool) (s : State) : exec (.readinessRead ok) s = s.psb ok (fun s => s.emit (.smbus [s.readiness])) := rfl

theorem exec_resetCauseRead (ok : Bool) (s : State) :
    exec (.resetCauseRead ok) s = s.psb ok (fun s => s.emit (.smbus (leBytes 2 s.board.cause.toNat))) := rfl

theorem exec_configResultRead (ok : Bool) (s : State) :
    exec (.configResultRead ok) s = s.psbKernel ok (fun s => s.emit (.smbus (leBytes 2 s.sec.cfgResult.toNat))) := rfl

theorem exec_configBufferEmpty (ok : Bool) (s : State) :
    exec (.configBufferEmpty ok) s = s.psbKernel ok (fun s => { s with sec := { s.sec with cfgBuf := [], cfgOvf := false } }) := rfl

/-- The kernel's commands (Table 16-6). -/
def kernelCmds (ok : Bool) (l : List Byte) : List Instr :=
  [.configBufferWrite ok l, .configInstall ok, .configResultRead ok, .configBufferEmpty ok]

/-- The commands answered without the kernel. -/
def powerCmds (ok : Bool) : List Instr := [.bootStatusRead ok, .readinessRead ok, .resetCauseRead ok]

theorem exec_kernelCmds {ok : Bool} {l : List Byte} {c : Instr} (hc : c ∈ kernelCmds ok l) : ∃ f, ∀ s, exec c s = s.psbKernel ok f := by
  simp only [kernelCmds, List.mem_cons, List.not_mem_nil, or_false] at hc
  obtain rfl | rfl | rfl | rfl := hc
  all_goals exact ⟨_, fun _ => rfl⟩

theorem exec_powerCmds {ok : Bool} {c : Instr} (hc : c ∈ powerCmds ok) : ∃ f, ∀ s, exec c s = s.psb ok f := by
  simp only [powerCmds, List.mem_cons, List.not_mem_nil, or_false] at hc
  obtain rfl | rfl | rfl := hc
  all_goals exact ⟨_, fun _ => rfl⟩

theorem exec_psb_ignored {ok : Bool} {l : List Byte} {c : Instr} (hc : c ∈ kernelCmds ok l ++ powerCmds ok) {s : State}
    (h : ok = false ∨ s.board.pg = false) : exec c s = .next s := by
  obtain hc | hc := List.mem_append.1 hc
  · obtain ⟨f, hf⟩ := exec_kernelCmds hc
    exact (hf s).trans (State.psb_ignored h)
  · obtain ⟨f, hf⟩ := exec_powerCmds hc
    exact (hf s).trans (State.psb_ignored h)

/-- A read adds its answer to what the module has sent, and changes nothing else. -/
theorem exec_smbus_read {c : Instr} {s : State} {bytes : List Byte} (h : exec c s = .next (s.emit (.smbus bytes))) :
    ∃ t : State, exec c s = .next t ∧ { t with out := s.out } = s ∧ t.out = s.out ++ [.smbus bytes] := ⟨_, h, rfl, rfl⟩

/-! ## Readiness (R410) -/

/-- A byte put together from its bits has them. -/
theorem bitAt_byte_of_bits (b0 b1 b2 b3 b4 b5 b6 b7 : Bool) :
    let r : Byte := BitVec.ofNat 8 (b2n b0 + 2 * b2n b1 + 4 * b2n b2 + 8 * b2n b3 + 16 * b2n b4 + 32 * b2n b5 + 64 * b2n b6 + 128 * b2n b7)
    bitAt r 0 = b0 ∧ bitAt r 1 = b1 ∧ bitAt r 2 = b2 ∧ bitAt r 3 = b3 ∧ bitAt r 4 = b4 ∧ bitAt r 5 = b5 ∧ bitAt r 6 = b6 ∧
      bitAt r 7 = b7 := by
  revert b0 b1 b2 b3 b4 b5 b6 b7
  decide

/-! ## The configuration buffer (R390) -/

section
variable {s : State} (hpg : s.board.pg = true) (htk : s.board.tkUp = true)
include hpg htk

theorem exec_configBufferWrite (l : List Byte) :
    exec (.configBufferWrite true l) s = .next { s with sec := { s.sec with
      cfgBuf := s.sec.cfgBuf ++ l.take (65536 - s.sec.cfgBuf.length)
      cfgOvf := s.sec.cfgOvf || decide (65536 - s.sec.cfgBuf.length < l.length)
      cfgResult := if 65536 - s.sec.cfgBuf.length < l.length then 3 else s.sec.cfgResult } } := by
  change execConfigBufferWrite true l s = _
  rw [execConfigBufferWrite, State.psbKernel_answered hpg htk]
  simp only [decide_eq_true_eq]

theorem exec_configBufferWrite_fits {l : List Byte} (hl : s.sec.cfgBuf.length + l.length ≤ 65536) :
    exec (.configBufferWrite true l) s = .next { s with sec := { s.sec with cfgBuf := s.sec.cfgBuf ++ l } } := by
  have hroom : ¬ 65536 - s.sec.cfgBuf.length < l.length := by omega
  rw [exec_configBufferWrite hpg htk, List.take_of_length_le (by omega), decide_eq_false hroom, if_neg hroom, Bool.or_false]

theorem exec_configBufferWrite_overflows {l : List Byte} (hl : 65536 < s.sec.cfgBuf.length + l.length) (hbuf : s.sec.cfgBuf.length ≤ 65536) :
    ∃ t : State, exec (.configBufferWrite true l) s = .next t ∧ { t with sec := s.sec } = s ∧ t.sec.cfgBuf.length = 65536 ∧
      t.sec.cfgOvf = true ∧ t.sec.cfgResult = 3 := by
  have hroom : 65536 - s.sec.cfgBuf.length < l.length := by omega
  refine ⟨_, exec_configBufferWrite hpg htk l, rfl, ?_, ?_, if_pos hroom⟩
  · rw [List.length_append, List.length_take]
    omega
  · rw [decide_eq_true hroom, Bool.or_true]

section
variable (hshadow : s.sec.shadowN = s.sec.shadow.compl)
include hshadow

/-- While the shadows agree, CONFIG_INSTALL judges the document that the buffer holds and records the result; if it is good, it is
installed. -/
theorem exec_configInstall :
    exec (.configInstall true) s =
      let r := s.docCode s.sec.cfgBuf s.sec.cfgOvf
      let t : State := { s with sec := { s.sec with cfgBuf := [], cfgOvf := false, cfgResult := BitVec.ofNat 16 (r.2 * 256 + r.1) } }
      .next (if r.1 = 0 then (t.install s.sec.cfgBuf).settle else t) := by
  have huse : s.useShadow = s := if_pos (by rw [hshadow]; exact beq_self_eq_true _)
  change execConfigInstall true s = _
  rw [execConfigInstall, State.psbKernel_answered hpg htk]
  simp only [huse, Sec.emptied]

theorem exec_configInstall_refused {code item : Nat} (h : s.docCode s.sec.cfgBuf s.sec.cfgOvf = (code, item)) (hcode : code ≠ 0) :
    exec (.configInstall true) s =
      .next { s with sec := { s.sec with cfgBuf := [], cfgOvf := false, cfgResult := BitVec.ofNat 16 (item * 256 + code) } } := by
  rw [exec_configInstall hpg htk hshadow, h]
  exact congrArg _ (if_neg hcode)

theorem exec_configInstall_installed (h : (s.docCode s.sec.cfgBuf s.sec.cfgOvf).1 = 0) :
    ∃ t : State, exec (.configInstall true) s = .next t.settle ∧ t.sec.cfgBuf = [] ∧
      t.sec.cfgResult = BitVec.ofNat 16 ((s.docCode s.sec.cfgBuf s.sec.cfgOvf).2 * 256) ∧ t.sec.lastDoc = some s.sec.cfgBuf ∧
      s.Counted t genKey 1 ∧ t.sec.fuses = s.sec.fuses := by
  obtain ⟨t, ht, hsec, hgen⟩ := State.install_eq { s with sec := { s.sec with
    cfgBuf := [], cfgOvf := false, cfgResult := BitVec.ofNat 16 ((s.docCode s.sec.cfgBuf s.sec.cfgOvf).2 * 256) } } (allowed_of_docCode h)
  refine ⟨{ t with sec := { t.sec with lastDoc := some s.sec.cfgBuf } }, ?_, ?_, ?_, rfl, hgen, ?_⟩
  · rw [exec_configInstall hpg htk hshadow, ← ht]
    dsimp only
    rw [if_pos h, h, Nat.add_zero]
  all_goals rw [hsec]

end
end

/-! ## P-JTAG (R391) -/

/-- An instruction is loaded, and says so. -/
def State.loadJtag (s : State) (ir : JtagIr) (ext : Bool) : State :=
  { s with sec := { s.sec with jtag := ir, extest := ext } }.emit (.jtag ir)

/-- EXTEST while RESET is released is BYPASS. -/
theorem exec_jtag_extest (s : State) : exec (.jtagInstruction .extest) s =
    .next (s.loadJtag (if s.board.resetPin = true then .extest else .bypass) s.board.resetPin) := by
  cases hpin : s.board.resetPin with
  | true => exact if_pos hpin
  | false => exact if_neg (by simp [hpin])

theorem exec_jtag_debug_locked {s : State} (h : s.sec.shadow.debugLock = true) :
    exec (.jtagInstruction .debug) s = .next (s.loadJtag .bypass false) := if_pos h

theorem exec_jtag_debug_unlocked {s : State} (h : s.sec.shadow.debugLock = false) :
    exec (.jtagInstruction .debug) s = .refused .debugInstruction := if_neg (by simp [h])

theorem exec_jtag_standard {s : State} {e : JtagIr × JtagIr × Bool}
    (he : e ∈ [(JtagIr.bypass, JtagIr.bypass, false), (.idcode, .idcode, false), (.samplePreload, .samplePreload, false),
      (.extest, if s.board.resetPin = true then .extest else .bypass, s.board.resetPin)]) :
    exec (.jtagInstruction e.1) s = .next (s.loadJtag e.2.1 e.2.2) := by
  simp only [List.mem_cons, List.not_mem_nil, or_false] at he
  obtain rfl | rfl | rfl | rfl := he
  · rfl
  · rfl
  · rfl
  · exact exec_jtag_extest s

/-! ## The statement -/

/-- Settles O60: which commands are answered, the reads, the buffer and its document, and the instructions of P-JTAG, each by its lemma. -/
theorem managementBus : Obligations.ManagementBus := by
  intro s
  refine ⟨fun ok l c hc h => exec_psb_ignored (l := l) hc h, fun htk ok l c hc => ?_, fun hpg => ⟨?_, ?_, ?_⟩,
    fun hpg htk => ⟨?_, ?_, ?_, ?_, ?_⟩,
    fun e he => exec_jtag_standard he, exec_jtag_debug_locked, exec_jtag_debug_unlocked⟩
  · obtain ⟨f, hf⟩ := exec_kernelCmds hc
    exact (hf s).trans (State.psbKernel_down htk)
  · exact exec_smbus_read ((exec_bootStatusRead true s).trans (State.psb_answered hpg))
  · exact exec_smbus_read ((exec_resetCauseRead true s).trans (State.psb_answered hpg))
  · exact ⟨_, s.readiness, (exec_readinessRead true s).trans (State.psb_answered hpg), rfl, rfl, bitAt_byte_of_bits ..⟩
  · exact fun l hl => exec_configBufferWrite_fits hpg htk hl
  · exact fun l hl hbuf => exec_configBufferWrite_overflows hpg htk hl hbuf
  · exact (exec_configBufferEmpty true s).trans (State.psbKernel_answered hpg htk)
  · exact exec_smbus_read ((exec_configResultRead true s).trans (State.psbKernel_answered hpg htk))
  · exact fun hshadow => ⟨fun code item h hcode => exec_configInstall_refused hpg htk hshadow h hcode,
      exec_configInstall_installed hpg htk hshadow⟩

end Sys2Proof.Machine
end
